-- ==== Sys2Proof/Word.lean ====
section
/-! DEFINITION. The word types of the block and the index types of its units (R12, R163, R403, R431). -/

namespace Sys2Proof

/-- One byte. -/
abbrev Byte := BitVec 8

/-- A 32-bit word: a register, a scalar register, an FP32 lane. -/
abbrev Word := BitVec 32

/-- A byte string in memory order. -/
abbrev Bytes := List Byte

/-- Barge number, 0 to 33 (R12). -/
abbrev BargeId := Fin 34

/-- Reach number, 0 to 7 (R163). -/
abbrev ReachId := Fin 8

/-- A service with rings and a keeper core: reach 0 to 7, or 8 for twilight service (owner code 0x8 of R146). -/
abbrev SvcId := Fin 9

/-- Memory port, 0 to 15 (R12). -/
abbrev PortId := Fin 16

/-- Aqueduct link, 0 to 3 (R12). -/
abbrev LinkId := Fin 4

/-- Ephemeris slot, 0 to 255 (R245). -/
abbrev SlotId := Fin 256

/-- Towpath channel, 0 to 31 (R346). -/
abbrev ChanId := Fin 32

/-- Scalar register S0 to S31 (R109). -/
abbrev SReg := Fin 32

/-- Vector register V0 to V15 (R80). -/
abbrev VReg := Fin 16

/-- Descriptor index (R111). -/
abbrev DescId := Fin 256

end Sys2Proof
end

