-- ==== Sys2Proof/Syntax.lean ====
section
/-! DEFINITION. The commands of the block: one constructor of `Instr` for each row of opcode_table.json, in the table's
order, with the operands the numbered rules give it. The table gives the rows no encoding bits. -/

namespace Sys2Proof

/-- Kind of a memory or System Port transaction (R140, R217). -/
inductive Rw where
  | rd | wr
  deriving DecidableEq, Repr

/-- A ring of a reach (R199). -/
inductive RingSel where
  | sq0 | sq1 | cq
  deriving DecidableEq, Repr

/-- Causes of a BARGE_FAULT, in the order of their codes 0x1 to 0x8 (BRG_FAULT.CAUSE, R106). -/
inductive BargeCause where
  | scratchEcc | seqParity | mcodeParity | tokenOverflow | creditOverflow | addressRange | watchdog | sliceSignature
  deriving DecidableEq, Repr

/-- What triggers a security restart (R223). -/
inductive RestartCause where
  | lockstep | sramError | romError
  deriving DecidableEq, Repr

/-- The engine classes of R256, in the bit order of EPH_SLOT_ATTR_n.ENGINES (R261). -/
inductive Engine where
  | culvertXts | culvertTag | loadGcm | aqueduct | astrolabe | kdf | meridianGcm
  deriving DecidableEq, Repr

/-- Scalar functions of SALU, codes 0x0 to 0xB (R113). -/
inductive SFn where
  | add | sub | mul | minu | maxu | and | or | xor | shl | shr | cdiv32 | sltu
  deriving DecidableEq, Repr

/-- Conditions of BR, codes 0b000 to 0b011 (R113). -/
inductive BrCond where
  | eq | ne | ltu | geu
  deriving DecidableEq, Repr

/-- Vector functions of VOP, codes 0x00 to 0x0E (R117). -/
inductive VFn where
  | add | sub | mul | fma | min | max | abs | neg | rcp | rsqrt | exp2 | log2 | sinpi | cospi | copy
  deriving DecidableEq, Repr

/-- Kinds of VRED, codes 0b00 to 0b10 (R117). -/
inductive RedKind where
  | sum | max | min
  deriving DecidableEq, Repr

/-- Target of a SIGNAL (R113). -/
inductive SigTgt where
  | self | logical
  deriving DecidableEq, Repr

/-- An upset: of one 64-bit word of a barge's scratchpad or of Basin, of one bit or of two (R90, R134), or of Astrolabe's
datapath (R272); and the next `fails` accesses of the Boot Store, which fail (R331). -/
inductive Upset where
  | spad (barge : Fin 34) (word : Nat) (double : Bool)
  | basin (word : Nat) (double : Bool)
  | astrolabe
  | bootStore (fails : Nat)
  deriving DecidableEq, Repr

/-- One die-sensor sample: a signed value in quarters of a degree and the outcome of the sensor's self-check (R368). -/
structure DieSample where
  quarterC : Int
  selfCheck : Bool
  deriving DecidableEq, Repr

/-- Activity of one reach in a decision window of Sluice (R359): busy arith cycles and all arith cycles of each powered
barge island, line accesses of each Basin unit, 128-byte reads and 64-byte writes. -/
structure Activity where
  busy : List (Nat × Nat)
  lines : List Nat
  reads : Nat
  writes : Nat
  deriving DecidableEq, Repr

/-- How the words an Almanac command programs came out when verified by the seeing check (R325). -/
inductive ProgOutcome where
  | verified
  | windowLost   -- the programming window of R325 was not met before a word
  | windowCut    -- the window was lost during a word, which is verified as it stands
  | marginal     -- a word failed its verification or was interrupted
  deriving DecidableEq, Repr

/-- What starts a critical read of the Almanac (R319). -/
inductive CritCause where
  | crossing | daily
  deriving DecidableEq, Repr

/-- What a requester selects in NEGOTIATE_ALGORITHMS: true where it selects what R289 offers. -/
structure AlgSel where
  asym : Bool
  hash : Bool
  dhe : Bool
  aead : Bool
  keySchedule : Bool
  deriving DecidableEq, Repr

/-- The commands of the block. Operands that most senders leave alone stand last, with what a sender then means. -/
inductive Instr where
  -- pins, reset, environment and starts (R418 to R422, R223, R414, R356, R415, R366, R368, R15, R318, R227, R396, R224)
  | porNAssert (recordCut : Bool := false)
  | porNRelease
  | sysRstNAssert (refCycles : Nat)
  | sysRstNRelease
  | refClockLoss
  | refClockRestored
  | tamper (input : Fin 4) (sluiceCycles : Nat)
  | securityRestart (cause : RestartCause)
  | pwrAck (rail : Fin 6)
  | pwrFault (rail : Fin 6)
  | railAckTimeout (rail : Fin 6)
  | sensorUpdate (k : Fin 4) (value : BitVec 16)
  | sensorStale (k : Fin 4)
  | dieSensorSample (samples : Vector DieSample 64)
  | calibrationWindowEnd (counts : Vector Nat 64) (keeperRefs : Nat := 4096) (upsets : List Upset := [])
  | almanacFullRead (marginal : List Nat) (spareMarginal : List Nat)
  | firmwareSetLoaded
  | quickPassEnd (fails : List (Nat × Nat))
  | twilightPackageLoad
  | twilightBegin
  | rootDerivationDone
  | twilightEnd
  -- memory ports (R413, R146, R140, R145, R144)
  | mptCreditGrant (p : PortId) (kind : Rw)
  | wheelSlot (p : PortId)
  | mptReadResponse (p : PortId) (tag : Nat) (status : BitVec 2) (data : Bytes)
  | mptWriteAck (p : PortId) (tag : Nat) (status : BitVec 2)
  | mptReadTimeout (p : PortId) (tag : Nat)
  | latencyLevelRelease (p : PortId) (kind : Rw) (tag : Nat)
  -- System Port and rings (R214, R217, R218, R204, R212, R205, R188, R213, R206, R208, R219)
  | registerWrite (trusted : Bool) (addr : BitVec 24) (size : Nat) (data : Word)
  | sysObCredit (kind : Rw)
  | sysWheelSlot
  | sysObReadResponse (tag : Nat) (ok : Bool) (data : Bytes)
  | sysObWriteAck (tag : Nat) (ok : Bool)
  | sysObTimeout (kind : Rw) (tag : Nat)
  | sysResponseRelease (kind : Rw) (tag : Nat)
  | sqDoorbell (r : SvcId) (q : Fin 2) (trusted : Bool) (data : Word)
  | cqHeadWrite (r : SvcId) (trusted : Bool) (data : Word)
  | ringEnable (r : SvcId) (ring : RingSel) (trusted : Bool) (data : Word)
  | ringDisable (r : SvcId) (ring : RingSel) (trusted : Bool) (data : Word)
  | descriptorFetched (r : SvcId) (q : Fin 2)
  | submit (r : SvcId) (q : Fin 2) (kc : Nat)
  | cancel (r : SvcId) (q : Fin 2) (kc : Nat)
  | load (r : SvcId) (q : Fin 2) (kc : Nat)
  | descNop (r : SvcId) (q : Fin 2) (kc : Nat)
  | stagingComplete (r : SvcId) (kc : Nat)
  | recordWritten (r : SvcId)
  | irqPendClear (data : Word)
  -- lock cycles (R183, R103, R104, R186, R191, R192)
  | formCycle (r : SvcId) (kc : Nat)
  | stepToken (b : BargeId)
  | stepRefusal (r : SvcId) (b : BargeId)
  | stepDoneToken (r : SvcId) (b : BargeId) (kc : Nat)
  | commitPoint (r : SvcId) (kc : Nat)
  | deadlineTestTick (r : SvcId) (kc : Nat)
  | tollCfgWrite (n : ReachId) (c : Fin 16) (trusted : Bool) (kc : Nat) (data : Word)
  | tollCapWrite (n : ReachId) (c : Fin 16) (trusted : Bool) (data : Word)
  -- passage programs (R113, R115, R117, R118, R119)
  | nop (b : BargeId)
  | wait (b : BargeId) (ta : Fin 16) (ca : BitVec 12) (tb : Fin 16) (cb : BitVec 12) (tc : Fin 16) (cc : BitVec 12)
  | signal (b : BargeId) (tgt : SigTgt) (lb : Fin 32) (ch : Fin 16) (amt : BitVec 12) (cv : Bool) (cc : Fin 16)
  | cgive (b : BargeId) (lb : Fin 32) (ch : Fin 16) (amt : BitVec 12)
  | clim (b : BargeId) (ch : Fin 16) (lim : BitVec 12)
  | stepdone (b : BargeId)
  | fence (b : BargeId)
  | li (b : BargeId) (d : SReg) (imm : Word)
  | salu (b : BargeId) (d : SReg) (ra : SReg) (rb : SReg) (fn : SFn)
  | sld (b : BargeId) (d : SReg) (off : BitVec 14)
  | sst (b : BargeId) (ra : SReg) (addr : BitVec 21)
  | tdset (b : BargeId) (desc : DescId) (dim : Fin 4) (ra : SReg)
  | loop (b : BargeId) (ra : SReg) (len : BitVec 16)
  | br (b : BargeId) (ra : SReg) (rb : SReg) (cond : BrCond) (off : BitVec 16)
  | mma (b : BargeId) (dst srcA srcB : DescId) (mm1 nm1 : Fin 64) (kreg : SReg) (depth : Fin 8) (part : Fin 32)
  | vop (b : BargeId) (fn : VFn) (vd va vb vc : VReg) (lm1 : Fin 128)
  | vld (b : BargeId) (desc : DescId) (vd : VReg) (oreg : SReg) (lm1 : Fin 128)
  | vst (b : BargeId) (desc : DescId) (va : VReg) (oreg : SReg) (lm1 : Fin 128)
  | vqst (b : BargeId) (desc : DescId) (va : VReg) (oreg : SReg)
  | vred (b : BargeId) (desc : DescId) (vd : VReg) (kind : RedKind) (nreg : SReg) (depth : Fin 8) (part : Fin 32)
      (pdesc : DescId)
  | vjoin (b : BargeId) (dst src : DescId) (nreg : SReg) (depth : Fin 8)
  | vbc (b : BargeId) (vd va : VReg) (lane : Fin 128)
  | vspl (b : BargeId) (vd : VReg) (ra : SReg)
  | vrng (b : BargeId) (vd : VReg) (seed tok draw : SReg) (domain : BitVec 8) (lm1 : Fin 128)
  | vsel (b : BargeId) (pdesc idesc : DescId) (nreg : SReg) (va : VReg) (d : SReg) (greedy : Bool)
  | mld (b : BargeId) (dst src : DescId) (tv : Bool) (tch : Fin 16) (cv : Bool) (cch : Fin 16)
  | mst (b : BargeId) (dst src : DescId) (tv : Bool) (tch : Fin 16) (cv : Bool) (cch : Fin 16)
  | mxfr (b : BargeId) (dst src : DescId) (lb : Fin 32) (tv : Bool) (tch : Fin 16) (cv : Bool) (cch : Fin 16)
  | mgth (b : BargeId) (dst src : DescId) (p16 : Bool) (tv : Bool) (tch : Fin 16)
  -- barge events, migration, Dredges, load (R94 to R105, R136, R161, R156)
  | tokenArrival (b : BargeId) (ch : Fin 16)
  | creditArrival (b : BargeId) (ch : Fin 16)
  | bargeWatchdog (b : BargeId)
  | bargeFault (b : BargeId) (cause : BargeCause)
  | migrationStart (b : BargeId)
  | migrationComplete (b : BargeId)
  | bargeDredgeComplete (b : BargeId)
  | basinUnitEpochLost (u : Fin 8)
  | basinDredgeComplete (r : SvcId)
  | loadChunk
  -- operator commands (R390)
  | reachCreate (reach flights units k : Nat) (base pages keys : Nat) (aqd : Vector Nat 4)
  | reachDrain (reach mode : Nat)
  | spill (reach en : Nat)
  | debugSet (reach level : Nat)
  | debugTap (value : Nat)
  | winRead (offset count : Nat)
  | winWrite (offset : Nat) (value : Word)
  | latLevel (sys mpt : Nat)
  | linkOpen (link channel : Nat)
  | alertLog (offset : Nat)
  | ackLog
  | linkWrapKey (key : Vector Byte 32)
  | lcNonce
  | lcAdvance (token : Bytes)
  | lcScrap
  | almProvisionWrite (word : Nat) (value : BitVec 64)
  | almGenRoots
  | almLock (part : Nat) (digest : BitVec 64)
  | almLicenseeWrite (word : Nat) (value : BitVec 64)
  | almRevoke (index : Nat)
  | almCounterAdvance (counter value : Nat)
  | almRepair
  | stcStream (offset : Nat) (data : Bytes)
  | stcAbort
  | stcConfirm
  | stcDrydock
  | stcRoute (mask : Nat)
  | stcPush (link : Nat)
  | watchWrite (offset : Nat) (data : Bytes)
  | pwrTrim (driver : Bool) (t : Nat)
  | pwrKeep (driver : Bool)
  | pwrOff
  | pwrBudget (reach w8 : Nat)
  | pwrBoostEn (reach en : Nat)
  | pwrDwell (driver : Bool) (reach ms : Nat)
  | pwrWake
  | query
  -- Sluice (R371, R361, R367, R374)
  | dozeEnter (n : ReachId)
  | sluiceDecision (activity : Vector Activity 8)
  | sluiceSecondTick
  | sluiceReplySend
  -- Ephemeris (R249, R256, R255)
  | loadRoot (slot : SlotId)
  | ephWrite (slot parent : SlotId) (owner : Nat) (engines : BitVec 7) (lifetime klen : BitVec 2) (uses : Word) (key : Bytes)
  | derive (slot source : SlotId) (owner : Nat) (label : BitVec 4) (engines : BitVec 7) (lifetime klen : BitVec 2)
      (uses : Word) (ctx : Bytes)
  | invalidate (slot : SlotId)
  | invalidateOwner (owner : Nat)
  | expireOwner (owner : Nat)
  | ephCmdDone
  | keyUse (slot : SlotId) (engine : Engine) (owner : Nat)
  | drbgReseed (healthy : Bool)
  -- Astrolabe (R265, R275, R273)
  | p384Verify (owner keyline : Nat)
  | p384Sign (owner keyline : Nat)
  | p384Keygen (owner keyline : Nat) (seedSrc : Bool) (label : BitVec 4) (slot : SlotId)
  | p384Ecdh (owner keyline : Nat)
  | ed25519Verify (owner keyline : Nat)
  | rsa4096Verify (owner keyline : Nat)
  | rsa4096Crt (owner keyline : Nat)
  | mlkemKeygen (owner keyline : Nat)
  | mlkemEncaps (owner keyline : Nat)
  | mlkemDecaps (owner keyline : Nat)
  | mldsaKeygen (owner keyline : Nat) (seedSrc : Bool) (label : BitVec 4) (slot : SlotId)
  | mldsaSign (owner keyline : Nat)
  | mldsaVerify (owner keyline : Nat)
  | selftest (owner : Nat)
  | abort
  | astrolabeOpDone (invariantHolds selftestPasses parityError : Bool)
  | astDma (addr : Word) (dirOut : Bool) (bootStream : Bool) (line count owner storeAddr : Nat) (go : Bool := true)
  | astDmaDone
  -- Almanac controller (R329, R322, R325, R326, R319)
  | almRead (word : Nat)
  | almProgram (word : Nat) (value : BitVec 64)
  | almLockPart (part : Nat) (digest : BitVec 64 := 0)
  | almRepairCmd
  | seeCritical
  | genRoots
  | almCmdDone (outcome : ProgOutcome) (marginal : List Nat) (spareFails : List Nat)
  | almanacCriticalRead (cause : CritCause)
  -- Towpath (R349 to R352)
  | twpMsgWrite (mid : Nat) (c : ChanId) (w : Fin 16) (data : Word)
  | send (mid : Nat) (c : ChanId)
  | taken (mid : Nat) (c : ChanId)
  | twpBindWrite (mid : Nat) (c : ChanId) (data : Word)
  | twpLock (mid : Nat)
  | twpDbClear (mid : Nat) (e : Fin 13) (data : Word)
  | twpEmptyClear (mid : Nat) (e : Fin 13) (data : Word)
  -- Staircase and Drydock (R338, R343, R339, R340, R337)
  | towpathStreamPiece
  | drydockStream (link : Option LinkId) (offset : Nat) (data : Bytes)
  | streamApplied (storeOk : Bool)
  | staircaseAck (link : LinkId) (ack : Bytes)
  | streamTimeout
  | counter0AdvanceTimer
  -- Aqueduct (R297 to R308)
  | aqdWindowSlot (l : LinkId) (bothKeyed : Bool := true)
  | aqdInit (l : LinkId) (msg : Bytes)
  | aqdResp (l : LinkId) (c : Fin 9) (msg : Bytes)
  | aqdFin (l : LinkId) (c : Fin 9) (msg : Bytes)
  | aqdData (l : LinkId) (window : Bytes)
  | aqdCredit (l : LinkId) (window : Bytes)
  | aqdXack (l : LinkId) (window : Bytes)
  | aqdRekey (l : LinkId) (window : Bytes)
  | aqdClose (l : LinkId) (window : Bytes)
  | aqdPublic (l : LinkId) (window : Bytes)
  | aqdZero (l : LinkId) (window : Bytes)
  | handshakeTimeout (l : LinkId) (c : Fin 9)
  | creditTimeout (l : LinkId) (c : Fin 9)
  | transportReadyDrop (l : LinkId)
  -- SPDM and attestation (R289 to R294)
  | getVersion (ep : Nat)
  | getCapabilities (ep : Nat) (version : Nat := 0x12)
  | negotiateAlgorithms (ep : Nat) (sel : AlgSel)
  | getDigests (ep : Nat)
  | getCertificate (ep slot offset length : Nat)
  | challenge (ep slot : Nat) (nonce : Vector Byte 32)
  | getMeasurements (ep index : Nat) (nonce : Vector Byte 32)
  | keyExchange (ep : Nat) (target : Nat) (exchange : Bytes) (vendor : Word := 0x475A4F56)
  | finish (sess : Fin 8) (chain : List Bytes) (signature : Bytes)
  | heartbeat (sess : Fin 8)
  | keyUpdate (sess : Fin 8)
  | endSession (sess : Fin 8)
  | chunkSend (ep : Nat) (seqNo : Nat) (last : Bool) (data : Bytes)
  | chunkGet (ep : Nat) (seqNo : Nat)
  | respondIfReady (ep token : Nat)
  | gxReport (ep reach fmt : Nat) (nonce : Vector Byte 32) (offset : Nat) (sess : Option (Fin 8) := none)
  | gxPqChain (ep offset : Nat) (sess : Option (Fin 8) := none)
  | gxKeyOffer (sess : Fin 8)
  | gxKeyDeliver (sess : Fin 8) (c iv wrapped tag : Bytes)
  | gxDrain (sess : Fin 8) (mode : Nat)
  | gxIdentity (ep : Nat)
  | sessionIdleTimeout (sess : Fin 8)
  | keyOfferLapse
  -- Collimator, Dredge end, Chronograph, Eyepiece (R398, R393, R399, R395, R171, R411, R409, R392, R387, R298)
  | collimatorPick
  | sliceEnd
  | sliceDue (island : Fin 64)
  | astrolabeSelftestDue
  | reachDredgeComplete (n : ReachId)
  | chrCfgWrite (mid : Nat) (u : Fin 71) (k : Fin 8) (data : Word)
  | chrSnapSel (mid : Nat) (m : Fin 4) (data : Word)
  | chrSampleDone (m : Fin 4) (sinceWindow : Nat)
  | eyeMemData (mid : Nat) (write : Bool) (data : Word)
  | halt (mid : Nat) (target : Nat) (on : Bool)
  | step (mid : Nat) (target : Nat)
  | winUpdate (write : Bool) (offset : BitVec 24) (data : Word)
  | winCapture
  | winAccessDone
  | transportReadyRise (l : LinkId)
  | signatureCompared (signature : Option (BitVec 64))
  deriving DecidableEq, Repr

end Sys2Proof
end

