-- ==== Sys2Proof/Config.lean ====
section
/-! DEFINITION. What an implementation fixes and the spec leaves open: contents of ROMs, keys of the vendor, drawn values,
and the functions of standards whose text the spec does not give. Every constant here has no body, so a claim holds whatever
it is. Integration parameters (R4) are plain data in the state (`State.params`). -/

namespace Sys2Proof.Config

/-- Output number `k` of CTR_DRBG, `n` bytes (R255). The argument is the state's counter of free values. -/
opaque drbg (k n : Nat) : Bytes

/-- A word the spec leaves open, number `k` of the counter of free values. -/
opaque freeWord (k : Nat) : Word

/-- Digest of the ROM contents, 48 bytes (R229). -/
opaque romDigest : Vector Byte 48

/-- The two islands beside an island on the die; the spec gives no floor plan (R368). -/
opaque besideIslands (island : Nat) : Fin 64 × Fin 64

/-- Digest that measurement register `reg` is extended with over a decoded state whose byte layout the spec does not give
(R229: registers 1, 2 and 9), as a function of the model's own layout of it. -/
opaque stateDigest (reg : Nat) (content : Bytes) : Vector Byte 48

/-- The vendor's P-384 public keys, production and development, Qx then Qy (R239, R333). -/
opaque vendorP384 (production : Bool) : Vector Byte 96

/-- The vendor's ML-DSA-87 public keys, production and development (R239, R282, R333). -/
opaque vendorMldsa (production : Bool) : Vector Byte 2592

/-- The public key that an X.509 certificate certifies: Qx then Qy of P-384, or the ML-DSA-87 key (R280, R292, R378). -/
opaque certificateKey (der : Bytes) : Bytes

/-- DER of the subject name that an X.509 certificate certifies (R280). -/
opaque certificateSubject (der : Bytes) : Bytes

/-- DER of the notBefore time of an X.509 certificate (R280). -/
opaque certificateNotBefore (der : Bytes) : Bytes

/-- DER of the Alias certificate's subject name, which the spec does not give (R280). -/
opaque aliasSubject (postQuantum : Bool) (publicKey : Bytes) : Bytes

/-- DER of the Alias certificate's extensions other than MultiTcbInfo, which the spec does not give (R280). -/
opaque aliasExtensions (postQuantum : Bool) (deviceId publicKey : Bytes) : Bytes

/-- An X.509 certificate certifies a P-384 key (R292, R378). -/
opaque certificateP384 (der : Bytes) : Bool

/-- An X.509 certificate carries a signature that verifies under a public key (R292, R303, R378). -/
opaque signedBy (der publicKey : Bytes) : Bool

/-- DEVICE_ID of the neighbour on a link (R301). -/
opaque peerDeviceId (link : Fin 4) : Vector Byte 48

/-- Channel of the neighbour that a channel of a link is joined to (R302). -/
opaque peerChannel (link : Fin 4) (channel : Nat) : Fin 8

/-- The hash of an SPDM transcript or message: SPDM's framing lies outside the spec (R290, R292). -/
opaque spdmDigest (kind : Nat) (content : Bytes) : Vector Byte 48

/-- Keys of the SPDM key schedule: handshake (0) and data (1) phase, request and response direction, then updates (R289). -/
opaque spdmKey (phase : Nat) (response : Bool) (secret transcript : Bytes) : Vector Byte 32

/-- ML-KEM-1024 key generation from a 64-byte seed (FIPS 203): decapsulation key of 3,168 bytes. -/
opaque mlkemDk (seed : Bytes) : Vector Byte 3168

/-- Encapsulation key held in a decapsulation key (FIPS 203). -/
opaque mlkemEk (dk : Bytes) : Vector Byte 1568

/-- ML-KEM-1024 encapsulation to a key with 32 random bytes: ciphertext and shared key (FIPS 203). -/
opaque mlkemEncaps (ek rnd : Bytes) : Vector Byte 1568 × Vector Byte 32

/-- ML-KEM-1024 decapsulation, implicit rejection included (FIPS 203). -/
opaque mlkemDecaps (dk c : Bytes) : Vector Byte 32

/-- ML-DSA-87 key generation from a 32-byte seed: private key and public key (FIPS 204). -/
opaque mldsaKeys (seed : Bytes) : Vector Byte 4896 × Vector Byte 2592

/-- ML-DSA-87 signature of μ with a 32-byte rnd, and the attempts it took; no signature within 64 attempts is none
(FIPS 204, R266). -/
opaque mldsaSign (sk mu rnd : Bytes) : Option (Vector Byte 4627 × Fin 64)

/-- ML-DSA-87 verification of a signature over μ (FIPS 204). -/
opaque mldsaVerify (pk mu sig : Bytes) : Bool

/-- SHAKE256 of a message, `n` bytes (FIPS 202): the μ of ML-DSA is drawn through it. -/
opaque shake256 (m : Bytes) (n : Nat) : Bytes

/-- SHA3-256 of a message (FIPS 202): the H of ML-KEM. -/
opaque sha3 (m : Bytes) : Vector Byte 32

/-- The line of the upper half of Meridian SRAM from which Meridian's firmware moves inputs into Astrolabe, or to which it
moves results out (R273). -/
opaque astLine (out : Bool) : Fin 7808

/-- Expected signature of a slice, held in the test island's mask ROM (R393). -/
opaque sliceSignature (island slice : Nat) : BitVec 64

/-- A byte the load engine writes where a package gives none: after the last byte of a section within its block, and in a tag
line beside its tags; by owner, load generation and address (R125, R154, R156). -/
opaque loadFill (owner gen addr : Nat) : Byte

/-- Where the keeper core keeps the 8-byte copies of its contexts in its data memory (R177). -/
opaque ctxCopyBase : Fin 32768

/-- The 8-byte copy of a context: TAG, state, ring and output-token index, in a layout the spec does not give (R177). -/
opaque ctxCopy (tag state ring tokIdx : Nat) : Vector Byte 8

/-- The 64-byte record of a context, in a layout the spec does not give (R177). -/
opaque ctxRecord (fields : List Nat) : Vector Byte 64

/-- Whether a package's bucket limits bound the leaves of the part of an MMA whose K is a run-time value: the spec gives the
bound and no procedure (R115, R128). By program, instruction index and bucket table. -/
opaque leafBound (prog : Bytes) (pc : Nat) (buckets : Bytes) : Bool

/-- Whether the token counts of a schedule balance where they depend on run-time values (R128). By its programs. -/
opaque tokensBalance (progs : List Bytes) : Bool

end Sys2Proof.Config
end

