-- ==== Sys2Proof/Machine/State.lean ====
section
/-! DEFINITION. The state of the block as plain data: every register, buffer, queue, mode and pin the spec names, with
its reset value as the field's default. The rule that names each piece stands in its docstring; INVENTORY.md lists them
line by line. `State.reset` is the block with por_n low (R418). -/

namespace Sys2Proof.Machine

/-- Byte-addressed storage: address and byte pairs, addresses strictly rising, no entry equal to zero. An unlisted
address reads zero (R418: every store is taken as empty; a Dredge writes zero, R105, R161). -/
abbrev Mem := List Host.Cell

/-- No command of this block ends in a fault: the spec gives every input a behaviour (R10). Closed, with no constructor:
nothing raises it, which is safe. -/
inductive Fault where
  deriving DecidableEq, Repr

/-- Refusals. -/
inductive Refusal where
  /-- Raised by an arm of `exec` whose command has no meaning yet; no arm does in this model. Safe: nothing is claimed of
  such a command. -/
  | notModelled (mnemonic : String)
  deriving DecidableEq, Repr

/-! ### Integration parameters -/

/-- Integration parameters (R4): plain data fixed when the die is built; no command changes one. The default values are the
model's choice inside the ranges the rules give (assumption 5). -/
structure Params where
  mptClkMhz : Nat := 1000
  tamperMask : BitVec 4 := 0xF#4
  sensorMode : Nat := 0
  coolantInletMax : Nat := 40
  coolantFlowMin : Nat := 1
  stackTempMax : Nat := 85
  twilightBase : Nat := 0
  twilightSize : Nat := 0x4000000
  vddPortMv : Nat := 750
  mgmtBinding : Nat := 0
  tapMfrId : BitVec 11 := 0
  clampSys : Nat := 0
  clampIrq : Nat := 0
  clampMpt : Nat := 0
  clampAqd : Nat := 0
  clampMgmt : Nat := 0
  clampBs : Nat := 2
  clampDbg : Nat := 0
  clampPwr : Nat := 0x1F
  clampTamperAck : Nat := 0
  clampReady : Nat := 0
  clampAlert : Nat := 0
  deriving DecidableEq, Repr

/-! ### Islands, pins, alerts and outputs -/

/-- One clock island: GLB_ISL_STATUS_n and GLB_ISL_CAL_n (R18, R19). -/
structure Island where
  powered : Bool := false
  clkLocked : Bool := false
  clkGated : Bool := false
  calValid : Bool := false
  stopped : Bool := false
  freqMhz : Nat := 0
  cycles : Nat := 0
  seq : Nat := 0
  /-- The island is held in reset (R417, R419, R434). -/
  inReset : Bool := true
  /-- The synthesiser has been locked, at one frequency, through the whole window in progress (R15, R16). -/
  windowWhole : Bool := false
  /-- Neither gate, stop, power nor clock has changed in the window in progress: its clock ran, or stood, all through it. -/
  steady : Bool := true
  /-- The island's own time since it left reset, in picoseconds: its cycles converted with its own calibration (R14, R16). -/
  timePs : Nat := 0
  /-- It left reset in the window in progress (R189). -/
  fresh : Bool := false
  deriving DecidableEq, Repr

/-- Pin levels the block keeps (R412, R418 to R422, R260). -/
structure Pins where
  porN : Bool := false
  sysRstN : Bool := true
  refClkOk : Bool := true
  tamperN : BitVec 4 := 0xF#4
  tamperAck : Bool := false
  deriving DecidableEq, Repr

/-- One 16-byte record of the alert log (R45). -/
structure Alert where
  seq : Nat
  status : Nat
  unit : Nat
  island : Nat
  reach : Nat
  index : Nat
  cause : Nat
  deriving DecidableEq, Repr

/-- The operator's alert log: the 256 most recent records, oldest first, and the read mark (R45, R421). -/
structure AlertLog where
  records : List Alert := []
  nextSeq : Nat := 0
  /-- One more than the sequence number of the last record marked as read; 0 when none is. -/
  readUpTo : Nat := 0
  deriving DecidableEq, Repr

/-- One record of the audit log (R215). -/
structure Audit where
  offset : Nat
  lsb : Nat
  written : Nat
  applied : Nat
  rule : Nat
  mid : Nat
  width : Nat
  deriving DecidableEq, Repr

/-- SPDM answers by name (R289 to R295). -/
inductive SpdmCode where
  | ok | invalidRequest | unsupportedRequest | unexpectedRequest | busy | sessionLimitExceeded | responseNotReady
  deriving DecidableEq, Repr

/-- How a message travels on the Management Port: the binding, and its MCTP message type (R288, R343). -/
structure Mctp where
  binding : Nat
  type : Nat
  deriving DecidableEq, Repr

/-- What the block drove at its ports in answer to a command. -/
inductive Emit where
  /-- A Management Port answer: completion status and payload (R291, R390). -/
  | mgmt (via : Mctp) (status : Nat) (data : Bytes)
  | spdm (via : Mctp) (code : SpdmCode) (data : Bytes)
  /-- An encapsulated request to the requester: GET_DIGESTS, or GET_CERTIFICATE (R292). -/
  | encap (via : Mctp) (certificate : Bool)
  /-- Outbound System Port transactions (R217). -/
  | hostRead (tag addr len : Nat)
  | hostWrite (tag addr : Nat) (data : Bytes)
  /-- Memory Port requests (R140). -/
  | memRead (p : PortId) (tag addr : Nat)
  | memWrite (p : PortId) (tag addr : Nat) (data : Bytes)
  /-- One Aqueduct window of 32 flits (R297). -/
  | window (l : LinkId) (data : Bytes)
  /-- A request on the Power Request Port (R414). -/
  | power (rail : Fin 6) (on : Bool) (mv : Nat)
  /-- Capture-DR on WIN (R387). -/
  | tap (done err : Bool) (data : Word)
  /-- The word a register read of Eyepiece's window returns (R392). -/
  | regRead (mid off : Nat) (data : Word)
  deriving DecidableEq, Repr

/-- An event logged under R10: the command refused and the status it was refused with. -/
structure Refused where
  what : String
  status : Nat
  deriving DecidableEq, Repr

/-! ### Meridian (boot, life cycle, measurements) -/

/-- GLB_BOOT_STATUS.PHASE (R244). -/
inductive Phase where
  | rom | verify | twilight | full | twilightOnly | drydock | provision | halted
  deriving DecidableEq, Repr

/-- Life-cycle states, R238. -/
inductive Lc where
  | blank | test | dev | prod | rma | scrap
  deriving DecidableEq, Repr

/-- GLB_BOOT_STATUS.SLOT (R244). -/
inductive BootSlot where
  | a | b | drydock | none
  deriving DecidableEq, Repr

/-- How far the start in progress has come (R224). -/
inductive StartStep where
  | held         -- in reset, or OFF, or HALTED
  | almanac      -- step 1 done, step 2 to end with ALMANAC_FULL_READ
  | slotChosen   -- step 4 done, step 5 to end with FIRMWARE_SET_LOADED
  | firmware     -- step 5 done, step 6 to end with TWILIGHT_PACKAGE_LOAD
  | package      -- step 6's load done, INIT to complete
  | twilight     -- step 7
  | derived      -- step 8 done
  | done         -- step 9, or the phase in which the start ends early
  deriving DecidableEq, Repr

/-- Meridian (R222 to R244, R279, R284). -/
structure Meridian where
  phase : Phase := .rom
  lc : Lc := .blank
  lcMarginal : Bool := false
  /-- The start found the life-cycle word marginal: there is no running state (R226). -/
  lcUndecided : Bool := false
  lcPending : Bool := false
  slot : BootSlot := .none
  twilightModel : Bool := false
  /-- Twilight has lost its last barge; its resources are released when its records are written (R237). -/
  twilightEnding : Bool := false
  rootsOk : Bool := false
  waitMem : Bool := false
  lockstep : Nat := 0
  cause : Nat := 0
  twilightMs : Nat := 0
  fullMs : Nat := 0
  /-- Security-island time at which the reset of the present start was released (R244). -/
  startPs : Nat := 0
  step : StartStep := .held
  /-- Cause of TWILIGHT_ONLY found in step 2 or 3 (R226); none while step 8 is to be performed. -/
  stopCause : Option Nat := none
  /-- Nonces issued in the present start and not yet used (R240). -/
  nonces : List Bytes := []
  lcBusy : Bool := false
  rootsStopped : Bool := false
  deviceId : Bytes := []
  startId : Bytes := []
  /-- The DeviceID certificate of the classical chain, and of the post-quantum one, is withheld (R280). -/
  chainMismatch : Bool := false
  pqMismatch : Bool := false
  aliasCert : Bytes := []
  aliasPq : Bytes := []
  /-- Digests of the five components of R227, in its order (R284). -/
  fwDigest : List Bytes := []
  /-- Versions of the five components, from the manifest (R332). -/
  fwVersions : List Nat := []
  halted : Bool := false
  /-- Meridian SRAM by offset; the lower 512 KiB hold Meridian firmware (R227). -/
  sram : Mem := []
  deriving DecidableEq, Repr

/-- A measurement register of 48 bytes and its extend count (R229, R244). -/
structure Meas where
  value : Bytes := List.replicate 48 0
  count : Nat := 0
  deriving DecidableEq, Repr

/-! ### Packages -/

/-- One entry of the region table as loaded (R125, R156): kind, base, size and tag array. -/
structure Region where
  weight : Bool
  base : Nat
  size : Nat
  tagBase : Nat
  deriving DecidableEq, Repr

/-- One entry of the bucket table (R126). -/
structure Bucket where
  maxPatches : Nat
  maxPrompt : Nat
  maxContext : Nat
  maxNew : Nat
  maxRows : Nat
  chunk : Nat
  patch : Nat
  deriving DecidableEq, Repr

/-- One entry of the schedule table (R125). -/
structure Sched where
  progSection : Nat
  descSection : Nat
  init : Nat
  step : Nat
  resume : Nat
  progLen : Nat
  deriving DecidableEq, Repr

/-- A directory entry (R124). -/
structure Section where
  typ : Nat
  region : Nat
  offset : Nat
  size : Nat
  deriving DecidableEq, Repr

/-- What the keeper core and Culvert keep of a loaded package (R125, R126, R156). `codeOff`: offset within region 0 of each
section of the directory that is a program image or a descriptor table, 0 for the others. -/
structure Package where
  flights : Nat := 0
  basinBytes : Nat := 0
  regions : List Region := []
  buckets : List Bucket := []
  scheds : List Sched := []
  codeOff : List Nat := []
  deriving DecidableEq, Repr

/-! ### Reaches -/

inductive RState where
  | empty | loading | sealed | draining | dredging
  deriving DecidableEq, Repr

inductive Debug where
  | closed | observe | opened
  deriving DecidableEq, Repr

/-- Which Dredge of a reach runs (R171): after a failed load or INIT, for OPEN, after DRAINING or LOADING drained, tamper. -/
inductive DredgeKind where
  | none | failedLoad | forOpen | full | tamper
  deriving DecidableEq, Repr

/-- The reach table (R163 to R175) with what Meridian keeps of the reach's tenant (R255, R284). -/
structure Reach where
  state : RState := .empty
  locked : Bool := false
  debug : Debug := .closed
  pendingDebug : Debug := .closed
  opened : Bool := false
  drainCancel : Bool := false
  epoch : Nat := 0
  flights : Nat := 0
  units : List Nat := []
  slotCount : Nat := 0
  slotPhase : Nat := 0
  keyFirst : Nat := 0
  keyCount : Nat := 0
  aqd : Vector Nat 4 := Vector.replicate 4 0
  memBase : Nat := 0
  memPages : Nat := 0
  loadGen : Nat := 0
  binding : Bytes := []
  tenantChain : Bytes := []
  nonce : Bytes := []
  packageDigest : Bytes := List.replicate 48 0
  pkg : Option Package := none
  /-- INIT runs, or waits for a barge, before SEALED is entered (R168). -/
  initPending : Bool := false
  dredge : DredgeKind := .none
  /-- A unit of the share lost its epoch: Dredge and INIT pending (R136). -/
  restage : Bool := false
  /-- The load command to be answered when the partial Dredge ends: its tag, ring and status (R168). -/
  loadRec : Option (Nat × Fin 2 × Nat) := none
  /-- The LOAD command whose load succeeded and whose INIT is to complete: its tag and ring (R168). -/
  initRec : Option (Nat × Fin 2) := none
  deriving DecidableEq, Repr

/-! ### Barges -/

inductive Role where
  | unassigned | active | spare | underTest | failed | twilight | disabled
  deriving DecidableEq, Repr

/-- Entry point a barge runs from (R120). -/
inductive Run where
  | idle | init | step | resume
  deriving DecidableEq, Repr

/-- A loop in progress: first index of the body, index after it, rounds left (R113). -/
structure LoopFrame where
  first : Nat
  stop : Nat
  left : Nat
  deriving DecidableEq, Repr

/-- An instruction held at dispatch (R92, R113, R119): the counters it waits for with their counts, a credit channel it
needs, or the completion of earlier instructions; `what` is done again when it fires. -/
inductive Held where
  | wait (needs : List (Fin 16 × Nat))
  | credit (ch : Fin 16) (what : Instr)
  /-- An earlier load writes a range that the instruction reads or writes (R92); `what` is done again when it is complete. -/
  | order (what : Instr)
  /-- Operands in a memory region are being read, as move `id`; `what` is done when they have come (R112, R117). -/
  | operands (id : Nat) (what : Instr)
  | fence
  | stepdone
  /-- Microcode is still writing the program and descriptor areas (R122). -/
  | program
  deriving DecidableEq, Repr

/-- A move through memory that is not complete (R119): its requests still to complete, the scratchpad ranges it writes
(start, length) and the token counter it posts to on arrival. -/
structure Move where
  id : Nat
  left : Nat
  writes : List (Nat × Nat) := []
  tok : Option (Fin 16) := none
  deriving DecidableEq, Repr

/-- What follows a Dredge of the barge (R81, R104). -/
inductive AfterDredge where
  | stay | spare | resume
  deriving DecidableEq, Repr

/-- A barge (R80, R106, R107, R109, R113). -/
structure Barge where
  role : Role := .unassigned
  mcodeVersion : Nat := 0
  mcodeLoaded : Bool := false
  /-- The 8 KiB microcode store by offset (R80, R93). -/
  mcode : Mem := []
  migrating : Bool := false
  partner : Option BargeId := none
  /-- The barge is the destination of its migration: the logical index is not yet repointed to it (R99). -/
  migDest : Bool := false
  /-- Owning reach, 0 to 7; 8 for twilight; 0xF for none. -/
  reach : Nat := 0xF
  logical : Nat := 0x3F
  epoch : Nat := 0
  faultCause : Nat := 0
  faultCount : Nat := 0
  corrected : Nat := 0
  uncorrected : Nat := 0
  tokens : Vector Nat 16 := Vector.replicate 16 0
  credits : Vector Nat 16 := Vector.replicate 16 0
  limits : Vector Nat 16 := Vector.replicate 16 4095
  sregs : Vector Word 32 := Vector.replicate 32 0
  vregs : Vector (Vector Word 128) 16 := Vector.replicate 16 (Vector.replicate 128 0)
  loops : List LoopFrame := []
  pc : Nat := 0
  run : Run := .idle
  cycle : Nat := 0
  held : Option Held := none
  moves : List Move := []
  nextMove : Nat := 0
  spad : Mem := []
  /-- Words of 64 bits of the scratchpad with a single-bit error, and with an error that cannot be corrected, by address / 8
  (R90); a write of a whole word, and a Dredge, make it good. -/
  weak : List Nat := []
  bad : List Nat := []
  /-- Operands read from memory regions for the instruction held at dispatch: region × 2^32 + offset; whether all have come. -/
  operands : Mem := []
  operandsIn : Bool := false
  cleared : Bool := true
  dredging : Bool := false
  /-- A step abort is on its way and has not reached the barge (R96). -/
  abortDue : Bool := false
  afterDredge : AfterDredge := .stay
  spareSince : Nat := 0
  deriving DecidableEq, Repr

/-- Entries travelling in crossings between units (R21, R23, R114). -/
inductive Msg where
  | stepToken (dst : BargeId) (cycle epoch : Nat)
  | stepDone (src : BargeId) (svc : Nat)
  | refusal (src : BargeId) (svc : Nat)
  | token (src dst : BargeId) (ch : Fin 16) (amount : Nat)
  | credit (src dst : BargeId) (ch : Fin 16) (amount : Nat)
  /-- Data for a barge that wait for its crossing (R24): addresses and bytes, and the move of its own that they complete a
  request of; `src` none: they come from a memory port; `operand`: they are operands, not for the scratchpad. -/
  | fill (src : Option BargeId) (dst : BargeId) (data : List (Nat × Bytes)) (move : Option Nat) (operand : Bool)
  deriving DecidableEq, Repr

/-! ### Basin -/

/-- A Basin unit: BSN_UNIT_u (R135, R162). `cleared`: Dredged since its epoch last became 0. -/
structure BUnit where
  epoch : Nat := 0
  owner : Nat := 0xF
  cleared : Bool := true
  deriving DecidableEq, Repr

/-- Basin (R131 to R136): its units and its bytes, addressed bank x 786,432 + row x 128 + byte. -/
structure Basin where
  units : Vector BUnit 8 := Vector.replicate 8 {}
  mem : Mem := []
  /-- Words of 64 bits with a single-bit error, and with an error that cannot be corrected, by address / 8 (R134). -/
  weak : List Nat := []
  bad : List Nat := []
  corrected : Nat := 0
  uncorrected : Nat := 0
  lastBank : Nat := 0
  deriving DecidableEq, Repr

/-! ### Memory ports, Culvert and the load engine -/

/-- Where the plaintext of a read goes, and what a write serves: a barge's move (its scratchpad pieces), or a load. A piece
is (offset in the 128-byte line, length, scratchpad address). -/
inductive MemUse where
  | move (b : BargeId) (id : Nat) (pieces : List (Nat × Nat × Nat))
  /-- Operands of an instruction; a piece's last number is region × 2^32 + offset. -/
  | operand (b : BargeId) (id : Nat) (pieces : List (Nat × Nat × Nat))
  | store (b : BargeId) (id : Nat)
  | load
  | tagLine
  deriving DecidableEq, Repr

/-- A request waiting for its wheel slot (R138, R146). `block`: the weight block it belongs to (R153). -/
structure MemReq where
  kind : Rw
  addr : Nat
  use : MemUse
  data : Bytes := []
  block : Option Nat := none
  region : Nat := 0
  deriving DecidableEq, Repr

/-- An issued transaction: outstanding, answered and held for its release, or due and not yet answered (R140, R144). -/
structure MemTxn where
  tag : Nat
  svc : SvcId
  req : MemReq
  spilled : Bool
  answered : Bool := false
  data : Bytes := []
  /-- A read's data have been decrypted and are held for their release (R144, R153). -/
  plain : Bool := false
  due : Bool := false
  /-- The response is discarded without decryption when it arrives (R151, R160). -/
  discard : Bool := false
  /-- The transaction has timed out; its tag stays out of the quota until a response arrives (R145). -/
  lost : Bool := false
  /-- The read holds a tag of the spill pool (R143, R148). -/
  pool : Bool := false
  /-- Tag of the weight block, once its tag line has come (R153). -/
  blockTag : Option Bytes := none
  deriving DecidableEq, Repr

/-- A stored 128-byte tag line of a reach (R154), most recently used first in the list. -/
structure TagLine where
  svc : SvcId
  addr : Nat
  data : Bytes
  deriving DecidableEq, Repr

/-- A memory port with its Culvert engine (R138 to R149, R153, R154, R162). -/
structure Port where
  latLevel : Nat := 0x200
  ctrlReady : Bool := false
  wheel : Vector Nat 64 := Vector.replicate 64 0xF
  nextWheel : Option (Vector Nat 64) := none
  count : Nat := 0
  quota : Vector Nat 8 := Vector.replicate 8 0
  spillEn : Vector Bool 8 := Vector.replicate 8 false
  /-- Credits held of the memory controller (R413). -/
  rdCredits : Nat := 0
  wrCredits : Nat := 0
  queue : Vector (List MemReq) 9 := Vector.replicate 9 []
  backlog : Vector (List MemReq) 9 := Vector.replicate 9 []
  txns : List MemTxn := []
  tagLines : List TagLine := []
  spillLast : Fin 8 := 7
  corrected : Nat := 0
  uncorrectable : Nat := 0
  timeout : Nat := 0
  late : Nat := 0
  skipped : Nat := 0
  tagErr : Nat := 0
  tagErrReach : Nat := 0xF
  deriving DecidableEq, Repr

/-- A load in progress or waiting (R156 to R158, R203). `svc` 8 is the twilight load of R233. -/
structure LoadJob where
  reach : ReachId
  tag : Nat
  sq : Fin 2
  imageAddr : Nat
  imageBytes : Nat
  image : Bytes := []
  chunk : Nat := 0
  /-- The chunk being fetched: its bytes by offset, its length, and the reads of it still to come. -/
  staged : Mem := []
  fetchLen : Nat := 0
  fetchLeft : Nat := 0
  /-- Memory writes of released plaintext still to be acknowledged. -/
  writesLeft : Nat := 0
  /-- The chunk with LAST has been released and the check passed. -/
  complete : Bool := false
  deriving DecidableEq, Repr

inductive LoadState where
  | idle | running | done | failed
  deriving DecidableEq, Repr

/-- The load engine (R155 to R158): CUL_LOAD_STATUS and CUL_LOAD_CHUNK (R162). -/
structure LoadEngine where
  state : LoadState := .idle
  reach : Nat := 0
  status : Nat := 0
  chunkIndex : Nat := 0
  job : Option LoadJob := none
  queue : List LoadJob := []
  deriving DecidableEq, Repr

/-! ### Keeper cores -/

inductive ReqState where
  | queued | active | moored | ended
  deriving DecidableEq, Repr

inductive Policy where
  | continue | moor | cancel
  deriving DecidableEq, Repr

/-- A resident request: its context (R177, R179, R181). Times are keeper time in hundredths of a microsecond. -/
structure Req where
  ctx : Nat
  tag : Nat
  state : ReqState
  sq : Fin 2
  normal : Bool
  cust : Fin 16
  seed : BitVec 64
  greedy : Bool
  maxNew : Nat
  deadlineUs : Nat
  policy : Policy
  moorLimitMs : Nat
  patchRows : Nat
  patchCols : Nat
  nPrompt : Nat
  frameAddr : Nat
  promptAddr : Nat
  outAddr : Nat
  bucket : Bucket
  prefilled : Nat := 0
  tokIdx : Nat := 0
  lastToken : Nat := 0
  acceptSeq : Nat
  acceptCus : Nat
  mooredCus : Nat := 0
  /-- POLICY has been applied (R190). -/
  policyDone : Bool := false
  deriving DecidableEq, Repr

/-- One toll account (R192, R193, R198). -/
structure Toll where
  en : Bool := false
  endMode : Bool := false
  rate : Nat := 0
  cap : Nat := 0
  balance : Int := 0
  lastRefillCus : Nat := 0
  deriving DecidableEq, Repr

/-- One row entry of a lock cycle (R185). -/
structure Entry where
  ctx : Nat
  tag : Nat
  decode : Bool
  sample : Bool
  greedy : Bool
  first : Bool
  row0 : Nat
  nRows : Nat
  pos : Nat
  tokIdx : Nat
  seed : BitVec 64
  inToken : Nat
  inputOff : Nat
  /-- The request was cancelled in this cycle: the entry commits nothing and is not charged (R188). -/
  dropped : Bool := false
  /-- Rings of the cancels accepted for it and not yet answered (R188). -/
  cancels : List (Fin 2) := []
  deriving DecidableEq, Repr

/-- The lock cycle formed or running (R183 to R186). -/
structure LockCycle where
  number : Nat
  entries : List Entry
  started : Bool := false
  startCus : Nat := 0
  schedule : Nat := 0
  /-- Barges whose step-done token has not arrived. -/
  waiting : List BargeId := []
  deriving DecidableEq, Repr

inductive CoreState where
  | reset | running | halted
  deriving DecidableEq, Repr

/-- A keeper core (R176 to R198); number 8 is the twilight entry of keeper core 0 (R232). -/
structure Keeper where
  core : CoreState := .reset
  liveSched : Nat := 0
  cycle : Nat := 0
  nextCycle : Nat := 0
  reqs : List Req := []
  finals : List Nat := []
  refusals : Nat := 0
  moorings : Nat := 0
  lateTokens : Nat := 0
  deadlineEnds : Nat := 0
  lastUs : Nat := 0
  tolls : Vector Toll 16 := Vector.replicate 16 {}
  timeCus : Nat := 0
  nowCus : Nat := 0
  lastTick : Nat := 0
  form : Option LockCycle := none
  sqTurn : Fin 2 := 0
  acceptSeq : Nat := 0
  dbgHalted : Bool := false
  /-- The 64 KiB data memory, and the 32 KiB instruction store (R176, R227). -/
  mem : Mem := []
  istore : Mem := []
  /-- Barges to run RESUME, or to be sent the step token again, before the next STEP (R104, R101). -/
  resuming : List BargeId := []
  /-- Those of them that refused a step token (R104, R198). -/
  refused : List BargeId := []
  /-- Logical indices lost in a step that is ending, to be substituted in rising order when it has ended (R96). -/
  lost : List Nat := []
  deriving DecidableEq, Repr

/-! ### Host rings and the System Port -/

inductive RingState where
  | disabled | enabled | faulted
  deriving DecidableEq, Repr

/-- A completion record (R207). -/
structure Rec where
  tag : Nat
  token : Option Nat
  tokIdx : Nat
  status : Nat
  last : Bool
  reply : Bool
  sq : Fin 2
  stop : Bool
  cycle : Nat
  keeperUs : Nat
  outAddr : Nat
  /-- Last record of its group (R211). -/
  groupEnd : Bool
  /-- Context freed when the record has been written (R181). -/
  frees : Option Nat
  /-- The record's token is in host memory (R182, R208). -/
  tokDone : Bool := false
  /-- The record is one of those of a lock cycle, which hold back the next formation (R183). -/
  ofCycle : Bool := false
  /-- The record ends a request with the error of its step, whose status R43 orders. -/
  stepError : Bool := false
  deriving DecidableEq, Repr

/-- Progress of the record being written (R208). -/
inductive RecStage where
  | start | token | first | final | written
  deriving DecidableEq, Repr

/-- A submission ring (R199, R212, R220). `fetched`: descriptors fetched and not yet taken. -/
structure Sq where
  base : Nat := 0
  gen2 : Bool := false
  sizeLog2 : Nat := 6
  enable : Bool := false
  state : RingState := .disabled
  head : Nat := 0
  tail : Nat := 0
  fetched : List Bytes := []
  /-- A fetch is waiting or outstanding; its line when it has come. -/
  fetching : Bool := false
  line : Option Bytes := none
  /-- Entries that the line being fetched held when its read was asked for. -/
  lineWant : Nat := 0
  deriving DecidableEq, Repr

/-- The completion ring (R207 to R212, R220). `recs`: records not yet written, the first being written. -/
structure Cq where
  base : Nat := 0
  gen2 : Bool := false
  sizeLog2 : Nat := 6
  enable : Bool := false
  state : RingState := .disabled
  head : Nat := 0
  tail : Nat := 0
  phase : Bool := true
  recs : List Rec := []
  stage : RecStage := .start
  /-- A write of the record being written waits for its slot or its acknowledgement. -/
  writing : Bool := false
  deriving DecidableEq, Repr

structure RingBlock where
  sq : Vector Sq 2 := Vector.replicate 2 {}
  cq : Cq := {}
  deriving DecidableEq, Repr

/-- What an outbound transaction serves (R218). -/
inductive SysUse where
  | fetch (r : SvcId) (q : Fin 2)
  /-- Pieces (offset in the line, length, share offset) of the input area, of the entry of a context (R206). -/
  | stage (r : SvcId) (ctx : Nat) (pieces : List (Nat × Nat × Nat))
  | record (r : SvcId)
  /-- Bytes of a load chunk from an offset. -/
  | chunk (off : Nat)
  | message (s : Fin 16)
  deriving DecidableEq, Repr

structure SysReq where
  kind : Rw
  addr : Nat
  len : Nat
  data : Bytes := []
  use : SysUse
  deriving DecidableEq, Repr

structure SysTxn where
  tag : Nat
  owner : Nat
  req : SysReq
  answered : Bool := false
  ok : Bool := true
  data : Bytes := []
  due : Bool := false
  discard : Bool := false
  /-- Its transfer has failed and has raised its alert (R218). -/
  failed : Bool := false
  /-- Failed by timeout; its tag is out of use until a late response comes (R218). -/
  lost : Bool := false
  deriving DecidableEq, Repr

/-- Interrupt routing and message registers of one source (R219, R221). -/
structure Route where
  mode : Nat := 0
  line : Nat := 0
  addrLo : Nat := 0
  addrHi : Nat := 0
  data : Word := 0
  /-- Messages due and not yet issued; a message has failed (R218, R219). -/
  due : Nat := 0
  stuck : Bool := false
  deriving DecidableEq, Repr

/-- The System Port (R214 to R221). -/
structure SysPort where
  latLevel : Nat := 0x400
  readErr : Nat := 0
  writeErr : Nat := 0
  timeout : Nat := 0
  late : Nat := 0
  wheel : Vector Nat 64 := Vector.replicate 64 0xF
  count : Nat := 0
  rdCredits : Nat := 0
  wrCredits : Nat := 0
  irqPend : Vector Bool 16 := Vector.replicate 16 false
  route : Vector Route 16 := Vector.replicate 16 {}
  audit : List Audit := []
  auditCount : Word := 0
  /-- Requests waiting for a slot, per service. -/
  requests : Vector (List SysReq) 9 := Vector.replicate 9 []
  txns : List SysTxn := []
  deriving DecidableEq, Repr

/-! ### Ephemeris -/

inductive SlotState where
  | invalid | valid | orphaned | expired | exhausted
  deriving DecidableEq, Repr

inductive Lifetime where
  | unlimited | counted | expire
  deriving DecidableEq, Repr

/-- An Ephemeris slot (R245, R261). `parent` none: no parent. -/
structure Slot where
  key : Bytes := []
  state : SlotState := .invalid
  klen : Nat := 0
  parent : Option SlotId := none
  depth : Nat := 0
  owner : Nat := 0xF
  engines : List Engine := []
  lifetime : Lifetime := .unlimited
  uses : Nat := 0
  deriving DecidableEq, Repr

/-- Ephemeris (R245 to R261). -/
structure Ephemeris where
  slots : Vector Slot 256 := Vector.replicate 256 {}
  busy : Bool := false
  /-- Status the running command ends with. -/
  outcome : Nat := 0
  target : Option SlotId := none
  status : Nat := 0
  engines : BitVec 7 := 0
  lifetime : BitVec 2 := 0
  klen : BitVec 2 := 0
  ctxLen : Nat := 0
  usesReg : Word := 0
  ctx : Bytes := List.replicate 128 0
  key : Bytes := List.replicate 64 0
  tamper : Bool := false
  drbgOk : Bool := false
  drbgRequests : Nat := 0
  deriving DecidableEq, Repr

/-! ### Astrolabe -/

inductive AstState where
  | idle | running | wiping | faulted
  deriving DecidableEq, Repr

/-- Classes of key entries in the key area (R268). -/
inductive KeyClass where
  | p384 | mlkem | mldsa
  deriving DecidableEq, Repr

structure KeyEntry where
  line : Nat
  lines : Nat
  cls : KeyClass
  deriving DecidableEq, Repr

/-- Operations of R265. -/
inductive AstOp where
  | p384Verify | p384Sign | p384Keygen | p384Ecdh | ed25519Verify | rsa4096Verify | rsa4096Crt
  | mlkemKeygen | mlkemEncaps | mlkemDecaps | mldsaKeygen | mldsaSign | mldsaVerify | selftest
  deriving DecidableEq, Repr

/-- The operation in progress. `keyStatus`: status of a refused key use (R269); `seed`: the evaluated or drawn seed. -/
structure AstJob where
  op : AstOp
  owner : Nat
  keyline : Nat
  keyStatus : Nat := 0
  seed : Bytes := []
  rnd : Bytes := []
  deriving DecidableEq, Repr

structure AstDma where
  out : Bool
  line : Nat
  count : Nat
  addr : Nat
  /-- Place in the Boot Store at which the stream begins (R273). -/
  storeAddr : Nat := 0
  bootStream : Bool := false
  deriving DecidableEq, Repr

/-- Astrolabe (R262 to R278). -/
structure Astrolabe where
  state : AstState := .idle
  owner : Nat := 0xF
  iter : Nat := 0
  invFails : Nat := 0
  job : Option AstJob := none
  dma : Option AstDma := none
  resStatus : Nat := 0
  resLength : Nat := 0
  resVerdict : Bool := false
  /-- AST_ARG: seed source, label and slot (R278). -/
  argSeed : Bool := false
  argLabel : Nat := 0
  argSlot : Nat := 0
  dmaAddr : Nat := 0
  dmaOut : Bool := false
  dmaBoot : Bool := false
  dmaLine : Nat := 0
  dmaCount : Nat := 0
  dmaOwner : Nat := 0
  dmaStatus : Nat := 0
  progVersion : Nat := 0
  progLoaded : Bool := false
  /-- The 32 KiB program store (R227, R262). -/
  prog : Mem := []
  mem : Mem := []
  entries : List KeyEntry := []
  /-- Security-island time of the last SELFTEST (R395). -/
  selftestAt : Nat := 0
  /-- Radiation has struck the datapath since the last operation ended; its checks fail (R272; assumption 95). -/
  upset : Bool := false
  deriving DecidableEq, Repr

/-! ### Almanac -/

inductive PartState where
  | unlocked | locked | lockedInvalid
  deriving DecidableEq, Repr

/-- Who asked for an Almanac job: the controller's own registers or a Management Port command, answered when it ends. -/
inductive AlmWho where
  | regs | mgmt | internal
  deriving DecidableEq, Repr

/-- Jobs of the Almanac controller (R327, R329, R319, R241, R317). -/
inductive AlmJob where
  | read (word : Nat)
  | program (word : Nat) (value : BitVec 64)
  | lock (part : Nat) (digest : BitVec 64)
  | repair
  | critical
  | genRoots
  | lcMark (lc : Lc)
  | counter (c value : Nat)
  | revoke (index : Nat)
  deriving DecidableEq, Repr

/-- The Almanac and its controller (R310 to R329). `words`, `spares`: the programmed words, an unlisted word reads 0. -/
structure Almanac where
  words : List (Nat × BitVec 64) := []
  spares : List (Nat × BitVec 64) := []
  sparesUsed : Nat := 0
  /-- SPARES_USED as last decoded (R328). -/
  sparesShown : Nat := 0
  marginal : List Nat := []
  spareMarginal : List Nat := []
  busy : Option (AlmWho × AlmJob) := none
  waiting : List (AlmWho × AlmJob) := []
  status : Nat := 0
  data : BitVec 64 := 0
  resMarginal : Bool := false
  lcGood : Nat := 0
  lockGood : Nat := 0
  revGood : Nat := 0
  parts : Vector PartState 5 := Vector.replicate 5 .unlocked
  model : Nat := 0
  barges : List BargeId := []
  links : List LinkId := []
  boost : Bool := false
  degraded : Bool := false
  counters : Vector Nat 8 := Vector.replicate 8 0
  revoked : BitVec 64 := 0
  everLcMarginal : Bool := false
  everRootsMarginal : Bool := false
  /-- Security-island time of the last full or critical read (R319). -/
  readAt : Nat := 0
  deriving DecidableEq, Repr

/-! ### Staircase, Drydock, Boot Store -/

inductive ImgState where
  | empty | writing | valid | pending | trial | active | failed
  deriving DecidableEq, Repr

/-- A slot of the Boot Store and its state in the control record (R330, R335). -/
structure ImgSlot where
  ctl : ImgState := .empty
  /-- Failed verification at the present start, so GLB_STC_STATUS reads FAILED (R345). -/
  failedNow : Bool := false
  manifest : Bytes := []
  set : Bytes := []
  deriving DecidableEq, Repr

/-- The route a stream arrives by (R338, R343). -/
inductive StreamRoute where
  | mgmt | towpath | link (l : LinkId)
  deriving DecidableEq, Repr

inductive StreamPhase where
  | manifest | receiving | applying
  deriving DecidableEq, Repr

/-- A stream in progress (R339, R343). -/
structure Stream where
  route : StreamRoute
  number : Nat
  drydock : Bool
  recvd : Bytes := []
  phase : StreamPhase := .manifest
  forwards : List LinkId := []
  /-- Local outcome decided at the manifest (BASE_MISMATCH, ROLLBACK_REFUSED): the stream is received to its end. -/
  outcome : Option Nat := none
  toA : Bool := true
  /-- Security-island time of the last piece (R338). -/
  lastAt : Nat := 0
  /-- Bytes of the stream forwarded so far (R339). -/
  sent : Nat := 0
  deriving DecidableEq, Repr

/-- Staircase and the Boot Store (R330 to R345). -/
structure Staircase where
  a : ImgSlot := {}
  b : ImgSlot := {}
  ctlSeq : Nat := 0
  forceDrydock : Bool := false
  lastStatus : Nat := 0
  cntPending : Bool := false
  bytesOut : Nat := 0
  running : Nat := 0
  job : Option Stream := none
  nextStream : Nat := 0
  routeMask : Nat := 0
  acks : List Bytes := []
  /-- Route by which ACKs travel back: that of the last stream forwarded (R340). -/
  backRoute : StreamRoute := .mgmt
  /-- Outcomes of Towpath streams still to be posted on channel 1: status and TARGET_DIGEST (R348). -/
  outcomes : List (Nat × Bytes) := []
  /-- A commit of R337 has been made in this start, and at which security-island time. -/
  committed : Option Nat := none
  /-- Security-island time at which an advance of counter 0 last ended (R337). -/
  triedAt : Nat := 0
  /-- The watch area by offset: a 4-byte length, then the package (R330). -/
  watch : Mem := []
  identity : Bytes := []
  /-- What has been programmed in each control sector since it was erased (R330, R335). -/
  sectors : Vector Bytes 2 := Vector.replicate 2 []
  /-- The last control record was written in the calibration window in progress: a loss of power may still cut it (R335). -/
  recordFresh : Bool := false
  /-- Accesses of the Boot Store that will fail, those next in turn (R331; assumption 104). -/
  storeFaults : Nat := 0
  deriving DecidableEq, Repr

/-! ### Towpath -/

inductive TwpState where
  | unbound | empty | full
  deriving DecidableEq, Repr

structure TwpChan where
  words : Vector Word 16 := Vector.replicate 16 0
  state : TwpState := .unbound
  sender : Nat := 0
  receiver : Nat := 0
  valid : Bool := false
  deriving DecidableEq, Repr

structure Endpoint where
  db : Vector Bool 32 := Vector.replicate 32 false
  dbMask : Word := 0
  empty : Vector Bool 32 := Vector.replicate 32 false
  emptyMask : Word := 0
  deriving DecidableEq, Repr

/-- Towpath (R346 to R354). -/
structure Towpath where
  chan : Vector TwpChan 32 := Vector.replicate 32 {}
  lock : Bool := false
  ep : Vector Endpoint 13 := Vector.replicate 13 {}
  deriving DecidableEq, Repr

/-! ### Sluice -/

inductive PState where
  | run | trim | doze | keep | off
  deriving DecidableEq, Repr

structure Rail where
  targetMv : Nat := 0
  on : Bool := false
  settled : Bool := false
  fault : Bool := false
  /-- The acknowledgement of the request in progress has not come within 10 ms (R356). -/
  late : Bool := false
  /-- The voltage the regulator last acknowledged, or holds by default (R414). -/
  heldMv : Nat := 0
  deriving DecidableEq, Repr

structure SluReach where
  budgetW8 : Nat := 0
  step : Nat := 1
  dozing : Bool := false
  boostEn : Bool := true
  dwellMs : Nat := 0
  estW8 : Nat := 0
  /-- Estimates of the last 100 windows, newest first (R361). -/
  history : List Nat := []
  deriving DecidableEq, Repr

structure Die where
  quarterC : Int := 0
  excluded : Bool := false
  deriving DecidableEq, Repr

/-- An input of the Sensor Port (R366). -/
structure Ext where
  value : BitVec 16 := 0
  valid : Bool := false
  /-- Not updated for 1 s (R366). -/
  stale : Bool := false
  deriving DecidableEq, Repr

/-- Causes of the platform throttle, in the bit order of SLU_STATE.CAUSES (R363, R376). -/
structure Causes where
  temp : Bool := false
  crit : Bool := false
  ramp : Bool := false
  inlet : Bool := false
  flow : Bool := false
  stack : Bool := false
  sensor : Bool := false
  envelope : Bool := false
  deriving DecidableEq, Repr

/-- Sluice (R355 to R376). -/
structure Sluice where
  state : PState := .run
  trimOn : Bool := false
  bootRom : Bool := true
  /-- The 32 KiB instruction store (R227). -/
  istore : Mem := []
  platform : Bool := false
  pstep : Nat := 0
  causes : Causes := {}
  envelope : Nat := 60
  estW8 : Nat := 0
  tempMax : Int := 0
  tempMean : Int := 0
  ext : Vector Ext 4 := Vector.replicate 4 {}
  rail : Vector Rail 6 := Vector.replicate 6 {}
  reach : Vector SluReach 8 := Vector.replicate 8 {}
  swings : Nat := 0
  throttleS : Nat := 0
  dirUp : Bool := true
  extreme : Option Int := none
  /-- Means recorded once per second, newest first, at most 60 (R363). -/
  means : List Int := []
  die : Vector Die 64 := Vector.replicate 64 {}
  /-- The 20 °C band last reported (R368). -/
  band : Int := 0
  /-- Decisions since INLET, FLOW, STACK, SENSOR, ENVELOPE last saw their clearing condition broken (R363). -/
  good : Vector Nat 5 := Vector.replicate 5 0
  replies : List (Vector Word 16) := []
  noticeState : Bool := false
  noticeRail : Option (Fin 6) := none
  /-- Sluice decisions with the platform throttle in force since the last whole second of it (R376). -/
  throttleMs : Nat := 0
  /-- PWR_KEEP is accepted and waits for the slice in progress to end (R401). -/
  keepPending : Bool := false
  deriving DecidableEq, Repr

/-! ### Aqueduct -/

inductive ChanState where
  | closed | handshake | opened
  deriving DecidableEq, Repr

/-- A frame waiting to be sent on a channel: type, SEQ, OFFSET and payload (R299, R300). -/
structure OutFrame where
  typ : Nat
  seq : Nat
  offset : Nat
  payload : Bytes
  deriving DecidableEq, Repr

/-- A channel of a link (R301 to R306, R309). -/
structure Chan where
  state : ChanState := .closed
  responder : Bool := false
  gen2 : Bool := false
  peer : Nat := 0xF
  share : Nat := 0
  rekeys : Nat := 0
  sendCtr : Nat := 0
  recvCtr : Nat := 0
  /-- Frame credits held towards the peer, and released frames whose credit is to be returned (R300). -/
  credits : Nat := 0
  owed : Nat := 0
  sendQ : List OutFrame := []
  msgInit : Bytes := []
  msgResp : Bytes := []
  ecdhKey : Bytes := []
  kemKey : Bytes := []
  commits : Nat := 0
  xackRecvd : Nat := 0
  session : Nat := 0
  /-- An exchange ordered and not yet allowed to be sent (R306). -/
  ordered : Option Nat := none
  /-- FIN, which the initiator is sending (R301). -/
  msgFin : Bytes := []
  /-- A REKEY has been sent or received, and not both sides have written the new key (R305). -/
  rekeyHold : Bool := false
  /-- CLOSE windows, sealed under the key that was then valid, that wait for a window slot of the channel (R297, R307). -/
  closing : List Bytes := []
  deriving DecidableEq, Repr

/-- AQD_XCHG registers of reach r on a link (R309). -/
structure Xchg where
  en : Bool := false
  len : Nat := 1
  tx : Nat := 0
  rx : Nat := 0
  sent : Nat := 0
  released : Nat := 0
  deriving DecidableEq, Repr

/-- An Aqueduct link (R297 to R309). -/
structure Link where
  ready : Bool := false
  chan : Vector Chan 9 := Vector.replicate 9 {}
  wheel : Vector Nat 16 := Vector.replicate 16 0xF
  count : Nat := 0
  /-- Window count of the receiving direction (R297). -/
  recvCount : Nat := 0
  auth : Nat := 0
  seqErr : Nat := 0
  timeout : Nat := 0
  lastChan : Nat := 0xF
  xchg : Vector Xchg 8 := Vector.replicate 8 {}
  /-- Highest generation 1 session number accepted since the start (R304). -/
  lastSession : Option Nat := none
  deriving DecidableEq, Repr

/-! ### SPDM -/

inductive SessPhase where
  | exchanged | established
  deriving DecidableEq, Repr

/-- An SPDM session (R292 to R294). -/
structure Session where
  target : Nat
  ep : Nat
  phase : SessPhase
  th2 : Bytes
  /-- The secret of the session's key exchange, from which its keys come. -/
  secret : Bytes := []
  chainDigest : Bytes := []
  /-- Security-island time of its last message (R292). -/
  lastAt : Nat := 0
  /-- Key-area line of the ML-KEM key of the session's offer (R294). -/
  offer : Option Nat := none
  /-- Astrolabe's owner has changed since the offer (R294). -/
  lapsed : Bool := false
  deriving DecidableEq, Repr

/-- A signed report kept for its later parts (R291). -/
structure Report where
  ep : Nat
  nonce : Bytes
  bytes : Bytes
  deriving DecidableEq, Repr

/-- SPDM and attestation on the Management Port (R288 to R296). -/
structure Spdm where
  sessions : Vector (Option Session) 8 := Vector.replicate 8 none
  reports : List Report := []
  /-- Requests answered ResponseNotReady: endpoint, token, the request (R293). -/
  deferred : List (Nat × Nat × Instr) := []
  nextToken : Nat := 1
  chunks : List (Nat × Nat × Bytes) := []
  large : List (Nat × Bytes) := []
  /-- Session whose offer holds Astrolabe, with its reach, and since which security-island time (R293). -/
  hold : Option (Fin 8 × Nat) := none
  holdAt : Nat := 0
  /-- SPDM version of each endpoint, as its GET_CAPABILITIES named it (R289). -/
  versions : List (Nat × Nat) := []
  /-- MCTP type of the message in service: 0x05, 0x06 for a secured one (R288), 0x7F for a Drydock stream (R343). -/
  msgType : Nat := 0x05
  /-- Sessions that ended with the drain of their LOADING reach, whose delivery is still answered (R296). -/
  drained : Vector Bool 8 := Vector.replicate 8 false
  deriving DecidableEq, Repr

/-! ### Eyepiece, Collimator, Chronograph -/

structure WinAccess where
  write : Bool
  offset : Nat
  data : Word
  deriving DecidableEq, Repr

/-- Eyepiece (R377 to R392). -/
structure Eye where
  tapUnlocked : Bool := false
  err : Bool := false
  reachEn : BitVec 8 := 0
  sluEn : Bool := false
  merEn : Bool := false
  freeze : Bool := false
  traceCount : Nat := 0
  traceIdx : Nat := 0
  /-- The entries of the trace buffer, newest first, at most 2,048. -/
  trace : List (BitVec 64) := []
  memTarget : Nat := 0
  memReach : Nat := 0
  memLogical : Nat := 0
  memAddr : Nat := 0
  coreTarget : Nat := 0
  haltBit : Bool := false
  win : Option WinAccess := none
  winDone : Bool := true
  winErr : Bool := false
  winData : Word := 0
  deriving DecidableEq, Repr

/-- COL_BARGE_b or COL_ISL_i (R402). `passAt`: test-island time of the last full pass; `passSec`: security-island time of it
(R284, R395). -/
structure ColInfo where
  passAt : Option Nat := none
  passSec : Nat := 0
  failSlice : Nat := 0
  failed : Bool := false
  deriving DecidableEq, Repr

/-- Collimator (R393 to R402). -/
structure Collimator where
  barge : Option BargeId := none
  slice : Nat := 0
  /-- The slice in progress has failed its comparison, or passed it (R393). -/
  verdict : Option Bool := none
  /-- Barge chosen by a pick, whose migration is to be made first (R397). -/
  asked : Option BargeId := none
  quickDone : Bool := false
  sliceFails : Nat := 0
  skipped : Nat := 0
  deferred : Bool := false
  first : Option BargeId := none
  bargeInfo : Vector ColInfo 34 := Vector.replicate 34 {}
  isl : Vector ColInfo 64 := Vector.replicate 64 {}
  /-- The island (34 and above) whose slice runs, its slice and whether it is the repeat of R400. -/
  island : Option (Fin 64) := none
  islSlice : Nat := 0
  islRepeat : Bool := false
  /-- The barge under test belonged to a reach when its slices began (R397, R401). -/
  inReach : Bool := false
  /-- The test waits for the block to enter KEEP and wake (R401). -/
  paused : Bool := false
  /-- Test-island time at which the quick pass ended, and the picks that have fallen since (R398). -/
  quickAt : Nat := 0
  picks : Nat := 0
  /-- The due instants of each island that are behind it, and the slices it has passed in its present full pass (R395, R399). -/
  islNext : Vector Nat 64 := Vector.replicate 64 0
  islPassed : Vector Nat 64 := Vector.replicate 64 0
  deriving DecidableEq, Repr

/-- A programmable counter and its CHR_CFG register (R403, R411). -/
structure ProgCtr where
  en : Bool := false
  level : Bool := false
  event : Nat := 0
  reach : Nat := 0xF
  user : Bool := false
  ovf : Bool := false
  value : Nat := 0
  deriving DecidableEq, Repr

structure ChrUnit where
  cycles : Nat := 0
  cyclesOvf : Bool := false
  /-- The cycle counter was cleared or replaced inside the window in progress. -/
  partialWin : Bool := false
  prog : Vector ProgCtr 8 := Vector.replicate 8 {}
  always : Vector Nat 6 := Vector.replicate 6 0
  deriving DecidableEq, Repr

/-- CHR_SNAP registers of a reader class (R409, R411). -/
structure Snap where
  reachView : Bool := false
  reach : Nat := 0
  unit : Nat := 0
  cls : Nat := 0
  ctr : Nat := 0
  busy : Bool := false
  ovf : Bool := false
  denied : Bool := false
  quant : Bool := false
  seq : Nat := 0
  value : Nat := 0
  deriving DecidableEq, Repr

structure Chrono where
  unit : Vector ChrUnit 71 := Vector.replicate 71 {}
  snap : Vector Snap 4 := Vector.replicate 4 {}
  deriving DecidableEq, Repr

/-- The isolation status and history registers (R48, R49). -/
structure Iso where
  spillReach : Vector Bool 8 := Vector.replicate 8 false
  thermal : Bool := false
  spillSince : Vector Bool 8 := Vector.replicate 8 false
  thermalSince : Vector Bool 8 := Vector.replicate 8 false
  deriving DecidableEq, Repr

/-! ### The block -/

structure State where
  params : Params := {}
  pins : Pins := {}
  alerts : AlertLog := {}
  /-- Completed calibration windows since the origin of R15. -/
  windows : Nat := 0
  isl : Vector Island 64 := Vector.replicate 64 {}
  iso : Iso := {}
  mer : Meridian := {}
  meas : Vector Meas 16 := Vector.replicate 16 {}
  epochCtr : Nat := 1
  reach : Vector Reach 8 := Vector.replicate 8 {}
  barge : Vector Barge 34 := Vector.replicate 34 {}
  /-- Order counter for entries to SPARE (R99). -/
  spareClock : Nat := 0
  basin : Basin := {}
  port : Vector Port 16 := Vector.replicate 16 {}
  /-- The twilight package while twilight runs a model (R232, R233). -/
  twPkg : Option Package := none
  loader : LoadEngine := {}
  keeper : Vector Keeper 9 := Vector.replicate 9 {}
  ring : Vector RingBlock 9 := Vector.replicate 9 {}
  sys : SysPort := {}
  eph : Ephemeris := {}
  ast : Astrolabe := {}
  alm : Almanac := {}
  stc : Staircase := {}
  twp : Towpath := {}
  slu : Sluice := {}
  link : Vector Link 4 := Vector.replicate 4 {}
  spdm : Spdm := {}
  eye : Eye := {}
  col : Collimator := {}
  chr : Chrono := {}
  /-- Entries travelling in crossings, oldest first. -/
  flight : List Msg := []
  /-- The model's own counter of free values: each CTR_DRBG draw and each value the spec leaves open takes the next. -/
  freeCtr : Nat := 0
  /-- What the block drove at its ports, newest first. -/
  out : List Emit := []
  /-- Refusals logged under R10, newest first. -/
  events : List Refused := []
  /-- Commands waiting, first in, first out. -/
  pending : List Instr := []
  deriving DecidableEq, Repr

/-- The block while por_n is low, before its first start (R418): every register at the reset value its table gives, every
store empty, every epoch 0. Pin levels that the integrator drives are the model's choice (assumption 4). -/
def State.reset : State := {}

end Sys2Proof.Machine
end

