-- ==== Sys2Proof/Machine/Ops.lean ====
section
/-! DEFINITION. Shared operations: vectors, byte strings, byte memories, codes, answers, refusals, alerts, audit records,
interrupts and time. Every meaning is written over these. -/

namespace Sys2Proof.Machine

/-- What a command answers. -/
abbrev Out := Host.Outcome State Fault Refusal

/-! ### Vectors -/

/-- Build a vector from a function of the index. -/
def tab {α : Type} (n : Nat) (f : Fin n → α) : Vector α n := ⟨⟨List.ofFn f⟩, by simp⟩

/-- Replace the element at an index. -/
def put {α : Type} {n : Nat} (v : Vector α n) (i : Fin n) (x : α) : Vector α n := v.set i.val x i.isLt

/-- Change the element at an index. -/
def upd {α : Type} {n : Nat} (v : Vector α n) (i : Fin n) (f : α → α) : Vector α n := put v i (f (v[i.val]'i.isLt))

/-- Change every element. -/
def vmap {α β : Type} {n : Nat} (f : α → β) (v : Vector α n) : Vector β n := tab n fun i => f (v[i.val]'i.isLt)

/-- Change every element by its index. -/
def vmapIdx {α β : Type} {n : Nat} (f : Fin n → α → β) (v : Vector α n) : Vector β n :=
  tab n fun i => f i (v[i.val]'i.isLt)

/-- Every index of a vector, rising. -/
def idxs (n : Nat) : List (Fin n) := List.ofFn fun i => i

/-- A number as an index below n. -/
def fin? (n k : Nat) : Option (Fin n) := if h : k < n then some ⟨k, h⟩ else none

/-- Sum of a list. -/
def total (l : List Nat) : Nat := l.foldl (· + ·) 0

/-- A saturating increment of a counter of `w` bits. -/
def satInc (w n : Nat) : Nat := if n + 1 < 2 ^ w then n + 1 else 2 ^ w - 1

/-- A saturating sum in a counter of `w` bits. -/
def satAdd (w n k : Nat) : Nat := min (n + k) (2 ^ w - 1)

/-- Bit `i` of a number. -/
def bit (n i : Nat) : Bool := n / 2 ^ i % 2 == 1

/-- Bits [lo + w - 1 : lo] of a number. -/
def bits (n lo w : Nat) : Nat := n / 2 ^ lo % 2 ^ w

/-- A bit as a number. -/
def b2n (b : Bool) : Nat := if b then 1 else 0

/-- The mask of a list of bits, bit 0 first. -/
def mask (l : List Bool) : Nat := l.foldr (fun b n => b2n b + 2 * n) 0

/-- The number rounded up to a multiple. -/
def ceilDiv (a b : Nat) : Nat := (a + b - 1) / b

/-- The first `n` elements of a list, one per position, padded with a default. -/
def padTo {α : Type} (d : α) (n : Nat) (l : List α) : List α := (l ++ List.replicate (n - l.length) d).take n

/-! ### Byte strings -/

/-- The low `n` bytes of a number, little-endian (R59). -/
def leBytes : (n v : Nat) → Bytes
  | 0, _ => []
  | n + 1, v => BitVec.ofNat 8 v :: leBytes n (v / 256)

/-- The number a little-endian byte string spells. -/
def leNat (b : Bytes) : Nat := b.foldr (fun x n => x.toNat + 256 * n) 0

/-- The low `n` bytes of a number, most significant first. -/
def beBytes (n v : Nat) : Bytes := (leBytes n v).reverse

/-- The number a big-endian byte string spells. -/
def beNat (b : Bytes) : Nat := b.foldl (fun n x => 256 * n + x.toNat) 0

/-- `n` bytes of a byte string from an offset; bytes past its end read zero. -/
def slice (b : Bytes) (off n : Nat) : Bytes := padTo 0 n ((b.drop off).take n)

/-- The little-endian number in `n` bytes from an offset. -/
def leAt (b : Bytes) (off n : Nat) : Nat := leNat (slice b off n)

/-- Zero bytes. -/
def zeros (n : Nat) : Bytes := List.replicate n 0

/-- ASCII text as bytes. -/
def ascii (t : String) : Bytes := t.toList.map fun c => BitVec.ofNat 8 c.toNat

/-- Exclusive or of two byte strings of one length. -/
def xorB (a b : Bytes) : Bytes := List.zipWith (· ^^^ ·) a b

/-! ### Byte memories -/

/-- Put an entry in its place, addresses rising; it replaces the entry of its address. -/
def memIns : Mem → Nat → Byte → Mem
  | [], a, v => [(a, v)]
  | (k, w) :: m, a, v => if a < k then (a, v) :: (k, w) :: m else if a = k then (a, v) :: m else (k, w) :: memIns m a v

/-- Write one byte, keeping the canonical form: addresses rising, no zero entry. -/
def memSet (m : Mem) (a : Nat) (v : Byte) : Mem := if v = 0 then m.filter fun c => c.1 != a else memIns m a v

/-- Read one byte; an unlisted address reads zero. -/
def memGet : Mem → Nat → Byte
  | [], _ => 0
  | (k, w) :: m, a => if a = k then w else memGet m a

/-- Write a byte string from an address. -/
def memPut : Mem → Nat → Bytes → Mem
  | m, _, [] => m
  | m, a, v :: vs => memPut (memSet m a v) (a + 1) vs

/-- Read `n` bytes from an address. -/
def memBytes (m : Mem) (a : Nat) : (n : Nat) → Bytes
  | 0 => []
  | n + 1 => memGet m a :: memBytes m (a + 1) n

/-- Every entry has an address above `lo` and no entry is zero, addresses rising. -/
def Mem.wfFrom : Nat → Mem → Bool
  | _, [] => true
  | lo, (k, w) :: m => decide (lo ≤ k) && decide (w ≠ 0) && Mem.wfFrom (k + 1) m

/-- The canonical form of a memory: addresses strictly rising, no entry equal to what an unlisted address reads as. -/
def Mem.wf (m : Mem) : Bool := Mem.wfFrom 0 m

/-- The bytes of a range set to zero (a Dredge of part of a store). -/
def memClear (m : Mem) (lo n : Nat) : Mem := m.filter fun c => decide (c.1 < lo) || decide (lo + n ≤ c.1)

/-! ### Status codes (R432) -/

namespace Code
def done := 0x00
def doneLate := 0x01
def cancelled := 0x02
def moored := 0x03
def tollExhausted := 0x04
def badDescriptor := 0x10
def badState := 0x11
def notFound := 0x12
def alreadyDone := 0x13
def clamped := 0x14
def resources := 0x15
def memUncorrectable := 0x20
def weightTagFail := 0x21
def bargeFault := 0x22
def linkAuthFail := 0x23
def packageAuthFail := 0x24
def hostDmaFail := 0x25
def selftestFail := 0x26
def imageAuthFail := 0x27
def baseMismatch := 0x28
def rollbackRefused := 0x29
def storeFail := 0x2A
def refClockLoss := 0x2B
def keyOrphaned := 0x30
def keyExhausted := 0x31
def keyExpired := 0x32
def bnInputReject := 0x40
def bnInvariantFail := 0x41
def bnRetryLimit := 0x42
def debugOpened := 0x50
def almMarginal := 0x60
def almLockedInvalid := 0x61
def otpWindow := 0x62
def almNoSpare := 0x63
def railFault := 0x70
def thermalTrip := 0x71
def sensorExcluded := 0x72
def securityRestart := 0x73
def watchEmpty := 0x74
def systemReset := 0x75
def tamper := 0x76
def chainMismatch := 0x77
def drbgFail := 0x78
end Code

/-! Unit codes of an alert record (R45). -/
namespace AlertUnit
def barge := 0x01
def basin := 0x02
def port := 0x03
def link := 0x04
def system := 0x05
def keeper := 0x06
def meridian := 0x07
def ephemeris := 0x08
def astrolabe := 0x09
def almanac := 0x0A
def towpath := 0x0B
def sluice := 0x0C
def management := 0x0D
def collimator := 0x0E
def loader := 0x0F
def staircase := 0x10
end AlertUnit

/-! ### Updates of one unit -/

def State.onIsl (s : State) (i : Fin 64) (f : Island → Island) : State := { s with isl := upd s.isl i f }
def State.onReach (s : State) (r : ReachId) (f : Reach → Reach) : State := { s with reach := upd s.reach r f }
def State.onBarge (s : State) (b : BargeId) (f : Barge → Barge) : State := { s with barge := upd s.barge b f }
def State.onPort (s : State) (p : PortId) (f : Port → Port) : State := { s with port := upd s.port p f }
def State.onKeeper (s : State) (r : SvcId) (f : Keeper → Keeper) : State := { s with keeper := upd s.keeper r f }
def State.onRing (s : State) (r : SvcId) (f : RingBlock → RingBlock) : State := { s with ring := upd s.ring r f }
def State.onLink (s : State) (l : LinkId) (f : Link → Link) : State := { s with link := upd s.link l f }
def State.onMer (s : State) (f : Meridian → Meridian) : State := { s with mer := f s.mer }
def State.onSys (s : State) (f : SysPort → SysPort) : State := { s with sys := f s.sys }
def State.onEph (s : State) (f : Ephemeris → Ephemeris) : State := { s with eph := f s.eph }
def State.onAst (s : State) (f : Astrolabe → Astrolabe) : State := { s with ast := f s.ast }
def State.onAlm (s : State) (f : Almanac → Almanac) : State := { s with alm := f s.alm }
def State.onStc (s : State) (f : Staircase → Staircase) : State := { s with stc := f s.stc }
def State.onTwp (s : State) (f : Towpath → Towpath) : State := { s with twp := f s.twp }
def State.onSlu (s : State) (f : Sluice → Sluice) : State := { s with slu := f s.slu }
def State.onEye (s : State) (f : Eye → Eye) : State := { s with eye := f s.eye }
def State.onCol (s : State) (f : Collimator → Collimator) : State := { s with col := f s.col }
def State.onSpdm (s : State) (f : Spdm → Spdm) : State := { s with spdm := f s.spdm }
def State.onBasin (s : State) (f : Basin → Basin) : State := { s with basin := f s.basin }

/-- A reach as a service (its ring block and keeper core). -/
def svcOf (r : ReachId) : SvcId := ⟨r.val, by omega⟩

/-- The twilight service. -/
def twilightSvc : SvcId := 8

/-- The reach of a service; none for twilight. -/
def reachOf? (r : SvcId) : Option ReachId := fin? 8 r.val

/-- Owner code of a service (R146, R245). -/
def ownerOf (r : SvcId) : Nat := r.val

/-- Fold a state change over a list. -/
def forAll {α : Type} (l : List α) (f : α → State → State) (s : State) : State := l.foldl (fun t x => f x t) s

/-! ### Answers, refusals, free values -/

/-- Drive an output. -/
def emit (e : Emit) (s : State) : State := { s with out := e :: s.out }

/-- Log an event refused under R10: no side effect but the log. -/
def refuse (what : String) (status : Nat) (s : State) : State := { s with events := ⟨what, status⟩ :: s.events }

/-- The binding that the integrator has selected, and the type of the message in service, which its answer has too (R288,
R343). -/
def mctp (s : State) : Mctp := { binding := s.params.mgmtBinding, type := s.spdm.msgType }

/-- The message now in service is of an MCTP type. -/
def asType (t : Nat) (s : State) : State := s.onSpdm fun x => { x with msgType := t }

/-- Answer a Management Port request (R291, R390). -/
def answer (status : Nat) (data : Bytes) (s : State) : State := emit (.mgmt (mctp s) status data) s

/-- Refuse a Management Port request: its answer and the event (R10). -/
def refuseMgmt (what : String) (status : Nat) (s : State) : State := answer status [] (refuse what status s)

/-- Answer an SPDM request (R289, R290). -/
def answerSpdm (code : SpdmCode) (data : Bytes) (s : State) : State := emit (.spdm (mctp s) code data) s

/-- Take the next number of the counter of free values. -/
def nextFree (s : State) : Nat × State := (s.freeCtr, { s with freeCtr := s.freeCtr + 1 })

/-! ### Interrupt sources (R219) -/

/-- Set a pending interrupt; with mode 0b10 one message becomes due on each 0 to 1 change. -/
def raiseIrq (src : Fin 16) (s : State) : State :=
  s.onSys fun y =>
    let was := y.irqPend[src]
    { y with
      irqPend := put y.irqPend src true
      route := upd y.route src fun r => if !was && r.mode == 2 then { r with due := r.due + 1 } else r }

/-! ### Alerts (R45, R421) -/

/-- alert_n is 0 while a record newer than the last one read is held (R421). -/
def alertUnread (s : State) : Bool := decide (s.alerts.readUpTo < s.alerts.nextSeq)

/-- An operator alert: one record, the log keeping the 256 most recent; source 12 when alert_n falls (R45, R219). -/
def alert (status unit island reach index cause : Nat) (s : State) : State :=
  let a : Alert := { seq := s.alerts.nextSeq, status, unit, island, reach, index, cause }
  let l := s.alerts.records ++ [a]
  let t := { s with alerts := { s.alerts with records := l.drop (l.length - 256), nextSeq := s.alerts.nextSeq + 1 } }
  if alertUnread s then t else raiseIrq 12 t

/-- The 16 bytes of a record (R45). -/
def Alert.bytes (a : Alert) : Bytes :=
  leBytes 4 a.seq ++ leBytes 1 a.status ++ leBytes 1 a.unit ++ leBytes 1 a.island ++ leBytes 1 a.reach
    ++ leBytes 2 a.index ++ leBytes 1 a.cause ++ zeros 5

/-- Reach field of a record for an owner code: none is 0xFF. -/
def alertReach (owner : Nat) : Nat := if owner < 8 then owner else 0xFF

/-! ### Audit records (R214, R215) -/

/-! Rule codes of an audit record (R215). -/
namespace AuditRule
def range := 0x01
def encoding := 0x02
def doorbell := 0x03
def state := 0x04
def access := 0x05
end AuditRule

/-- One audit record; the buffer holds the last 64; source 9 (R215, R219). -/
def audit (a : Audit) (s : State) : State :=
  let l := s.sys.audit ++ [a]
  raiseIrq 9 (s.onSys fun y => { y with audit := l.drop (l.length - 64), auditCount := y.auditCount + 1 })

/-- The record of a write refused as a whole under rule ACCESS (R9, R214, R215). -/
def auditAccess (offset written mid : Nat) (s : State) : State :=
  audit { offset, lsb := 0, written, applied := 0, rule := AuditRule.access, mid, width := 32 } s

/-! ### Time (R14 to R17) -/

/-- Picoseconds of a window of 4,096 ref_clk cycles (R15). -/
def windowPs : Nat := 40960000

/-- Time of the security island, and of the test island. -/
def secPs (s : State) : Nat := s.isl[60].timePs
def testPs (s : State) : Nat := s.isl[63].timePs

/-- Whole milliseconds and seconds of a time, rounded down (R17). -/
def psMs (t : Nat) : Nat := t / 1000000000
def psS (t : Nat) : Nat := t / 1000000000000

/-- A wait that began at island time `since` has ended at `now`. A command may come anywhere in its window, so one whole window
more must have passed: no wait ends before its stated time (R17; assumption 97). -/
def waited (now since ps : Nat) : Bool := decide (since + ps + windowPs ≤ now)

/-- Picoseconds in a second. -/
def secondPs : Nat := 1000000000000

end Sys2Proof.Machine
end

