-- ==== Sys2Proof/Machine/ChrOps.lean ====
section
/-! DEFINITION. Chronograph's counting (R403 to R406): the events that commands make count at once; cycles and the level of a
signal pass between commands and stand in Chronograph. -/

namespace Sys2Proof.Machine

/-- Island of a unit (R403). -/
def unitIsl (u : Fin 71) : Fin 64 :=
  if h : u.val < 59 then ⟨u.val, by omega⟩ else if u.val < 67 then 59 else ⟨u.val - 7, by omega⟩

/-- Kinds of units (R403). -/
inductive UnitKind where
  | barge | basin | port | link | system | keeper | meridian | sluice | management | test
  deriving DecidableEq, Repr

def unitKind (u : Nat) : UnitKind :=
  if u < 34 then .barge else if u < 38 then .basin else if u < 54 then .port else if u < 58 then .link
  else if u = 58 then .system else if u < 67 then .keeper else if u = 67 then .meridian else if u = 68 then .sluice
  else if u = 69 then .management else .test

/-- Events whose count the block's commands do not show: levels over cycles, bank waits, line accesses and retired
instructions. -/
def hiddenEvent (k : UnitKind) (e : Nat) : Bool :=
  match k with
  | .barge => e == 2 || e == 5 || e == 6
  | .basin => e == 1 || e == 2 || e == 3
  | .link => e == 4
  | .keeper => e == 5 || e == 6
  | .port => false
  | .system => false
  | _ => e == 1

/-- The counter counts a signal that the block's commands do not show: its value and OVF are open. -/
def ProgCtr.hidden (u : Nat) (c : ProgCtr) : Bool := c.en && hiddenEvent (unitKind u) c.event

/-- An open value of a 48-bit counter. -/
def openValue (k : Nat) : Nat := (Config.freeWord k).toNat + 2 ^ 32 * ((Config.freeWord (k + 1)).toNat % 2 ^ 16)

/-- An open OVF bit. -/
def openOvf (k : Nat) : Bool := (Config.freeWord (k + 1)).getLsbD 31

/-- OVF of a counter as read now (R404). -/
def ctrOvf (s : State) (u : Nat) (c : ProgCtr) : Bool := c.ovf || (c.hidden u && openOvf s.freeCtr)

/-- A unit whose programmable counters carry a REACH field (R411). -/
def hasReach (u : Nat) : Bool := decide (38 ≤ u) && decide (u ≤ 58)

/-- Add to a programmable counter; a wrap sets OVF (R404). -/
def ProgCtr.add (n : Nat) (c : ProgCtr) : ProgCtr :=
  { c with value := (c.value + n) % 2 ^ 48, ovf := c.ovf || decide (2 ^ 48 ≤ c.value + n) }

/-- The counter counts an event of a requester. -/
def ProgCtr.counts (u e reach : Nat) (c : ProgCtr) : Bool :=
  c.en && c.event == e && (!hasReach u || c.reach == 0xF || c.reach == reach)

/-- Change a unit's counters. -/
def onUnit (u : Nat) (f : ChrUnit → ChrUnit) (s : State) : State :=
  match fin? 71 u with
  | some u => { s with chr := { s.chr with unit := upd s.chr.unit u f } }
  | none => s

/-- Event `e` of unit `u`, `n` times, on behalf of an owner (R404, R406). -/
def chrEvent (u e reach n : Nat) (s : State) : State :=
  onUnit u (fun x => { x with prog := vmap (fun (c : ProgCtr) => if c.counts u e reach then c.add n else c) x.prog }) s

/-- Event `e` of Basin unit `v`: its four counters (R403). -/
def chrBasin (v e n : Nat) (s : State) : State :=
  onUnit (34 + v / 2) (fun x => { x with prog := vmapIdx (fun i (c : ProgCtr) =>
    if i.val / 4 = v % 2 ∧ c.counts (34 + v / 2) e 0xF then c.add n else c) x.prog }) s

/-- Always-running counter `e` of unit `u`, `n` times. -/
def chrAlways (u : Nat) (e : Fin 6) (n : Nat) (s : State) : State :=
  onUnit u (fun x => { x with always := upd x.always e fun v => (v + n) % 2 ^ 48 }) s

/-! Units of processors and their always-running counters (R403, R406). -/
namespace Chr
def system := 58
def meridian := 67
def sluice := 68
def management := 69
def test := 70
def keeper (r : Nat) : Nat := 59 + r % 8
def port (p : Nat) : Nat := 38 + p
def link (l : Nat) : Nat := 54 + l
end Chr

end Sys2Proof.Machine
end

