-- ==== Sys2Proof/Machine/Crypto.lean ====
section
/-! DEFINITION. The functions of the cipher, hash and public-key standards that R150, R152, R155, R252 and R265 name:
SHA-384, HMAC, the KDF, AES-256, GHASH, GCM, XTS, the weight tag, P-384, Ed25519 and RSA (PRESUMED: the standards' texts lie
outside the spec; log entry 7). ML-KEM and ML-DSA are uninterpreted functions of Config. -/

namespace Sys2Proof.Machine

/-! ### SHA-384 (FIPS 180-4) -/

/-- Round constants of SHA-512. -/
def shaK : List (BitVec 64) :=
  [0x428A2F98D728AE22, 0x7137449123EF65CD, 0xB5C0FBCFEC4D3B2F, 0xE9B5DBA58189DBBC, 0x3956C25BF348B538]
    ++ [0x59F111F1B605D019, 0x923F82A4AF194F9B, 0xAB1C5ED5DA6D8118, 0xD807AA98A3030242, 0x12835B0145706FBE]
    ++ [0x243185BE4EE4B28C, 0x550C7DC3D5FFB4E2, 0x72BE5D74F27B896F, 0x80DEB1FE3B1696B1, 0x9BDC06A725C71235]
    ++ [0xC19BF174CF692694, 0xE49B69C19EF14AD2, 0xEFBE4786384F25E3, 0x0FC19DC68B8CD5B5, 0x240CA1CC77AC9C65]
    ++ [0x2DE92C6F592B0275, 0x4A7484AA6EA6E483, 0x5CB0A9DCBD41FBD4, 0x76F988DA831153B5, 0x983E5152EE66DFAB]
    ++ [0xA831C66D2DB43210, 0xB00327C898FB213F, 0xBF597FC7BEEF0EE4, 0xC6E00BF33DA88FC2, 0xD5A79147930AA725]
    ++ [0x06CA6351E003826F, 0x142929670A0E6E70, 0x27B70A8546D22FFC, 0x2E1B21385C26C926, 0x4D2C6DFC5AC42AED]
    ++ [0x53380D139D95B3DF, 0x650A73548BAF63DE, 0x766A0ABB3C77B2A8, 0x81C2C92E47EDAEE6, 0x92722C851482353B]
    ++ [0xA2BFE8A14CF10364, 0xA81A664BBC423001, 0xC24B8B70D0F89791, 0xC76C51A30654BE30, 0xD192E819D6EF5218]
    ++ [0xD69906245565A910, 0xF40E35855771202A, 0x106AA07032BBD1B8, 0x19A4C116B8D2D0C8, 0x1E376C085141AB53]
    ++ [0x2748774CDF8EEB99, 0x34B0BCB5E19B48A8, 0x391C0CB3C5C95A63, 0x4ED8AA4AE3418ACB, 0x5B9CCA4F7763E373]
    ++ [0x682E6FF3D6B2B8A3, 0x748F82EE5DEFB2FC, 0x78A5636F43172F60, 0x84C87814A1F0AB72, 0x8CC702081A6439EC]
    ++ [0x90BEFFFA23631E28, 0xA4506CEBDE82BDE9, 0xBEF9A3F7B2C67915, 0xC67178F2E372532B, 0xCA273ECEEA26619C]
    ++ [0xD186B8C721C0C207, 0xEADA7DD6CDE0EB1E, 0xF57D4F7FEE6ED178, 0x06F067AA72176FBA, 0x0A637DC5A2C898A6]
    ++ [0x113F9804BEF90DAE, 0x1B710B35131C471B, 0x28DB77F523047D84, 0x32CAAB7B40C72493, 0x3C9EBE0A15C9BEBC]
    ++ [0x431D67C49C100D4C, 0x4CC5D4BECB3E42B6, 0x597F299CFC657E2A, 0x5FCB6FAB3AD6FAEC, 0x6C44198C4A475817]

/-- Initial hash value of SHA-384. -/
def shaH384 : List (BitVec 64) :=
  [0xCBBB9D5DC1059ED8, 0x629A292A367CD507, 0x9159015A3070DD17, 0x152FECD8F70E5939, 0x67332667FFC00B31]
    ++ [0x8EB44A8768581511, 0xDB0C2E0D64F98FA7, 0x47B5481DBEFA4FA4]

def sha64At (b : Bytes) (i : Nat) : BitVec 64 := BitVec.ofNat 64 (beNat (slice b (8 * i) 8))

/-- Message schedule, newest word first. -/
def shaSchedule : Nat → List (BitVec 64) → List (BitVec 64)
  | 0, w => w
  | n + 1, w =>
    let x := w.getD 14 0
    let y := w.getD 1 0
    let s0 := x.rotateRight 1 ^^^ x.rotateRight 8 ^^^ (x >>> 7)
    let s1 := y.rotateRight 19 ^^^ y.rotateRight 61 ^^^ (y >>> 6)
    shaSchedule n ((w.getD 15 0 + s0 + w.getD 6 0 + s1) :: w)

/-- One round on the working variables a to h. -/
def shaRound (v : List (BitVec 64)) (kw : BitVec 64) : List (BitVec 64) :=
  match v with
  | [a, b, c, d, e, f, g, h] =>
    let s1 := e.rotateRight 14 ^^^ e.rotateRight 18 ^^^ e.rotateRight 41
    let t1 := h + s1 + ((e &&& f) ^^^ (~~~e &&& g)) + kw
    let s0 := a.rotateRight 28 ^^^ a.rotateRight 34 ^^^ a.rotateRight 39
    let t2 := s0 + ((a &&& b) ^^^ (a &&& c) ^^^ (b &&& c))
    [t1 + t2, a, b, c, d + t1, e, f, g]
  | v => v

/-- One 128-byte block. -/
def shaBlock (h : List (BitVec 64)) (b : Bytes) : List (BitVec 64) :=
  let w0 := (List.range 16).map (sha64At b)
  let w := (shaSchedule 64 w0.reverse).reverse
  List.zipWith (· + ·) h ((List.zipWith (· + ·) shaK w).foldl shaRound h)

def shaBlocks : Nat → List (BitVec 64) → Bytes → List (BitVec 64)
  | 0, h, _ => h
  | n + 1, h, b => shaBlocks n (shaBlock h (b.take 128)) (b.drop 128)

/-- SHA-384. -/
def sha384 (m : Bytes) : Bytes :=
  let msg := m ++ [0x80] ++ zeros (if m.length % 128 < 112 then 111 - m.length % 128 else 239 - m.length % 128)
    ++ beBytes 16 (8 * m.length)
  ((shaBlocks (msg.length / 128) shaH384 msg).flatMap fun w => beBytes 8 w.toNat).take 48

/-- HMAC with SHA-384. -/
def hmac384 (k m : Bytes) : Bytes :=
  let k := padTo 0 128 (if k.length > 128 then sha384 k else k)
  sha384 (k.map (· ^^^ 0x5C) ++ sha384 (k.map (· ^^^ 0x36) ++ m))

/-- The KDF of R252: `bytes` output bytes. -/
def kdf (k : Bytes) (label : String) (ctx : Bytes) (bytes : Nat) : Bytes :=
  ((List.range ((bytes + 47) / 48)).flatMap fun i =>
    hmac384 k (beBytes 4 (i + 1) ++ ascii label ++ [0] ++ ctx ++ beBytes 4 (8 * bytes))).take bytes

/-! ### AES-256 (FIPS 197) -/

def xtime (a : Byte) : Byte := (a <<< 1) ^^^ (if a.msb then 0x1B else 0)

def gmulN : Nat → Byte → Byte → Byte
  | 0, _, _ => 0
  | n + 1, a, b => (if b.toNat % 2 = 1 then a else 0) ^^^ gmulN n (xtime a) (b >>> 1)

/-- Product in GF(2^8). -/
def gmul (a b : Byte) : Byte := gmulN 8 a b

def gpow : Nat → Byte → Byte
  | 0, _ => 1
  | n + 1, a => gmul a (gpow n a)

/-- The S-box: inverse, then the affine map. -/
def sbox (a : Byte) : Byte :=
  let i := gpow 254 a
  i ^^^ i.rotateLeft 1 ^^^ i.rotateLeft 2 ^^^ i.rotateLeft 3 ^^^ i.rotateLeft 4 ^^^ 0x63

def sboxTable : List Byte := (List.range 256).map fun i => sbox (BitVec.ofNat 8 i)

def sboxInvTable : List Byte := (List.range 256).map fun i => BitVec.ofNat 8 (sboxTable.idxOf (BitVec.ofNat 8 i))

def subB (a : Byte) : Byte := sboxTable.getD a.toNat 0

def subInvB (a : Byte) : Byte := sboxInvTable.getD a.toNat 0

def aesRcon : List Byte := [1, 2, 4, 8, 16, 32, 64]

/-- Key schedule, newest word first; `i` is the index of the word to add. -/
def aesExpand : Nat → Nat → List Bytes → List Bytes
  | 0, _, w => w
  | n + 1, i, w =>
    let t := w.headD []
    let t := if i % 8 = 0 then
        xorB ((t.drop 1 ++ t.take 1).map subB) [aesRcon.getD (i / 8 - 1) 0, 0, 0, 0]
      else if i % 8 = 4 then t.map subB else t
    aesExpand n (i + 1) (xorB (w.getD 7 []) t :: w)

/-- The fifteen round keys. -/
def aesKeys (k : Bytes) : List Bytes :=
  let w := (aesExpand 52 8 ((List.range 8).map fun i => slice k (4 * i) 4).reverse).reverse
  (List.range 15).map fun r => ((w.drop (4 * r)).take 4).flatten

def shiftRows (s : Bytes) : Bytes := (List.range 16).map fun i => s.getD ((i + 4 * (i % 4)) % 16) 0

def shiftRowsInv (s : Bytes) : Bytes := (List.range 16).map fun i => s.getD ((i + 12 * (i % 4)) % 16) 0

def mixCol (m : List Byte) (c : Bytes) : Bytes :=
  (List.range 4).map fun i =>
    ((List.range 4).map fun j => gmul (m.getD ((j + 4 - i) % 4) 0) (c.getD j 0)).foldl (· ^^^ ·) 0

def mixColumns (m : List Byte) (s : Bytes) : Bytes :=
  (List.range 4).flatMap fun c => mixCol m (slice s (4 * c) 4)

/-- AES-256 of one block. -/
def aes256 (k b : Bytes) : Bytes :=
  let ks := aesKeys k
  let mid := (List.range 13).foldl
    (fun s r => xorB (mixColumns [2, 3, 1, 1] (shiftRows (s.map subB))) (ks.getD (r + 1) [])) (xorB b (ks.getD 0 []))
  xorB (shiftRows (mid.map subB)) (ks.getD 14 [])

/-- The inverse of AES-256. -/
def aes256Inv (k b : Bytes) : Bytes :=
  let ks := aesKeys k
  let mid := (List.range 13).foldl
    (fun s r => mixColumns [14, 11, 13, 9] (xorB ((shiftRowsInv s).map subInvB) (ks.getD (13 - r) [])))
    (xorB b (ks.getD 14 []))
  xorB ((shiftRowsInv mid).map subInvB) (ks.getD 0 [])

/-! ### GHASH and GCM (SP 800-38D) -/

def ghMulN : Nat → Nat → BitVec 128 → BitVec 128 → BitVec 128
  | 0, _, _, z => z
  | n + 1, x, v, z =>
    ghMulN n (2 * x) (if v.toNat % 2 = 1 then (v >>> 1) ^^^ 0xE1000000000000000000000000000000 else v >>> 1)
      (if x / 2 ^ 127 % 2 = 1 then z ^^^ v else z)

/-- Product in the field of GHASH. -/
def ghMul (x y : BitVec 128) : BitVec 128 := ghMulN 128 x.toNat y 0

def block128 (b : Bytes) : BitVec 128 := BitVec.ofNat 128 (beNat (slice b 0 16))

def ghashFrom : Nat → BitVec 128 → BitVec 128 → Bytes → BitVec 128
  | 0, _, y, _ => y
  | n + 1, h, y, x => ghashFrom n h (ghMul (y ^^^ block128 x) h) (x.drop 16)

/-- GHASH of whole blocks. -/
def ghash (h x : Bytes) : Bytes := beBytes 16 (ghashFrom (x.length / 16) (block128 h) 0 x).toNat

def pad16 (b : Bytes) : Bytes := b ++ zeros ((16 - b.length % 16) % 16)

/-- GCM counter mode from counter 2, 12-byte IV. -/
def gcmCtr (k iv d : Bytes) : Bytes :=
  ((List.range ((d.length + 15) / 16)).flatMap fun i =>
    xorB ((d.drop (16 * i)).take 16) (aes256 k (iv ++ beBytes 4 (i + 2)))).take d.length

/-- GCM tag of ciphertext `c` with additional data `a`. -/
def gcmTag (k iv a c : Bytes) : Bytes :=
  xorB (ghash (aes256 k (zeros 16)) (pad16 a ++ pad16 c ++ beBytes 8 (8 * a.length) ++ beBytes 8 (8 * c.length)))
    (aes256 k (iv ++ beBytes 4 1))

/-- GCM decryption; none where the tag does not match. -/
def gcmOpen (k iv a c tag : Bytes) : Option Bytes := if gcmTag k iv a c = tag then some (gcmCtr k iv c) else none

/-! ### XTS (IEEE 1619) and the weight tag (R150, R152) -/

/-- Multiply a tweak by α: a little-endian 128-bit shift. -/
def xtsNext (t : Bytes) : Bytes :=
  let n := leNat t
  leBytes 16 ((2 * n) ^^^ (if n / 2 ^ 127 % 2 = 1 then 0x87 else 0))

def xtsBlocks (f : Bytes → Bytes) : Nat → Bytes → Bytes → Bytes
  | 0, _, _ => []
  | n + 1, t, d => xorB (f (xorB (d.take 16) t)) t ++ xtsBlocks f n (xtsNext t) (d.drop 16)

/-- The tweak of the 64-byte line at an address: data-unit number address bits [47:6]. -/
def xtsTweak (kt : Bytes) (addr : Nat) : Bytes := aes256 kt (leBytes 16 (addr / 64))

/-- Encrypt a 64-byte line. -/
def xtsEncrypt (kd kt : Bytes) (addr : Nat) (d : Bytes) : Bytes := xtsBlocks (aes256 kd) 4 (xtsTweak kt addr) d

/-- Decrypt a 64-byte line. -/
def xtsDecrypt (kd kt : Bytes) (addr : Nat) (d : Bytes) : Bytes := xtsBlocks (aes256Inv kd) 4 (xtsTweak kt addr) d

/-- Decrypt whole 64-byte lines from an address. -/
def xtsDecryptLines (kd kt : Bytes) : Nat → Nat → Bytes → Bytes
  | 0, _, _ => []
  | n + 1, addr, d => xtsDecrypt kd kt addr (d.take 64) ++ xtsDecryptLines kd kt n (addr + 64) (d.drop 64)

/-- The 8-byte tag of a 256-byte weight block over its ciphertext (R152). -/
def weightTag (kt : Bytes) (addr loadGen region : Nat) (c : Bytes) : Bytes :=
  let h := aes256 kt (zeros 16)
  let m := aes256 kt (leBytes 8 (addr / 256) ++ leBytes 4 loadGen ++ leBytes 4 region)
  (xorB (ghash h (c ++ beBytes 8 0 ++ beBytes 8 2048)) m).take 8

/-! ### Modular arithmetic -/

def powModN : Nat → Nat → Nat → Nat → Nat → Nat
  | 0, _, _, acc, _ => acc
  | n + 1, b, e, acc, m => powModN n (b * b % m) (e / 2) (if e % 2 = 1 then acc * b % m else acc) m

/-- b to the power e modulo m. -/
def powMod (b e m : Nat) : Nat := powModN (e.log2 + 1) (b % m) e (1 % m) m

/-- Inverse modulo a prime. -/
def invMod (a p : Nat) : Nat := powMod a (p - 2) p

def subMod (a b p : Nat) : Nat := (a + (p - b % p)) % p

/-! ### P-384 (FIPS 186-5, SP 800-186) -/

namespace P384
def p : Nat := 2 ^ 384 - 2 ^ 128 - 2 ^ 96 + 2 ^ 32 - 1
def n : Nat := 0xFFFFFFFFFFFFFFFFFFFFFFFFFFFFFFFFFFFFFFFFFFFFFFFFC7634D81F4372DDF581A0DB248B0A77AECEC196ACCC52973
def b : Nat := 0xB3312FA7E23EE7E4988E056BE3F82D19181D9C6EFE8141120314088F5013875AC656398D8A2ED19D2A85C8EDD3EC2AEF
def gx : Nat := 0xAA87CA22BE8B05378EB1C71EF320AD746E1D3B628BA79B9859F741E082542A385502F25DBF55296C3A545E3872760AB7
def gy : Nat := 0x3617DE4A96262C6F5D9E98BF9292DC29F8F41DBD289A147CE9DA3113B5F0B8C00A60B1CE1D7E819D7A431D7C90EA0E5F

/-- A point: none is the point at infinity. -/
abbrev Pt := Option (Nat × Nat)

def onCurve (x y : Nat) : Bool := y * y % p == (x * x * x + subMod 0 (3 * x) p + b) % p

def add (u v : Pt) : Pt :=
  match u, v with
  | none, v => v
  | u, none => u
  | some (x1, y1), some (x2, y2) =>
    if x1 = x2 ∧ (y1 + y2) % p = 0 then none
    else
      let l := if x1 = x2 then (3 * x1 * x1 + (p - 3)) * invMod (2 * y1) p % p
        else subMod y2 y1 p * invMod (subMod x2 x1 p) p % p
      let x3 := subMod (l * l) (x1 + x2) p
      some (x3, subMod (l * subMod x1 x3 p) y1 p)

def mulN : Nat → Nat → Pt → Pt → Pt
  | 0, _, _, acc => acc
  | f + 1, k, q, acc => mulN f (k / 2) (add q q) (if k % 2 = 1 then add acc q else acc)

/-- k times a point. -/
def mul (k : Nat) (q : Pt) : Pt := mulN 384 k q none

/-- The rejections of R270 for a point: a coordinate not below p, all zero, or off the curve. -/
def good (q : Bytes) : Bool :=
  let x := beNat (slice q 0 48)
  let y := beNat (slice q 48 48)
  decide (x < p) && decide (y < p) && !(x == 0 && y == 0) && onCurve x y

/-- A point of the curve other than the point at infinity (R272). -/
def isPoint : Pt → Bool
  | none => false
  | some (x, y) => decide (x < p) && decide (y < p) && onCurve x y

def ofBytes (q : Bytes) : Pt := some (beNat (slice q 0 48), beNat (slice q 48 48))

def toBytes : Pt → Bytes
  | none => zeros 96
  | some (x, y) => beBytes 48 x ++ beBytes 48 y

/-- A multiple of the base point. -/
def mulBase (k : Nat) : Pt := mul k (some (gx, gy))

/-- Public point of a private scalar. -/
def pub (d : Nat) : Bytes := toBytes (mulBase d)

/-- Private scalar of R254 from 64 bytes. -/
def scalar (x : Bytes) : Nat := beNat x % (n - 1) + 1

/-- ECDSA verification of a digest. -/
def verify (q e : Bytes) (r s : Nat) : Bool :=
  let w := invMod s n
  match add (mulBase (beNat e * w % n)) (mul (r * w % n) (ofBytes q)) with
  | none => false
  | some (x, _) => x % n == r

/-- ECDSA signature r, s of a digest with nonce k. -/
def sign (d : Nat) (e : Bytes) (k : Nat) : Nat × Nat :=
  let r := match mulBase k with
    | none => 0
    | some (x, _) => x % n
  (r, invMod k n * ((beNat e + d * r) % n) % n)
end P384

/-! ### Ed25519 (RFC 8032) -/

namespace Ed
def p : Nat := 2 ^ 255 - 19
def l : Nat := 2 ^ 252 + 27742317777372353535851937790883648493
def d : Nat := (p - 121665) * invMod 121666 p % p

/-- Affine addition on the twisted Edwards curve. -/
def add (u v : Nat × Nat) : Nat × Nat :=
  let t := d * (u.1 * v.1 % p) % p * (u.2 * v.2 % p) % p
  ((u.1 * v.2 + v.1 * u.2) % p * invMod (1 + t) p % p,
    (u.2 * v.2 + u.1 * v.1) % p * invMod (subMod 1 t p) p % p)

def mulN : Nat → Nat → Nat × Nat → Nat × Nat → Nat × Nat
  | 0, _, _, acc => acc
  | f + 1, k, q, acc => mulN f (k / 2) (add q q) (if k % 2 = 1 then add acc q else acc)

def mul (k : Nat) (q : Nat × Nat) : Nat × Nat := mulN 256 k q (0, 1)

/-- Decode a point of 32 bytes. -/
def decode (e : Bytes) : Option (Nat × Nat) :=
  let v := leNat (slice e 0 32)
  let y := v % 2 ^ 255
  let sign := v / 2 ^ 255 % 2
  if p ≤ y then none
  else
    let u := subMod (y * y) 1 p
    let w := (d * (y * y % p) + 1) % p
    let x2 := u * invMod w p % p
    let x := powMod x2 ((p + 3) / 8) p
    let x := if x * x % p = x2 then x else x * powMod 2 ((p - 1) / 4) p % p
    if x * x % p ≠ x2 then none
    else if x = 0 ∧ sign = 1 then none
    else some (if x % 2 = sign then x else p - x, y)

def base : Nat × Nat := (decode (leBytes 32 (4 * invMod 5 p % p))).getD (0, 1)

/-- One of the eight points of small order. -/
def smallOrder (q : Nat × Nat) : Bool := mul 8 q == (0, 1)

/-- The equation [S]B = R + [k]A of R270. -/
def verify (a r : Nat × Nat) (s k : Nat) : Bool := mul s base == add r (mul (k % l) a)
end Ed

end Sys2Proof.Machine
end

