-- ==== Sys2Proof/Machine/KeyOps.lean ====
section
/-! DEFINITION. Shared operations of Ephemeris: leaving VALID with the orphans below (R245), key uses (R256, R257), reach
ranges (R248), and draws of CTR_DRBG (R255). -/

namespace Sys2Proof.Machine

/-- Some slot above `j` in the parent chain satisfies `p`; DEPTH is at most 7. -/
def hasAbove (slots : Vector Slot 256) (p : SlotId → Bool) : Nat → SlotId → Bool
  | 0, _ => false
  | f + 1, j =>
    match slots[j].parent with
    | none => false
    | some q => p q || hasAbove slots p f q

/-- Slots that `p` names leave VALID for state `to`; a slot already out of VALID changes only to INVALID; every VALID slot
below a slot that leaves VALID becomes ORPHANED; every key that leaves VALID is zeroed (R245). -/
def leaveValid (p : SlotId → Slot → Bool) (next : SlotState) (slots : Vector Slot 256) : Vector Slot 256 :=
  vmapIdx (fun j x =>
    if p j x then
      if x.state = .valid then { x with state := next, key := [] }
      else if next = .invalid then { x with state := .invalid, key := [] } else x
    else if x.state = .valid && hasAbove slots (fun q => p q slots[q] && slots[q].state == .valid) 8 j then
      { x with state := .orphaned, key := [] }
    else x) slots

/-- Meridian has given Ephemeris one command (R406). -/
def ephCommand (s : State) : State := chrAlways Chr.meridian 1 1 s

/-- Slot `F + k` of a reach's key range (R248). -/
def keySlot (s : State) (r : ReachId) (k : Nat) : SlotId := Fin.ofNat 256 (s.reach[r].keyFirst + k)

/-- Slots of a service's XTS data key, XTS tweak key and weight-tag key. -/
def memSlots (s : State) (r : SvcId) : SlotId × SlotId × SlotId :=
  match reachOf? r with
  | some n => (keySlot s n 0, keySlot s n 1, keySlot s n 2)
  | none => (30, 31, 29)

/-- Discard the transactions that `p` names: one that is answered is gone and its tag free, another is discarded without
decryption when its response arrives (R151, R160). -/
def discardTxns (p : MemTxn → Bool) (l : List MemTxn) : List MemTxn :=
  l.filterMap fun t => if p t then (if t.answered then none else some { t with discard := true }) else some t

/-- An invalidation reaches Culvert: reads of a service whose memory key it takes are discarded, but those already decrypted
(R151). -/
def cutReads (p : SlotId → Slot → Bool) (s : State) : State :=
  let hit : SvcId → Bool := fun r =>
    let (a, b, c) := memSlots s r
    [a, b, c].any fun j => p j s.eph.slots[j]
  { s with port := vmap (fun (x : Port) =>
      { x with txns := discardTxns (fun t => t.req.kind == .rd && !t.plain && hit t.svc) x.txns }) s.port }

/-- INVALIDATE of the slots that `p` names (R245, R151). -/
def invalidateSlots (p : SlotId → Slot → Bool) (s : State) : State :=
  ephCommand ((cutReads p s).onEph fun e => { e with slots := leaveValid p .invalid e.slots })

/-- INVALIDATE of one slot. -/
def invalidateSlot (i : SlotId) (s : State) : State := invalidateSlots (fun j _ => j == i) s

/-- INVALIDATE_OWNER. -/
def invalidateOwnerSlots (owner : Nat) (s : State) : State := invalidateSlots (fun _ x => x.owner == owner) s

/-- EXPIRE_OWNER: VALID slots of LIFETIME EXPIRE (R246, R249). -/
def expireOwnerSlots (owner : Nat) (s : State) : State :=
  ephCommand (s.onEph fun e =>
    { e with slots := leaveValid (fun _ x => x.owner == owner && x.lifetime == .expire && x.state == .valid) .expired e.slots })

/-- Write a slot: VALID with a key and its attributes; the parent gives the depth (R245, R249). -/
def writeSlot (i : SlotId) (key : Bytes) (klen : Nat) (parent : Option SlotId) (owner : Nat) (engines : List Engine)
    (lifetime : Lifetime) (uses : Nat) (s : State) : State :=
  ephCommand (s.onEph fun e =>
    let depth := match parent with
      | none => 0
      | some q => e.slots[q].depth + 1
    { e with slots := put e.slots i { key, state := .valid, klen, parent, depth, owner, engines, lifetime, uses } })

def slotValid (s : State) (i : SlotId) : Bool := s.eph.slots[i].state == .valid

/-- Key of a slot, empty when it is not VALID. -/
def slotKey (s : State) (i : SlotId) : Bytes := if slotValid s i then s.eph.slots[i].key else []

/-- Judge a use of a key (R256): DONE, or the KEY_ status. -/
def judgeUse (x : Slot) (engine : Engine) (owner : Nat) : Nat :=
  match x.state with
  | .invalid => Code.keyOrphaned
  | .orphaned => Code.keyOrphaned
  | .expired => Code.keyExpired
  | .exhausted => Code.keyExhausted
  | .valid => if engine ∈ x.engines ∧ x.owner = owner then Code.done else Code.keyOrphaned

/-- A use: judged, counted when COUNTED, exhausted by its last use; a refusal is an operator alert, with cause MISUSE where
the engine or the owner is wrong (R42, R45, R256, R257). The status and key are those at the use. -/
def useKey (i : SlotId) (engine : Engine) (owner : Nat) (s : State) : Nat × Bytes × State :=
  let x := s.eph.slots[i]
  let st := judgeUse x engine owner
  if st = Code.done then
    if x.lifetime = .counted then
      let s' := s.onEph fun e => { e with slots := put e.slots i { x with uses := x.uses - 1 } }
      let s' := if x.uses ≤ 1 then
          s'.onEph fun e => { e with slots := leaveValid (fun j _ => j == i) .exhausted e.slots } else s'
      (st, x.key, s')
    else (st, x.key, s)
  else (st, [], alert st AlertUnit.ephemeris 60 (alertReach owner) i.val (b2n (x.state == .valid)) s)

/-- `n` requests to CTR_DRBG; after every 2^16 it is reseeded, and a reseed whose health test fails is a command of its own
(R255; DESIGN CHOICE, assumption 101). -/
def countDraws (n : Nat) (s : State) : State := s.onEph fun e => { e with drbgRequests := (e.drbgRequests + n) % 2 ^ 16 }

/-- `n` bytes drawn from CTR_DRBG (R255). -/
def draw (n : Nat) (s : State) : Bytes × State :=
  (padTo 0 n (Config.drbg s.freeCtr n), { countDraws 1 s with freeCtr := s.freeCtr + 1 })

/-- LC byte of a derivation context (R252). -/
def lcByte : Lc → Byte
  | .test => 0x01
  | .dev => 0x02
  | .prod => 0x03
  | .rma => 0x04
  | _ => 0x00

/-- The boot measurement at this moment (R230). -/
def bootMeasurement (s : State) : Bytes := sha384 ((s.meas.toList.take 10).flatMap fun m => m.value)

/-- Extend measurement register `i` by a digest (R229). -/
def extend (i : Fin 16) (d : Bytes) (s : State) : State :=
  { s with meas := upd s.meas i fun m => { value := sha384 (m.value ++ d), count := satInc 16 m.count } }

/-- Context of labels 0x3 to 0x5 (R253). -/
def memContext (s : State) (binding : Bytes) : Bytes :=
  [lcByte s.mer.lc] ++ binding
    ++ (if s.mer.lc = .test ∨ s.mer.lc = .dev then bootMeasurement s else [])

end Sys2Proof.Machine
end

