-- ==== Sys2Proof/Machine/AstOps.lean ====
section
/-! DEFINITION. Astrolabe (R262 to R277): operand memory and its owner, key entries, what each operation computes from its
inputs, and its start, its end and an abort. -/

namespace Sys2Proof.Machine

/-! ### Operand memory (R267, R268, R274) -/

def astInput : Nat := 0x0000
def astResult : Nat := 0x6000
def astKeyArea : Nat := 0x8000

def KeyClass.lines : KeyClass → Nat
  | .p384 => 3
  | .mlkem => 50
  | .mldsa => 117

/-- Class of the key entry an operation uses. -/
def AstOp.uses : AstOp → Option KeyClass
  | .p384Sign => some .p384
  | .p384Ecdh => some .p384
  | .mlkemDecaps => some .mlkem
  | .mldsaSign => some .mldsa
  | _ => none

/-- Class of the key entry an operation writes. -/
def AstOp.makes : AstOp → Option KeyClass
  | .p384Keygen => some .p384
  | .mlkemKeygen => some .mlkem
  | .mldsaKeygen => some .mldsa
  | _ => none

/-- Run from the program ROM while the store is not loaded (R263). -/
def AstOp.inRom : AstOp → Bool
  | .p384Verify => true
  | .mldsaVerify => true
  | .selftest => true
  | _ => false

/-- Bytes of CTR_DRBG that the operation's outcome depends on: seed, nonce, rnd or message (R266, R269). -/
def AstOp.draws (evaluates : Bool) : AstOp → Nat
  | .p384Keygen => if evaluates then 0 else 64
  | .p384Sign => 64
  | .mlkemKeygen => 64
  | .mlkemEncaps => 32
  | .mldsaKeygen => if evaluates then 0 else 32
  | .mldsaSign => 32
  | _ => 0

/-- Blinding values an operation draws from CTR_DRBG, each by a request: r and seven λ for a scalar multiplication, the first at
the start and one after each of the first six runs of 64 ladder steps; b and r' of a signature; ρ, r1 and r2. No outcome
depends on them (R271). -/
def AstOp.blinds : AstOp → Nat
  | .p384Keygen => 8
  | .p384Ecdh => 8
  | .p384Sign => 10
  | .rsa4096Crt => 3
  | _ => 0

/-- Labels evaluated into Astrolabe: name, output bytes and the operation that takes it (R253, R254). -/
def astLabel : Nat → Option (String × Nat × AstOp)
  | 6 => some ("GX24 ID-P384", 64, .p384Keygen)
  | 7 => some ("GX24 ID-MLDSA87", 32, .mldsaKeygen)
  | 8 => some ("GX24 AK-P384", 64, .p384Keygen)
  | 9 => some ("GX24 AK-MLDSA87", 32, .mldsaKeygen)
  | _ => none

/-- Owner codes that may own operand memory (R274). -/
def astOwnerOk (o : Nat) : Bool := decide (o ≤ 8) || o == 0xE

/-- Operand memory is zero and the offers whose keys stood in it have lapsed (R274, R276, R294). -/
def astWipe (owner : Nat) (s : State) : State :=
  (s.onAst fun a =>
    { a with mem := [], entries := [], owner, resStatus := 0, resLength := 0, resVerdict := false }).onSpdm fun x =>
      { x with sessions := vmap (fun (c : Option Session) =>
          c.map fun y => { y with lapsed := y.lapsed || y.offer.isSome }) x.sessions }

/-- A command or transfer of an owner: the wipe comes first when it is not the present one (R274). -/
def astTake (owner : Nat) (s : State) : State := if s.ast.owner = owner then s else astWipe owner s

/-- An operation, transfer or SELFTEST runs (AST_STATUS.BUSY). -/
def astBusy (a : Astrolabe) : Bool := a.job.isSome || a.dma.isSome

/-- Security island running, out of reset. -/
def securityUp (s : State) : Bool := s.isl[60].powered && !s.isl[60].inReset

def hasEntry (a : Astrolabe) (line : Nat) (c : KeyClass) : Bool := a.entries.any fun e => e.line == line && e.cls == c

/-! ### What an operation computes (R265 to R272) -/

/-- An operation's outcome: status, result, verdict, key entry written, attempts of MLDSA_SIGN, invariants computed. -/
structure AstOut where
  status : Nat := Code.done
  result : Bytes := []
  verdict : Bool := false
  entry : Bytes := []
  iter : Option Nat := none
  holds : Bool := true
  deriving DecidableEq, Repr

/-- BN_INPUT_REJECT (R270). -/
def astReject : AstOut := { status := Code.bnInputReject }

/-- Ed25519 inputs A, R, S and h (R268, R270). -/
def edOut (inp : Nat → Nat → Bytes) : AstOut :=
  let s := leNat (inp 64 32)
  match Ed.decode (inp 0 32), Ed.decode (inp 32 32) with
  | some a, some r =>
    if Ed.smallOrder a || Ed.smallOrder r || decide (Ed.l ≤ s) then astReject
    else { verdict := Ed.verify a r s (leNat (inp 96 64)) }
  | _, _ => astReject

/-- A modulus and public exponent that are not rejected (R270). -/
def rsaKeyOk (n e : Nat) : Bool := n % 2 == 1 && decide (2 ^ 4095 ≤ n) && e % 2 == 1 && decide (3 ≤ e)

def rsaVerifyOut (inp : Nat → Nat → Bytes) : AstOut :=
  let n := beNat (inp 0 512)
  let e := beNat (inp 512 4)
  let s := beNat (inp 516 512)
  if rsaKeyOk n e && decide (0 < s) && decide (s < n) then { result := beBytes 512 (powMod s e n) } else astReject

def rsaCrtOut (inp : Nat → Nat → Bytes) : AstOut :=
  let m := beNat (inp 0 512)
  let n := beNat (inp 512 512)
  let e := beNat (inp 1024 4)
  let p := beNat (inp 1028 256)
  let q := beNat (inp 1284 256)
  let dp := beNat (inp 1540 256)
  let dq := beNat (inp 1796 256)
  let qinv := beNat (inp 2052 256)
  if rsaKeyOk n e && decide (0 < m) && decide (m < n) && p * q == n && decide (dp < p - 1) && decide (dq < q - 1)
      && decide (qinv < p) then
    let a := powMod m dp p
    let b := powMod m dq q
    let s := b + q * (qinv * subMod a b p % p)
    { result := beBytes 512 s, holds := powMod s e n == m }
  else astReject

/-! The parts of a stored key that R272 checks stand where FIPS 203 and FIPS 204 put them: ek and H(ek) in dk after 1,536
bytes, tr in sk after 64 (PRESUMED: the standards' layouts; assumption 7). Every residue written is reduced by the operations
that make it. -/

/-- A coefficient of the ML-KEM encapsulation key: 12 bits (FIPS 203). -/
def kemCoefficient (ek : Bytes) (i : Nat) : Nat :=
  if i % 2 = 0 then bits (leAt ek (i / 2 * 3) 2) 0 12 else bits (leAt ek (i / 2 * 3 + 1) 2) 4 12

def astCompute (j : AstJob) (mem : Mem) : AstOut :=
  let inp := fun off n => memBytes mem (astInput + off) n
  let key := fun off n => memBytes mem (astKeyArea + 64 * j.keyline + off) n
  match j.op with
  | .p384Verify =>
    let q := inp 0 96
    let r := beNat (inp 144 48)
    let v := beNat (inp 192 48)
    if P384.good q && decide (0 < r) && decide (r < P384.n) && decide (0 < v) && decide (v < P384.n) then
      { verdict := P384.verify q (inp 96 48) r v }
    else astReject
  | .p384Sign =>
    let k := P384.scalar j.rnd
    let (r, v) := P384.sign (beNat (key 0 48)) (inp 0 48) k
    { result := beBytes 48 r ++ beBytes 48 v
      holds := P384.isPoint (P384.mulBase k) && P384.verify (key 48 96) (inp 0 48) r v }
  | .p384Keygen =>
    let d := P384.scalar j.seed
    let q := P384.pub d
    { result := q, entry := beBytes 48 d ++ q
      holds := P384.isPoint (P384.mulBase d) && decide (1 ≤ d) && decide (d < P384.n) }
  | .p384Ecdh =>
    let q := inp 0 96
    let z := P384.mul (beNat (key 0 48)) (P384.ofBytes q)
    if P384.good q then { result := (P384.toBytes z).take 48, holds := P384.isPoint z } else astReject
  | .ed25519Verify => edOut inp
  | .rsa4096Verify => rsaVerifyOut inp
  | .rsa4096Crt => rsaCrtOut inp
  | .mlkemKeygen =>
    let dk := (Config.mlkemDk j.seed).toList
    let ek := (Config.mlkemEk dk).toList
    let (c, k) := Config.mlkemEncaps ek j.rnd
    { result := ek, entry := dk, holds := Config.mlkemDecaps dk c.toList == k }
  | .mlkemEncaps =>
    let ek := inp 0 1568
    if (List.range 1024).all fun i => decide (kemCoefficient ek i < 3329) then
      let (c, k) := Config.mlkemEncaps ek j.rnd
      { result := c.toList ++ k.toList }
    else astReject
  | .mlkemDecaps =>
    { result := (Config.mlkemDecaps (key 0 3168) (inp 0 1568)).toList
      holds := key 3104 32 == (Config.sha3 (key 1536 1568)).toList }
  | .mldsaKeygen =>
    let (sk, pk) := Config.mldsaKeys j.seed
    { result := pk.toList, entry := sk.toList ++ pk.toList, holds := slice sk.toList 64 64 == Config.shake256 pk.toList 64 }
  | .mldsaSign =>
    match Config.mldsaSign (key 0 4896) (inp 0 64) j.rnd with
    | some x =>
      { result := x.1.toList, iter := some (x.2.val + 1)
        holds := Config.mldsaVerify (key 4896 2592) (inp 0 64) x.1.toList }
    | none => { status := Code.bnRetryLimit, iter := some 64 }
  | .mldsaVerify => { verdict := Config.mldsaVerify (inp 0 2592) (inp 2592 64) (inp 2656 4627) }
  | .selftest => {}

/-! ### Start, end and abort -/

/-- Why a command is refused at the write of AST_CMD (R263, R264, R268, R269, R272, R274). -/
def astRefusal (op : AstOp) (owner keyline : Nat) (label : Option Nat) (s : State) : Option Nat :=
  let a := s.ast
  if a.state = .faulted ∨ astBusy a ∨ (!a.progLoaded ∧ !op.inRom) then some Code.badState
  else if !astOwnerOk owner then some Code.badDescriptor
  else if !(match op.uses with
      | some c => owner == a.owner && hasEntry a keyline c
      | none => true) then some Code.badDescriptor
  else if !(match op.makes with
      | some c => decide (keyline + c.lines ≤ 256)
      | none => true) then some Code.badDescriptor
  else if !(match label with
      | some l => (astLabel l).any fun x => x.2.2 == op
      | none => true) then some Code.badDescriptor
  else if op.draws label.isSome ≠ 0 ∧ op ≠ .mlkemEncaps ∧ !s.eph.drbgOk then some Code.badState
  else none

/-- An operation begins: owner and wipe, result area zeroed, seed evaluated or drawn (R267, R269, R274). `label` names the
Ephemeris evaluation with its slot. -/
def astBegin (op : AstOp) (owner keyline : Nat) (label : Option Nat) (slot : SlotId) (s : State) : State :=
  let s := countDraws op.blinds (chrAlways Chr.meridian 2 1 (astTake owner s))
  let s := s.onAst fun a =>
    { a with mem := memClear a.mem astResult 0x2000, resStatus := 0, resLength := 0, resVerdict := false, state := .running }
  match label.bind astLabel with
  | some (name, n, _) =>
    let (st, k, s) := useKey slot .astrolabe owner s
    let seed := if st = Code.done then kdf k name [] n else []
    s.onAst fun a =>
      { a with job := some { op, owner, keyline, keyStatus := st, seed } }
  | none =>
    let n := op.draws false
    let (d, s) := if n = 0 then ([], s) else draw n s
    let (e, s) := if op = .mlkemKeygen then draw 32 s else (d, s)
    s.onAst fun a => { a with job := some { op, owner, keyline, keyStatus := Code.done, seed := d, rnd := e } }

/-- Write a key entry; entries it covers are gone. -/
def addEntry (line : Nat) (c : KeyClass) (d : Bytes) (a : Astrolabe) : Astrolabe :=
  let clear := a.entries.filter fun e => decide (e.line + e.lines ≤ line) || decide (line + c.lines ≤ e.line)
  { a with mem := memPut a.mem (astKeyArea + 64 * line) (padTo 0 (64 * c.lines) d)
           entries := { line, lines := c.lines, cls := c } :: clear }

/-- Store an outcome (R268, R270, R276). -/
def astStore (j : AstJob) (o : AstOut) (a : Astrolabe) : Astrolabe :=
  let a := if o.status = Code.done then
      let a := match j.op.makes with
        | some c => addEntry j.keyline c o.entry a
        | none => a
      { a with mem := memPut a.mem astResult o.result }
    else a
  { a with job := none, state := .idle, resStatus := o.status, resLength := o.result.length, resVerdict := o.verdict
           iter := o.iter.getD a.iter }

/-- Everything stops and is wiped, owner 0xF; an operation or transfer that was stopped has status BAD_STATE (R275). -/
def astAbort (s : State) : State :=
  let stopped := s.ast.job.isSome
  let moved := s.ast.dma.isSome
  (astWipe 0xF s).onAst fun a =>
    { a with
      job := none, dma := none, upset := false, state := if a.state = .faulted then .faulted else .idle
      resStatus := if stopped then Code.badState else 0, dmaStatus := if moved then Code.badState else a.dmaStatus }

/-- Owner code of the SELFTEST that Astrolabe runs on its own after an invariant failure (R272). -/
def ownSelftest : AstJob := { op := .selftest, owner := 0xF, keyline := 0 }

/-- A SELFTEST ends (R265, R272, R395). -/
def endSelftest (j : AstJob) (passes : Bool) (s : State) : State :=
  let own := j.owner == 0xF
  let s := s.onAst fun a =>
    { a with
      job := none, selftestAt := secPs s, state := if passes then .idle else .faulted
      resStatus := if own then a.resStatus else if passes then Code.done else Code.bnInvariantFail }
  if passes then s else alert Code.selftestFail AlertUnit.astrolabe 60 0xFF 0xFFFF 0 s

/-- An invariant does not hold: an abort, an alert, and SELFTEST before the next command (R272). -/
def invariantFailed (s : State) : State :=
  let s := (astAbort s).onAst fun a =>
    { a with resStatus := Code.bnInvariantFail, invFails := satInc 8 a.invFails, job := some ownSelftest, state := .running }
  alert Code.bnInvariantFail AlertUnit.astrolabe 60 0xFF 0xFFFF 0 s

/-- A parity error in the program store: an abort, and Astrolabe is FAULTED until the next start (R262, R272, R275). -/
def parityFault (s : State) : State :=
  alert Code.selftestFail AlertUnit.astrolabe 60 0xFF 0xFFFF 0 ((astAbort s).onAst fun a => { a with state := .faulted })

/-- The running operation ends: `holds` and `passes` are what its checks and a SELFTEST find of the datapath, besides what the
model computes (R265 to R272). -/
def astEnd (holds passes : Bool) (s : State) : State :=
  let ok := !s.ast.upset
  let t := s.onAst fun a => { a with upset := false }
  match s.ast.job with
  | none => t
  | some j =>
    if j.op = .selftest then endSelftest j (passes && ok) t
    else if j.keyStatus ≠ Code.done then t.onAst (astStore j { status := j.keyStatus })
    else
      let o := astCompute j s.ast.mem
      if holds && ok && o.holds then t.onAst (astStore j o) else invariantFailed t

/-- A transfer of Meridian's own, of a block of bytes from or to its SRAM: the lines moved (R273). -/
def merMove (out : Bool) (owner : Nat) (d : Bytes) (s : State) : State :=
  let count := (d.length + 63) / 64
  let addr := 0x80000 + 64 * (Config.astLine out).val
  if count = 0 then s
  else
    let s := s.onAst fun a =>
      { a with
        dmaAddr := addr, dmaOut := out, dmaBoot := false, dmaLine := 0, dmaCount := count, dmaOwner := owner, dmaStatus := Code.done
        mem := if out then a.mem else memPut a.mem astInput (padTo 0 (64 * count) d) }
    s.onMer fun m =>
      { m with sram := memPut m.sram addr (if out then memBytes s.ast.mem astResult (64 * count) else padTo 0 (64 * count) d) }

/-- Meridian's own use of Astrolabe: inputs moved in, one operation, and its result moved out before it is used (R273, R291). A
command refused, a key refused, an input rejected or a failed invariant leaves the result empty. -/
def astRun (op : AstOp) (owner keyline : Nat) (label : Option Nat) (slot : SlotId) (input : Bytes) (s : State) :
    Nat × Bytes × State :=
  if s.ast.state = .faulted ∨ astBusy s.ast then (Code.badState, [], s)
  else
    let s := merMove false owner input (astTake owner s)
    match astRefusal op owner keyline label s with
    | some st => (st, [], s)
    | none =>
      let s := astEnd true true (astBegin op owner keyline label slot s)
      let d := memBytes s.ast.mem astResult s.ast.resLength
      (s.ast.resStatus, d, merMove true owner d s)

/-- Meridian's last operation ended well, and so did those before it: a failed invariant leaves Astrolabe at its SELFTEST. -/
def astWell (s : State) : Bool := !astBusy s.ast && s.ast.state != .faulted && s.ast.resStatus == Code.done

end Sys2Proof.Machine
end

