-- ==== Sys2Proof/Machine/AlmOps.lean ====
section
/-! DEFINITION. The Almanac (R310 to R329): reading words through redirection, deciding triple-stored words, partitions and
their digests, features, counters, programming and redirection, and the controller's one job at a time. -/

namespace Sys2Proof.Machine

/-! ### Words and redirection (R310, R312, R318) -/

def assocGet (l : List (Nat × BitVec 64)) (k : Nat) : BitVec 64 :=
  match l.find? fun x => x.1 == k with
  | some x => x.2
  | none => 0

def assocSet (l : List (Nat × BitVec 64)) (k : Nat) (v : BitVec 64) : List (Nat × BitVec 64) :=
  (k, v) :: l.filter fun x => x.1 != k

def Almanac.raw (a : Almanac) (w : Nat) : BitVec 64 := assocGet a.words w

/-- The word a redirection entry names: both halves equal, VALID twice, every other bit zero (R312). -/
def entryTarget (v : BitVec 64) : Option Nat :=
  let n := v.toNat
  if n < 2 ^ 28 ∧ bits n 12 4 = 0 ∧ bit n 11 ∧ bit n 27 ∧ bits n 0 11 = bits n 16 11 then some (bits n 0 11) else none

def entryFor (w : Nat) : BitVec 64 := BitVec.ofNat 64 (w + 2 ^ 11 + w * 2 ^ 16 + 2 ^ 27)

/-- Redirection entries: their number, their value and whether they are marginal. -/
abbrev EntryTab := List (Nat × BitVec 64 × Bool)

/-- A word through a table of entries: the spare row read for it, its nominal value, and whether it is marginal. The highest
entry in force applies, and a marginal entry makes the word it names marginal (R312). -/
def Almanac.seek (a : Almanac) (t : EntryTab) (w : Nat) : Option Nat × BitVec 64 × Bool :=
  let hit := t.filter fun x => entryTarget x.2.1 == some w
  let lost := hit.any fun x => x.2.2
  match (hit.filter fun x => !x.2.2).foldl (fun m x => some (max (m.getD 0) x.1)) none with
  | some k => (some k, assocGet a.spares k, a.spareMarginal.contains k || lost)
  | none => (none, a.raw w, a.marginal.contains w || lost)

/-- Entries that hold anything, or that another entry replaces; a word that is not programmed names nothing. -/
def Almanac.entryRows (a : Almanac) : List Nat :=
  let named := (a.words ++ a.spares).filterMap fun x => entryTarget x.2
  (((a.words.map (·.1) ++ named).filter fun w => decide (0x300 ≤ w) && decide (w < 0x340)).eraseDups).map (· - 0x300)

/-- The redirection entries as they read: an entry is a word, and may be redirected itself, sixty-four deep at most (R312). -/
def Almanac.entryTab (a : Almanac) : EntryTab :=
  match a.entryRows with
  | [] => []
  | ks =>
    (List.range 64).foldl (fun t _ => t.map fun x => (x.1, (a.seek t (0x300 + x.1)).2))
      (ks.map fun k => (k, a.raw (0x300 + k), a.marginal.contains (0x300 + k)))

/-- Nominal value of a word and whether it is marginal, after redirection. -/
def Almanac.get (a : Almanac) (w : Nat) : BitVec 64 × Bool := (a.seek a.entryTab w).2

/-- The spare row that is read for a word. -/
def Almanac.row (a : Almanac) (w : Nat) : Option Nat := (a.seek a.entryTab w).1

def Almanac.val (a : Almanac) (w : Nat) : BitVec 64 := (a.get w).1

/-- Words that may read marginal: those whose own row does, and those a redirection entry names. -/
def Almanac.suspects (a : Almanac) : List Nat := a.marginal ++ a.entryTab.filterMap fun x => entryTarget x.2.1

/-- Words now marginal, each once (R328). -/
def Almanac.marginalWords (a : Almanac) : List Nat := (a.suspects.eraseDups).filter fun w => (a.get w).2

/-! ### Triple-stored words (R238, R311) -/

/-- A copy: its value, and whether it is good. -/
def Almanac.copyGood (a : Almanac) (ok : BitVec 64 → Bool) (w : Nat) : Bool := !(a.get w).2 && ok (a.val w)

def Almanac.goodMask (a : Almanac) (ok : BitVec 64 → Bool) (w : Nat) : Nat :=
  mask [a.copyGood ok w, a.copyGood ok (w + 1), a.copyGood ok (w + 2)]

/-- The value two good copies agree on. -/
def Almanac.decide3 (a : Almanac) (ok : BitVec 64 → Bool) (w : Nat) : Option (BitVec 64) :=
  let pair := fun i j => a.copyGood ok (w + i) && a.copyGood ok (w + j) && a.val (w + i) == a.val (w + j)
  if pair 0 1 then some (a.val w)
  else if pair 0 2 then some (a.val w)
  else if pair 1 2 then some (a.val (w + 1))
  else none

def markByte (v : BitVec 64) (i : Nat) : Nat := bits v.toNat (8 * i) 8

/-- Form of a good life-cycle copy. -/
def lcForm (v : BitVec 64) : Bool :=
  decide (v.toNat < 2 ^ 40) && (List.range 5).all fun i => markByte v i == 0 || markByte v i == 0xFF

/-- The highest mark set. -/
def lcOfWord (v : BitVec 64) : Lc :=
  if markByte v 4 = 0xFF then .scrap
  else if markByte v 3 = 0xFF then .rma
  else if markByte v 2 = 0xFF then .prod
  else if markByte v 1 = 0xFF then .dev
  else if markByte v 0 = 0xFF then .test
  else .blank

/-- The life-cycle word; none while it is marginal. -/
def Almanac.lc (a : Almanac) : Option Lc := (a.decide3 lcForm 0).map lcOfWord

/-- Index of a state's mark. -/
def lcMarkIndex : Lc → Nat
  | .blank => 0
  | .test => 0
  | .dev => 1
  | .prod => 2
  | .rma => 3
  | .scrap => 4

def lockForm (v : BitVec 64) : Bool := v &&& 0x3E == v

def revForm (v : BitVec 64) : Bool := v &&& 0xF0F == v

/-! ### Partitions (R310, R321, R323) -/

/-- First word of a partition's content and its digest word. -/
def partRange : Nat → Nat × Nat
  | 1 => (0x040, 0x04F)
  | 2 => (0x050, 0x07F)
  | 3 => (0x080, 0x09F)
  | 4 => (0x0A0, 0x0FF)
  | _ => (0x400, 0x7FF)

/-- The lockable partition a word lies in. -/
def partOf (w : Nat) : Option Nat :=
  [1, 2, 3, 4, 5].find? fun k => decide ((partRange k).1 ≤ w) && decide (w ≤ (partRange k).2)

/-- Digest of a partition at nominal margin (R321). -/
def Almanac.partDigest (a : Almanac) (k : Nat) : BitVec 64 :=
  let (lo, hi) := partRange k
  BitVec.ofNat 64 (leNat ((sha384 (ascii "GX24 ALM" ++ beBytes 2 k
    ++ (List.range (hi - lo)).flatMap fun i => leBytes 8 (a.val (lo + i)).toNat)).take 8))

def Almanac.partRead (a : Almanac) (k : Nat) : PartState :=
  match a.decide3 lockForm 3 with
  | none => .lockedInvalid
  | some v =>
    if v.getLsbD k then (if a.partDigest k = a.val (partRange k).2 then .locked else .lockedInvalid) else .unlocked

def Almanac.part (a : Almanac) (k : Nat) : PartState := a.parts.toList.getD (k - 1) .unlocked

/-- A word of a lockable partition as it may be used: zero while the partition is LOCKED_INVALID. -/
def Almanac.used (a : Almanac) (w : Nat) : BitVec 64 :=
  match partOf w with
  | some k => if a.part k = .lockedInvalid then 0 else a.val w
  | none => a.val w

/-! ### Counters (R317) -/

/-- One more than the index of the highest bit set in the counter's words, counted down from word `n`. -/
def topBit (a : Almanac) (base : Nat) : Nat → Nat
  | 0 => 0
  | n + 1 =>
    let v := (a.val (base + n)).toNat
    if v = 0 then topBit a base n else 64 * n + v.log2 + 1

def Almanac.counterRead (a : Almanac) (c : Nat) : Nat := topBit a (0x100 + 64 * c) 64

/-! ### The decoded state (R311, R320, R328) -/

/-- Decode the words read: copies, partitions, revocation and counters, which never decrease within a start. -/
def Almanac.decode (a : Almanac) : Almanac :=
  { a with
    lcGood := a.goodMask lcForm 0
    lockGood := a.goodMask lockForm 3
    revGood := a.goodMask revForm 6
    sparesShown := a.sparesUsed
    parts := tab 5 fun i => a.partRead (i.val + 1)
    counters := vmapIdx (fun i n => max n (a.counterRead i.val)) a.counters
    revoked := (a.decide3 revForm 6).getD (BitVec.allOnes 64) }

/-- Feature words: a marginal one reads zero, and all of them while FEATURES is LOCKED_INVALID (R313, R323). -/
def Almanac.feature (a : Almanac) (w : Nat) : Nat :=
  if a.part 1 = .lockedInvalid || (a.get w).2 then 0 else (a.val w).toNat

def variantLimits : Nat → Nat × Nat
  | 1 => (34, 4)
  | 2 => (26, 2)
  | _ => (18, 1)

/-- Owned barges at most (R314). -/
def variantOwned : Nat → Nat
  | 1 => 32
  | 2 => 24
  | _ => 16

/-- Reaches at most (R314). -/
def variantReaches : Nat → Nat
  | 1 => 8
  | 2 => 6
  | _ => 4

/-- Features decoded at step 2 (R313 to R315). -/
def Almanac.features (a : Almanac) : Almanac :=
  let code := bits (a.feature 0x040) 0 4
  let m := if code = 1 ∨ code = 2 then code else 3
  let (nb, nl) := variantLimits m
  let bs := ((idxs 34).filter fun b => bit (a.feature 0x041) b.val).take nb
  let ls := ((idxs 4).filter fun l => bit (a.feature 0x042) l.val).take nl
  { a with
    model := m, barges := bs, links := ls, boost := bit (a.feature 0x042) 8 && m != 3
    degraded := decide (bs.length < nb) || decide (ls.length < nl) }

/-- The roots partition holds a marginal word (R243). -/
def Almanac.rootsMarginal (a : Almanac) : Bool := (List.range 32).any fun i => (a.get (0x080 + i)).2

/-- The operator anchors in force (R378). -/
def Almanac.anchors (a : Almanac) : List Bytes :=
  [0x400, 0x406].filterMap fun w =>
    let d := (List.range 6).flatMap fun i => leBytes 8 (a.used (w + i)).toNat
    if d = zeros 48 then none else some d

/-- The decoded state as the model lays it out for MER_MEAS_1 (assumption 13). -/
def Almanac.stateBytes (a : Almanac) : Bytes :=
  leBytes 1 (match a.lc with
    | some l => lcMarkIndex l + (if l = .blank then 0 else 1)
    | none => 0xFF)
    ++ leBytes 8 (((a.decide3 lockForm 3).getD (BitVec.allOnes 64)).toNat)
    ++ a.parts.toList.flatMap (fun p => leBytes 1 (match p with
      | .unlocked => 0
      | .locked => 1
      | .lockedInvalid => 2))
    ++ leBytes 8 a.revoked.toNat
    ++ a.counters.toList.flatMap (leBytes 2)
    ++ (let m := a.marginalWords; ((List.range 2048).filter m.contains).flatMap (leBytes 2))

/-- Extend MER_MEAS_1 with the decoded state (R229). -/
def measureAlmanac (s : State) : State :=
  extend 1 (Config.stateDigest 1 s.alm.stateBytes).toList s

/-- An Almanac alert (R42, R45). -/
def almAlert (status : Nat) (s : State) : State := alert status AlertUnit.almanac 60 0xFF 0xFFFF 0 s

/-! ### Programming (R325, R326) -/

/-- Program a word's bits into the row it is read from: good, or marginal. -/
def Almanac.burn (a : Almanac) (w : Nat) (v : BitVec 64) (good : Bool) : Almanac :=
  match a.row w with
  | some k =>
    { a with
      spares := assocSet a.spares k (assocGet a.spares k ||| v)
      spareMarginal := if good then a.spareMarginal.filter (· != k) else k :: a.spareMarginal.filter (· != k) }
  | none =>
    { a with
      words := assocSet a.words w (a.raw w ||| v)
      marginal := if good then a.marginal.filter (· != w) else w :: a.marginal.filter (· != w) }

/-- How one word is programmed: the bits it takes and whether it verifies, none where the window is not met before it, and the
status a command ends with after it (R325). `hit`: this is the word at which the outcome shows; `part`: the bits a word takes
whose window is lost, an open value. -/
def programOne (outcome : ProgOutcome) (part : BitVec 64) (hit : Bool) (v : BitVec 64) : Option (BitVec 64 × Bool) × Nat :=
  if !hit then (some (v, true), Code.done)
  else
    match outcome with
    | .verified => (some (v, true), Code.done)
    | .windowLost => (none, Code.otpWindow)
    | .windowCut => if v &&& part = v then (some (v, true), Code.otpWindow) else (some (v &&& part, false), Code.almMarginal)
    | .marginal => (some (v, false), Code.almMarginal)

/-- Redirect one word: lowest unused spare rows in turn, then the entry, verified as any word is (R325, R326). -/
def Almanac.redirect (outcome : ProgOutcome) (part : BitVec 64) (fails bad : List Nat) (w : Nat) (v : BitVec 64) :
    Nat → Almanac → Almanac × Nat
  | 0, a => (a, Code.almNoSpare)
  | f + 1, a =>
    let k := a.sparesUsed
    if 64 ≤ k then (a, Code.almNoSpare)
    else
      let b := { a with sparesUsed := k + 1, spares := assocSet a.spares k v }
      if k ∈ fails then Almanac.redirect outcome part fails bad w v f { b with spareMarginal := k :: b.spareMarginal }
      else
        match programOne outcome part (decide (0x300 + k ∈ bad)) (entryFor w) with
        | (none, st) => (b, st)
        | (some (e, good), st) => (b.burn (0x300 + k) e good, st)

/-- Value written for a redirected word: the decided value of a triple-stored one, else the nominal read. -/
def Almanac.redirectValue (a : Almanac) (w : Nat) : BitVec 64 :=
  let d := if w < 3 then a.decide3 lcForm 0 else if w < 6 then a.decide3 lockForm 3 else if w < 9 then a.decide3 revForm 6 else none
  d.getD (a.val w)

/-- Redirection of every marginal word in index order, until a word ends the command (R326). -/
def Almanac.repair (outcome : ProgOutcome) (part : BitVec 64) (fails bad : List Nat) (a : Almanac) : Almanac × Nat :=
  let m := a.marginalWords
  ((List.range 2048).filter m.contains).foldl
    (fun x w =>
      if x.2 = Code.done ∧ (x.1.get w).2 then Almanac.redirect outcome part fails bad w (x.1.redirectValue w) 65 x.1 else x)
    (a, Code.done)

/-- Bits [hi-1:lo] set. -/
def bitRun (lo hi : Nat) : BitVec 64 := BitVec.ofNat 64 (2 ^ hi - 2 ^ lo)

/-- Words a job programs, in order, with the bits each is to hold. -/
def Almanac.jobWords (a : Almanac) (rnd : Bytes) : AlmJob → List (Nat × BitVec 64)
  | .program w v => [(w, v)]
  | .lock k _ => ((partRange k).2, a.partDigest k) :: [3, 4, 5].map fun w => (w, BitVec.ofNat 64 (2 ^ k))
  | .genRoots => (List.range 24).map fun i => (0x080 + i, BitVec.ofNat 64 (leAt rnd (8 * i) 8))
  | .lcMark l => [0, 1, 2].map fun w => (w, BitVec.ofNat 64 (0xFF * 2 ^ (8 * lcMarkIndex l)))
  | .counter c v =>
    (List.range 64).filterMap fun j =>
      let lo := max (a.counterRead c) (64 * j) - 64 * j
      let hi := min v (64 * j + 64) - 64 * j
      if lo < hi then some (0x100 + 64 * c + j, bitRun lo hi) else none
  | .revoke i => [6, 7, 8].map fun w => (w, BitVec.ofNat 64 (2 ^ i))
  | _ => []

/-- Program words until one ends the command (R325). An outcome other than `verified` shows at the first word that `bad` names,
else at the last; a window that is not met, at the first when `bad` names none. -/
def Almanac.burnAll (outcome : ProgOutcome) (part : BitVec 64) (bad : List Nat) : List (Nat × BitVec 64) → Almanac → Almanac × Nat
  | [], a => (a, Code.done)
  | (w, v) :: l, a =>
    let hit := decide (w ∈ bad) || l.isEmpty || (bad.isEmpty && outcome == .windowLost)
    match programOne outcome part hit v with
    | (none, st) => (a, st)
    | (some (x, good), st) =>
      if st = Code.done then Almanac.burnAll outcome part bad l (a.burn w x good)
      else (a.burn w x good, if good && l.isEmpty then Code.done else st)

/-- A job that programs fuses. -/
def AlmJob.programs : AlmJob → Bool
  | .read _ => false
  | .critical => false
  | _ => true

/-- READ keeps the data registers (R329). -/
def AlmJob.isRead : AlmJob → Bool
  | .read _ => true
  | _ => false

/-- A word whose present value has a 1 where the new one has a 0 (R327). -/
def Almanac.clears (a : Almanac) (w : Nat) (v : BitVec 64) : Bool := a.val w &&& ~~~v != 0

/-- Every production key hash but one is revoked, and the command names that one (R316). -/
def Almanac.lastSigner (a : Almanac) (index : Nat) : Bool :=
  decide (index < 4) && [0, 1, 2, 3].all fun i => i == index || a.revoked.getLsbD i

/-- Why a programming job is refused, on arrival and again when its turn comes: nothing is programmed (R316, R322, R327). -/
def jobBad (a : Almanac) (rnd : Bytes) (j : AlmJob) : Option Nat :=
  let lockedAt : Nat → Bool := fun w => match partOf w with
    | some k => a.part k != .unlocked
    | none => false
  match j with
  | .program w v => if lockedAt w then some Code.badState else if a.clears w v then some Code.badDescriptor else none
  | .lock k d =>
    if a.part k ≠ .unlocked ∨ a.partDigest k ≠ d then some Code.badState
    else if a.clears (partRange k).2 d then some Code.badDescriptor else none
  | .genRoots =>
    if a.part 3 ≠ .unlocked then some Code.badState
    else if (a.jobWords rnd j).any fun x => a.clears x.1 x.2 then some Code.badDescriptor else none
  | .revoke i => if a.lastSigner i then some Code.badState else none
  | _ => none

/-! ### The programming window (R325, R355) -/

/-- Sluice holds VDD_OTP up and every die sensor reads 0 to 85 °C. -/
def windowMet (s : State) : Bool :=
  let x := s.slu.rail[5]
  x.on && x.settled && x.heldMv == 1800 && s.slu.die.toList.all fun d => decide (0 ≤ d.quarterC) && decide (d.quarterC ≤ 340)

/-- The controller still waits for VDD_OTP to be acknowledged, or for 10 ms to pass. -/
def windowWaits (s : State) : Bool := let x := s.slu.rail[5]; !x.settled && !x.late

/-! ### Jobs of the controller (R327, R329) -/

/-- Accept a job: it runs at once, or waits for what runs, the full read of step 2 included (R327). -/
def almStart (who : AlmWho) (j : AlmJob) (s : State) : State :=
  s.onAlm fun a =>
    if a.busy.isSome || s.mer.step == .almanac then { a with waiting := a.waiting ++ [(who, j)] }
    else { a with busy := some (who, j) }

/-- What runs has ended, and the next job begins. -/
def almNext (s : State) : State := s.onAlm fun a => { a with busy := a.waiting.head?, waiting := a.waiting.drop 1 }

/-- The answer of a Management Port command whose job has ended: inside the operator's session, or outside any
in PROVISION, as a message of type 0x7F (R288, R327, R379). -/
def almAnswer (status : Nat) (reply : Bytes) (s : State) : State :=
  answer status reply (asType (if s.mer.phase = .provision then 0x7F else 0x06) s)

/-- The running job ends with a status, and the next begins. A Management Port command is answered. -/
def almEnd (status : Nat) (reply : Bytes) (s : State) : State :=
  match s.alm.busy with
  | none => s
  | some (who, j) =>
    let s := almNext (s.onAlm fun a => { a with status, data := if j.isRead then a.data else 0 })
    let s := if who = .mgmt then almAnswer status (if status = Code.done then reply else []) s else s
    if status = Code.almMarginal ∨ status = Code.almNoSpare then almAlert status s else s

/-- The fuses after a programming job has been cut short (R325): how far it got, in its redirections or its own words, and which
bits of the word it was at read 1, are open values. A job that would be refused, or that waits for its window, has programmed
nothing. -/
def Almanac.cutShort (a : Almanac) (rnd : Bytes) (redirects words : Nat) (part : BitVec 64) (j : AlmJob) : Almanac :=
  if (jobBad a rnd j).isSome then a
  else
    let (b, st) := a.repair .windowCut part [] [0x300 + a.sparesUsed + redirects % (a.marginalWords.length + 1)]
    if st ≠ Code.done then b
    else
      let ws := b.jobWords rnd j
      match ws[words % (ws.length + 1)]? with
      | some x => (b.burnAll .windowCut part [x.1] ws).1
      | none => (b.burnAll .verified part [] ws).1

/-- A command is interrupted with a status (R325, R327): by power loss, tamper or a security restart, or by a fault of VDD_OTP.
What waited begins. -/
def almInterrupt (status : Nat) (s : State) : State :=
  match s.alm.busy with
  | none => s
  | some (who, j) =>
    let k := s.freeCtr
    let part := Config.freeWord (k + 2) ++ Config.freeWord (k + 3)
    let s := if j.programs && windowMet s then
        { (s.onAlm fun a => a.cutShort (padTo 0 192 (Config.drbg k 192)) (Config.freeWord (k + 1)).toNat (Config.freeWord (k + 4)).toNat
            part j) with freeCtr := k + 5 }
      else s
    let s := almNext (s.onAlm fun a => { a with status, data := 0 })
    if who = .mgmt then almAnswer status [] s else s

end Sys2Proof.Machine
end

