-- ==== Sys2Proof/Machine/Num.lean ====
section
/-! DEFINITION. The arithmetic contract (R50 to R79): element formats, exact rounding, block accumulation, the canonical
reduction tree, the vector primitives, quantisation, the Philox generator and token selection. -/

namespace Sys2Proof.Machine

/-- A decoded value: NaN, an infinity, or (−1)^neg × m × 2^e. -/
inductive Val where
  | nan
  | inf (neg : Bool)
  | fin (neg : Bool) (m : Nat) (e : Int)
  deriving DecidableEq, Repr

/-- A floating-point format (R53): mantissa bits, exponent of the smallest subnormal, width without the sign, largest finite
magnitude code, magnitude codes of infinity and of the canonical NaN where the format has them, and whether a finite result
beyond the largest finite becomes infinity (R61). -/
structure FFmt where
  m : Nat
  qmin : Int
  width : Nat
  top : Nat
  inf : Option Nat
  nan : Option Nat
  ovfInf : Bool
  deriving DecidableEq, Repr

def fp32 : FFmt := ⟨23, -149, 31, 0x7F7FFFFF, some 0x7F800000, some 0x7FC00000, true⟩
def bf16 : FFmt := ⟨7, -133, 15, 0x7F7F, some 0x7F80, some 0x7FC0, true⟩
def fp16 : FFmt := ⟨10, -24, 15, 0x7BFF, some 0x7C00, some 0x7E00, true⟩
def fp8e4 : FFmt := ⟨3, -9, 7, 0x7E, none, some 0x7F, false⟩
def fp8e5 : FFmt := ⟨2, -16, 7, 0x7B, some 0x7C, some 0x7E, false⟩
def fp6e3 : FFmt := ⟨2, -4, 5, 0x1F, none, none, false⟩
def fp6e2 : FFmt := ⟨3, -3, 5, 0x1F, none, none, false⟩
def fp4 : FFmt := ⟨1, -1, 3, 0x7, none, none, false⟩

/-- The floating-point format of a code of R50; none for the integer codes and the invalid ones. -/
def floatFmt : Nat → Option FFmt
  | 0x3 => some fp8e4
  | 0x4 => some fp8e5
  | 0x5 => some fp6e3
  | 0x6 => some fp6e2
  | 0x7 => some fp4
  | 0x8 => some bf16
  | 0x9 => some fp16
  | 0xA => some fp32
  | _ => none

/-- Bits per element of a code (R50). -/
def fmtBits : Nat → Nat
  | 0x2 => 4
  | 0x5 => 6
  | 0x6 => 6
  | 0x7 => 4
  | 0x8 => 16
  | 0x9 => 16
  | 0xA => 32
  | _ => 8

/-- The block-scaled flag is permitted (R50). -/
def bsAllowed (c : Nat) : Bool := c == 0 || (decide (3 ≤ c) && decide (c ≤ 7))

/-- The value of an encoding (R53). -/
def decodeF (f : FFmt) (code : Nat) : Val :=
  let neg := code / 2 ^ f.width % 2 == 1
  let mag := code % 2 ^ f.width
  if mag ≤ f.top then
    if mag < 2 ^ f.m then .fin neg mag f.qmin
    else .fin neg (2 ^ f.m + mag % 2 ^ f.m) (f.qmin + (mag / 2 ^ f.m : Nat) - 1)
  else if f.inf = some mag then .inf neg else .nan

/-- Two's complement value of a `w`-bit code. -/
def signedOf (w code : Nat) : Int := if code < 2 ^ (w - 1) then code else (code : Int) - 2 ^ w

/-- An integer times a power of two. -/
def ofInt (i : Int) (e : Int) : Val := .fin (decide (i < 0)) i.natAbs e

/-- The value of an element before its shared scale (R52, R53). -/
def elemVal (fmt : Nat) (bs : Bool) (code : Nat) : Val :=
  match fmt with
  | 0x0 => ofInt (signedOf 8 code) (if bs then -6 else 0)
  | 0x1 => ofInt code 0
  | 0x2 => ofInt (signedOf 4 code) 0
  | c =>
    match floatFmt c with
    | some f => decodeF f code
    | none => .nan

/-! ### Rounding (R61) -/

/-- m × 2^(e − q) rounded to an integer, ties to even. -/
def roundShift (m : Nat) (e q : Int) : Nat :=
  if q ≤ e then m * 2 ^ (e - q).toNat
  else
    let k := (q - e).toNat
    let h := 2 ^ (k - 1)
    let fl := m / 2 ^ k
    let r := m % 2 ^ k
    if r > h ∨ (r = h ∧ fl % 2 = 1) then fl + 1 else fl

/-- Magnitude code of a rounded finite value, the exponent range taken as unbounded above. -/
def roundMag (f : FFmt) (m : Nat) (e : Int) : Nat :=
  if m = 0 then 0
  else
    let q := max f.qmin ((m.log2 : Int) + e - f.m)
    (q - f.qmin).toNat * 2 ^ f.m + roundShift m e q

/-- A value converted to a format (R55, R61). -/
def encodeF (f : FFmt) (v : Val) : Nat :=
  let sgn (neg : Bool) (mag : Nat) := (if neg then 2 ^ f.width else 0) + mag
  match v with
  | .nan => f.nan.getD 0
  | .inf neg => sgn neg (f.inf.getD f.top)
  | .fin neg m e =>
    let mag := roundMag f m e
    if mag ≤ f.top then sgn neg mag
    else sgn neg (if f.ovfInf then f.inf.getD f.top else f.top)

/-- A value rounded to an integer and clamped to a range (R61). -/
def encodeI (lo hi : Int) (v : Val) : Int :=
  match v with
  | .nan => 0
  | .inf neg => if neg then lo else hi
  | .fin neg m e =>
    let r := roundShift m e 0
    max lo (min hi (if neg then -(r : Int) else r))

/-- A value multiplied by 2^k, exactly. -/
def Val.scale (v : Val) (k : Int) : Val :=
  match v with
  | .fin neg m e => .fin neg m (e + k)
  | v => v

/-- An FP32 value converted to an element code (R61); a block-scaled INT8 divides by 2^−6 first. -/
def encodeElem (fmt : Nat) (bs : Bool) (v : Val) : Nat :=
  match fmt with
  | 0x0 => ((encodeI (-128) 127 (if bs then v.scale 6 else v)) % 256).toNat
  | 0x1 => (encodeI 0 255 v).toNat
  | 0x2 => ((encodeI (-8) 7 v) % 16).toNat
  | c =>
    match floatFmt c with
    | some f => encodeF f v
    | none => 0

/-! ### FP32 arithmetic (R72) -/

def fdec (w : Word) : Val := decodeF fp32 w.toNat

def fenc (v : Val) : Word := BitVec.ofNat 32 (encodeF fp32 v)

/-- Signed mantissa at exponent `q` of a finite value with `q` at most its exponent. -/
def alignTo (neg : Bool) (m : Nat) (e q : Int) : Int :=
  let n : Int := (m : Int) * 2 ^ (e - q).toNat
  if neg then -n else n

/-- Exact sum; an exact zero is −0 only where both terms are −0. -/
def Val.add (a b : Val) : Val :=
  match a, b with
  | .nan, _ => .nan
  | _, .nan => .nan
  | .inf s, .inf t => if s = t then .inf s else .nan
  | .inf s, _ => .inf s
  | _, .inf t => .inf t
  | .fin s m e, .fin t n f =>
    let q := min e f
    let r := alignTo s m e q + alignTo t n f q
    if r = 0 then .fin (s && t && m == 0 && n == 0) 0 q else .fin (decide (r < 0)) r.natAbs q

def Val.neg (a : Val) : Val :=
  match a with
  | .nan => .nan
  | .inf s => .inf (!s)
  | .fin s m e => .fin (!s) m e

def Val.abs (a : Val) : Val :=
  match a with
  | .nan => .nan
  | .inf _ => .inf false
  | .fin _ m e => .fin false m e

/-- Exact product (R65). -/
def Val.mul (a b : Val) : Val :=
  match a, b with
  | .nan, _ => .nan
  | _, .nan => .nan
  | .inf s, .inf t => .inf (s != t)
  | .inf s, .fin t n _ => if n = 0 then .nan else .inf (s != t)
  | .fin s m _, .inf t => if m = 0 then .nan else .inf (s != t)
  | .fin s m e, .fin t n f => .fin (s != t) (m * n) (e + f)

/-- A finite value with a nonzero mantissa compares less. -/
def Val.lt (a b : Val) : Bool :=
  match a, b with
  | .nan, _ => false
  | _, .nan => false
  | .inf s, .inf t => s && !t
  | .inf s, _ => s
  | _, .inf t => !t
  | .fin s m e, .fin t n f =>
    let q := min e f
    decide (alignTo s m e q < alignTo t n f q)

/-- The sign bit of a value. -/
def Val.sign (a : Val) : Bool :=
  match a with
  | .nan => false
  | .inf s => s
  | .fin s _ _ => s

def Val.isNan (a : Val) : Bool := match a with
  | .nan => true
  | _ => false

def Val.isZero (a : Val) : Bool := match a with
  | .fin _ 0 _ => true
  | _ => false

/-- add_rne of R68. -/
def fadd (a b : Word) : Word := fenc ((fdec a).add (fdec b))

def fsub (a b : Word) : Word := fenc ((fdec a).add (fdec b).neg)

def fmul (a b : Word) : Word := fenc ((fdec a).mul (fdec b))

/-- a × b + c with one rounding. -/
def ffma (a b c : Word) : Word := fenc (((fdec a).mul (fdec b)).add (fdec c))

def canonNan : Word := 0x7FC00000

/-- Minimum: −0 below +0, NaN where an operand is NaN. -/
def fmin (a b : Word) : Word :=
  let x := fdec a
  let y := fdec b
  if x.isNan || y.isNan then canonNan
  else if x.lt y then a else if y.lt x then b else if x.sign then a else b

def fmax (a b : Word) : Word :=
  let x := fdec a
  let y := fdec b
  if x.isNan || y.isNan then canonNan
  else if x.lt y then b else if y.lt x then a else if x.sign then b else a

def fabs (a : Word) : Word := fenc (fdec a).abs

def fneg (a : Word) : Word := fenc (fdec a).neg

/-- Integer square root by digits: `i` bits still to decide. -/
def isqrtN : Nat → Nat → Nat → Nat
  | 0, _, r => r
  | i + 1, x, r => isqrtN i x (if (r + 2 ^ i) * (r + 2 ^ i) ≤ x then r + 2 ^ i else r)

def isqrt (x : Nat) : Nat := isqrtN (x.log2 / 2 + 1) x 0

/-- A positive value known to `n × 2^e` from below, exact or not: an inexact one gets an odd last bit, which no rounding point
of a narrower format has. -/
def jam (neg : Bool) (n : Nat) (e : Int) (exact : Bool) : Val :=
  if exact then .fin neg n e else .fin neg (2 * n + 1) (e - 1)

/-- 1 / x. -/
def frcp (a : Word) : Word :=
  match fdec a with
  | .nan => canonNan
  | .inf s => fenc (.fin s 0 0)
  | .fin s m e =>
    if m = 0 then fenc (.inf s)
    else fenc (jam s (2 ^ 100 / m) (-100 - e) (2 ^ 100 % m == 0))

/-- 1 / √x; of −0 it is −Infinity (IEEE 754-2019, rSqrt). -/
def frsqrt (a : Word) : Word :=
  match fdec a with
  | .nan => canonNan
  | .inf s => if s then canonNan else 0
  | .fin s m e =>
    if m = 0 then fenc (.inf s)
    else if s then canonNan
    else
      let m := if e % 2 = 0 then m else 2 * m
      let e := if e % 2 = 0 then e else e - 1
      let r := isqrt (2 ^ 200 / m)
      fenc (jam false r (-100 - e / 2) (m * r * r == 2 ^ 200))

/-- Fixed-point precision of the series below. -/
def prec : Nat := 160

def ln2Fix : Nat := 1013035739299659071135698605846798551586536899366
def piFix : Nat := 4591442807048218921384805199743311128454155024418

/-- Sum of y^i / i! for i from `i` on, the term given. -/
def expSeries : Nat → Nat → Nat → Nat → Nat
  | 0, _, _, _ => 0
  | n + 1, i, y, t => t + expSeries n (i + 1) y (t * y / 2 ^ prec / (i + 1))

/-- A finite value as a fixed-point number with `prec` fraction bits, rounded down. -/
def toFix (neg : Bool) (m : Nat) (e : Int) : Int :=
  let k := e + prec
  let n : Int := if 0 ≤ k then (m : Int) * 2 ^ k.toNat else (m : Int) / 2 ^ (-k).toNat
  if neg then (if 0 ≤ k then -n else -n - 1) else n

/-- A value is an integer: its exponent is not negative, or its fraction bits are zero. -/
def isIntegral (m : Nat) (e : Int) : Bool := decide (0 ≤ e) || m % 2 ^ (-e).toNat == 0

/-- The integer m × 2^e, rounded down in magnitude. -/
def integerPart (m : Nat) (e : Int) : Nat := if 0 ≤ e then m * 2 ^ e.toNat else m / 2 ^ (-e).toNat

/-- 2^x. -/
def fexp2 (a : Word) : Word :=
  match fdec a with
  | .nan => canonNan
  | .inf s => if s then 0 else fenc (.inf false)
  | .fin s m e =>
    if m = 0 then fenc (.fin false 1 0)
    else if 10 ≤ (m.log2 : Int) + e then (if s then 0 else fenc (.inf false))
    else if isIntegral m e then
      let n : Int := integerPart m e
      fenc (.fin false 1 (if s then -n else n))
    else
      let x := toFix s m e
      let n := x / 2 ^ prec
      let f := (x % 2 ^ prec).toNat
      let y := f * ln2Fix / 2 ^ prec
      fenc (jam false (expSeries 50 0 y (2 ^ prec)) (n - prec) false)

/-- Sum of z^(2i+1) / (2i+1) from i on, z^(2i+1) given. -/
def atanhSeries : Nat → Nat → Nat → Nat → Nat
  | 0, _, _, _ => 0
  | n + 1, i, z2, t => t / (2 * i + 1) + atanhSeries n (i + 1) z2 (t * z2 / 2 ^ prec)

/-- log2 x. -/
def flog2 (a : Word) : Word :=
  match fdec a with
  | .nan => canonNan
  | .inf s => if s then canonNan else fenc (.inf false)
  | .fin s m e =>
    if m = 0 then fenc (.inf true)
    else if s then canonNan
    else
      let l := m.log2
      let n : Int := (l : Int) + e
      if m = 2 ^ l then fenc (ofInt n 0)
      else
        let z := (m - 2 ^ l) * 2 ^ prec / (m + 2 ^ l)
        let lnf := 2 * atanhSeries 60 0 (z * z / 2 ^ prec) z
        let v : Int := n * 2 ^ prec + (lnf * 2 ^ prec / ln2Fix : Nat)
        if 0 ≤ v then fenc (jam false v.toNat (-(prec : Int)) false)
        else fenc (jam true (v.natAbs - 1) (-(prec : Int)) false)

/-- Sum of (−1)^i t^(2i) / (2i+1)! from i on, the term given. -/
def sincSeries : Nat → Nat → Int → Int → Int
  | 0, _, _, _ => 0
  | n + 1, i, t2, t => t + sincSeries n (i + 1) t2 (-(t * t2 / 2 ^ prec / ((2 * i + 2) * (2 * i + 3))))

/-- sin(π r) for r = m × 2^e with 0 < r < 1/2, as a value. -/
def sinKernel (neg : Bool) (m : Nat) (e : Int) : Val :=
  let r := (toFix false m e).toNat
  let t := r * piFix / 2 ^ prec
  let s := (sincSeries 40 0 ((t * t / 2 ^ prec : Nat) : Int) (2 ^ prec)).toNat
  jam neg (m * piFix * s) (e - 2 * prec) false

/-- sin(π r) for r = n / 2^k in [0, 2), exact at the quarter points. -/
def sinTurn (neg : Bool) (n k : Nat) : Val :=
  let half := 2 ^ k
  let neg' := if half ≤ n then !neg else neg
  let n := n % half
  let n := if half < 2 * n then half - n else n
  if n = 0 then .fin neg 0 0
  else if 2 * n = half then .fin neg' 1 0
  else sinKernel neg' n (-(k : Int))

/-- |x| modulo 2 as n / 2^k, with k at least 1. -/
def turn (m : Nat) (e : Int) : Nat × Nat :=
  let k := max 1 (-e).toNat
  (m * 2 ^ (e + k).toNat % 2 ^ (k + 1), k)

/-- sin πx; at an integer a zero of x's sign (IEEE 754-2019, sinPi). -/
def fsinpi (a : Word) : Word :=
  match fdec a with
  | .nan => canonNan
  | .inf _ => canonNan
  | .fin s m e =>
    let (n, k) := turn m e
    fenc (sinTurn s n k)

/-- cos πx = sin π(x + 1/2); at a half-integer +0 (IEEE 754-2019, cosPi). -/
def fcospi (a : Word) : Word :=
  match fdec a with
  | .nan => canonNan
  | .inf _ => canonNan
  | .fin _ m e =>
    let (n, k) := turn m e
    fenc (sinTurn false ((n + 2 ^ (k - 1)) % 2 ^ (k + 1)) k)

/-- A vector primitive (R72, R117). -/
def vfn (fn : VFn) (a b c : Word) : Word :=
  match fn with
  | .add => fadd a b
  | .sub => fsub a b
  | .mul => fmul a b
  | .fma => ffma a b c
  | .min => fmin a b
  | .max => fmax a b
  | .abs => fabs a
  | .neg => fneg a
  | .rcp => frcp a
  | .rsqrt => frsqrt a
  | .exp2 => fexp2 a
  | .log2 => flog2 a
  | .sinpi => fsinpi a
  | .cospi => fcospi a
  | .copy => a

/-! ### Block accumulation and the tree (R63 to R68, R116) -/

/-- Units of 2^−32 of a finite product. -/
def accUnits (v : Val) : Int :=
  match v with
  | .fin s m e => alignTo s m e (-32)
  | _ => 0

/-- The leaf of one K block of narrow operands: its products, with the sum of the two scale exponents less 254 (R63 to R66);
`bad` when a scale is NaN. -/
def leafNarrow (prods : List Val) (scale : Int) (bad : Bool) : Word :=
  let pinf := prods.any (· == .inf false)
  let ninf := prods.any (· == .inf true)
  if bad || prods.any Val.isNan || (pinf && ninf) then canonNan
  else if pinf then fenc (.inf false)
  else if ninf then fenc (.inf true)
  else
    let s := prods.foldl (fun n p => n + accUnits p) (0 : Int)
    if s = 0 then 0 else fenc (ofInt s (scale - 32))

/-- Largest power of two below n (n at least 2). -/
def splitAt' (n : Nat) : Nat := 2 ^ (n - 1).log2

/-- The canonical tree over the leaves (R68); fuel bounds the depth. -/
def treeN : Nat → List Word → Word
  | 0, v => v.headD 0
  | f + 1, v =>
    if v.length ≤ 1 then v.headD 0
    else
      let h := splitAt' v.length
      fadd (treeN f (v.take h)) (treeN f (v.drop h))

def tree (v : List Word) : Word := treeN v.length v

/-- The ranges of the parts of a reduction of n leaves at a depth (R116). -/
def parts : (depth lo n : Nat) → List (Nat × Nat)
  | 0, lo, n => [(lo, n)]
  | d + 1, lo, n =>
    if n ≤ 1 then [(lo, n)]
    else
      let h := splitAt' n
      parts d lo h ++ parts d (lo + h) (n - h)

/-- The join of part results of one element, with the results not yet used (R118). -/
def joinN : (depth n : Nat) → List Word → Word × List Word
  | 0, _, r => (r.headD 0, r.drop 1)
  | d + 1, n, r =>
    if n ≤ 1 then (r.headD 0, r.drop 1)
    else
      let h := splitAt' n
      let (a, r) := joinN d h r
      let (b, r) := joinN d (n - h) r
      (fadd a b, r)

/-- MAX or MIN over leaves (R71). -/
def reduceBy (f : Word → Word → Word) (v : List Word) : Word :=
  match v with
  | [] => 0
  | x :: v => v.foldl f x

/-! ### Block-scaled quantisation (R62) -/

/-- Largest normal exponent of an element format. -/
def emaxOf : Nat → Int
  | 0x3 => 8
  | 0x4 => 15
  | 0x5 => 4
  | 0x6 => 2
  | 0x7 => 2
  | _ => 0

/-- Scale and element codes of one block of 32 values. -/
def quantBlock (fmt : Nat) (v : List Word) : Nat × List Nat :=
  let vs := v.map fdec
  if vs.any Val.isNan then (0xFF, v.map fun _ => 0)
  else
    let big := vs.foldl (fun a x => if a.lt x.abs then x.abs else a) (.fin false 0 0)
    let x : Int := match big with
      | .inf _ => 0xFE
      | .fin _ m e => if m = 0 then 0 else max 0 (min 0xFE ((m.log2 : Int) + e - emaxOf fmt + 127))
      | .nan => 0
    (x.toNat, vs.map fun y => encodeElem fmt true (y.scale (127 - x)))

/-! ### Random draws and token selection (R75 to R77) -/

def hi32 (x : BitVec 64) : Word := x.extractLsb' 32 32

def lo32 (x : BitVec 64) : Word := x.extractLsb' 0 32

def philoxRound (c : Word × Word × Word × Word) (k : Word × Word) : Word × Word × Word × Word :=
  let p0 : BitVec 64 := 0xD2511F53 * c.1.setWidth 64
  let p1 : BitVec 64 := 0xCD9E8D57 * c.2.2.1.setWidth 64
  (hi32 p1 ^^^ c.2.1 ^^^ k.1, lo32 p1, hi32 p0 ^^^ c.2.2.2 ^^^ k.2, lo32 p0)

def philoxN : Nat → Word × Word × Word × Word → Word × Word → Word × Word × Word × Word
  | 0, c, _ => c
  | n + 1, c, k => philoxN n (philoxRound c k) (k.1 + 0x9E3779B9, k.2 + 0xBB67AE85)

/-- First output word of Philox-4×32-10. -/
def philox (c : Word × Word × Word × Word) (k : Word × Word) : Word := (philoxN 10 c k).1

/-- The uniform value of a draw (R76). -/
def uniform (seedLo seedHi tok draw : Word) (domain : Nat) : Word :=
  fenc (.fin false ((philox (tok, draw, BitVec.ofNat 32 domain, 0) (seedLo, seedHi)).toNat / 256) (-24))

/-- Step 1 of R77: NaN, −0 and negative probabilities become +0. -/
def cleanProb (p : Word) : Word :=
  let v := fdec p
  if v.isNan || v.sign then 0 else p

/-- Candidate order: descending probability, then ascending id. -/
def candBefore (a b : Word × Word) : Bool :=
  (fdec b.1).lt (fdec a.1) || (!(fdec a.1).lt (fdec b.1) && decide (a.2.toNat ≤ b.2.toNat))

def insertCand (x : Word × Word) : List (Word × Word) → List (Word × Word)
  | [] => [x]
  | y :: l => if candBefore x y then x :: y :: l else y :: insertCand x l

def sortCands (l : List (Word × Word)) : List (Word × Word) := l.foldr insertCand []

/-- Prefix sums, each by add_rne. -/
def prefixSums : Word → List Word → List Word
  | _, [] => []
  | s, p :: l => fadd s p :: prefixSums (fadd s p) l

def isInfW (w : Word) : Bool := fdec w == .inf false

/-- First candidate whose prefix sum exceeds the threshold; the last when none does. -/
def pickCand (t : Word) : List Word → List (Word × Word) → Word → Word
  | s :: ss, c :: cs, _ => if (fdec t).lt (fdec s) then c.2 else pickCand t ss cs c.2
  | _, _, d => d

/-- Token selection of R77 from (probability, id) candidates; greedy makes no draw. -/
def selectToken (cands : List (Word × Word)) (u : Word) (greedy : Bool) : Option Word :=
  let l := sortCands (cands.map fun c => (cleanProb c.1, c.2))
  match l with
  | [] => none
  | c0 :: _ =>
    if greedy || l.any (fun c => isInfW c.1) then some c0.2
    else
      let sums (l : List (Word × Word)) := prefixSums 0 (l.map (·.1))
      let l := if isInfW ((sums l).getLastD 0) then
          l.map fun c => (fenc ((fdec c.1).scale (-40)), c.2) else l
      let ss := sums l
      let tot := ss.getLastD 0
      if (fdec tot).isZero then some c0.2 else some (pickCand (fmul u tot) ss l c0.2)

end Sys2Proof.Machine
end

