-- ==== Sys2Proof/Machine/Operands.lean ====
section
/-! DEFINITION. Operand forms of passage programs: tensor descriptors (R111), the scratchpad and the Basin share as spaces
(R88, R108, R112, R132), rows of elements with their scale and metadata planes (R59), and the region table. -/

namespace Sys2Proof.Machine

/-! ### The Basin share (R131, R132, R135) -/

/-- Bytes of one Basin unit. -/
def unitBytes : Nat := 1572864

/-- Basin units of a service: a reach's share, or unit 0 for twilight (R232). -/
def unitsOf (s : State) (r : SvcId) : List Nat :=
  match reachOf? r with
  | some n => s.reach[n].units
  | none => [0]

/-- Size of a service's share in bytes. -/
def shareSize (s : State) (r : SvcId) : Nat := (unitsOf s r).length * unitBytes

/-- Address in `Basin.mem` of a share offset: bank × 786,432 + row × 128 + byte (R132). -/
def shareAddr (units : List Nat) (x : Nat) : Nat :=
  let line := x / 128
  let banks := 2 * units.length
  let i := line % banks
  (2 * units.getD (i / 2) 0 + i % 2) * 786432 + line / banks * 128 + x % 128

/-- The epoch twilight's barges and Basin unit carry while twilight holds them (assumption 8). -/
def twilightEpoch : Nat := 0xFFFF

/-- The epoch on whose behalf a service's accesses are made. -/
def epochOf (s : State) (r : SvcId) : Nat :=
  match reachOf? r with
  | some n => s.reach[n].epoch
  | none => twilightEpoch

/-- A unit admits an access on behalf of a service: its epoch is not 0 and is the service's (R135). -/
def unitAdmits (s : State) (r : SvcId) (u : Nat) : Bool :=
  match fin? 8 u with
  | some u => s.basin.units[u].epoch != 0 && s.basin.units[u].epoch == epochOf s r
  | none => false

/-- Unit that holds a share offset (R132). -/
def unitAt (units : List Nat) (x : Nat) : Nat := units.getD (x / 128 % (2 * units.length) / 2) 0

/-- Units that hold `n` bytes of a share from an offset. -/
def unitsAt (units : List Nat) (x n : Nat) : List Nat :=
  if n = 0 then [] else ((List.range (min (2 * units.length) ((x % 128 + n + 127) / 128))).map fun i => unitAt units (x + 128 * i)).eraseDups

/-- Units that refuse an access of a service to `n` bytes of its share (R135). -/
def refusingUnits (s : State) (r : SvcId) (x n : Nat) : List Nat := (unitsAt (unitsOf s r) x n).filter fun u => !unitAdmits s r u

def shareByte (s : State) (units : List Nat) (x : Nat) : Byte := memGet s.basin.mem (shareAddr units x)

/-- Bytes of a service's share. -/
def shareGet (s : State) (r : SvcId) (x n : Nat) : Bytes := (List.range n).map fun i => shareByte s (unitsOf s r) (x + i)

/-- Write bytes from a share offset where `ok` admits the offset. -/
def sharePutMem (units : List Nat) (ok : Nat → Bool) : Nat → Bytes → Mem → Mem
  | _, [], m => m
  | x, v :: vs, m => sharePutMem units ok (x + 1) vs (if ok x then memSet m (shareAddr units x) v else m)

/-- Share offset of a byte address of Basin; none where the address lies in no unit of the share (R132). -/
def shareOff? (units : List Nat) (a : Nat) : Option Nat :=
  (units.idxOf? (a / 786432 / 2)).map fun i => ((a % 786432 / 128) * (2 * units.length) + 2 * i + a / 786432 % 2) * 128 + a % 128

/-- Marks of the words that `n` bytes of a share from an offset touch (R134). -/
def shareHits (units : List Nat) (marks : List Nat) (x n : Nat) : List Nat :=
  marks.filter fun m =>
    match shareOff? units (8 * m) with
    | some o => decide (o < x + n) && decide (x < o + 8)
    | none => false

/-- Marks that stay when `n` bytes of a share from an offset are written: a word written whole has good check bits. -/
def shareKept (units : List Nat) (marks : List Nat) (x n : Nat) : List Nat :=
  marks.filter fun m =>
    match shareOff? units (8 * m) with
    | some o => !(decide (x ≤ o) && decide (o + 8 ≤ x + n))
    | none => true

/-- Write bytes into a service's share; a unit that refuses the access writes nothing (R135). -/
def sharePut (s : State) (r : SvcId) (x : Nat) (v : Bytes) : State :=
  let units := unitsOf s r
  let bad := refusingUnits s r x v.length
  s.onBasin fun b =>
    { b with
      mem := sharePutMem units (fun x => decide (unitAt units x ∉ bad)) x v b.mem
      weak := if bad.isEmpty then shareKept units b.weak x v.length else b.weak
      bad := if bad.isEmpty then shareKept units b.bad x v.length else b.bad }

/-- Flights of a service: a reach's, or one for twilight (R232). -/
def flightsOf (s : State) (r : SvcId) : Nat :=
  match reachOf? r with
  | some n => s.reach[n].flights
  | none => 1

/-- Start of the context area: the top 32 KiB × F of the share (R177). -/
def ctxAreaOff (s : State) (r : SvcId) : Nat := shareSize s r - 32768 * flightsOf s r

/-- Offset of the step block of a cycle (R185). -/
def stepBlockOff (s : State) (r : SvcId) (cycle : Nat) : Nat := ctxAreaOff s r - 32768 + 16384 * (cycle % 2)

/-- Offset of the input area (R206). -/
def inputAreaOff (s : State) (r : SvcId) : Nat := ctxAreaOff s r - 32768 - 229376

/-! ### The package of a service -/

def pkgOf (s : State) (r : SvcId) : Option Package :=
  match reachOf? r with
  | some n => s.reach[n].pkg
  | none => s.twPkg

/-- Region `k` of a service's package. -/
def regionOf (s : State) (r : SvcId) (k : Nat) : Option Region := (pkgOf s r).bind fun p => p.regions[k]?

/-! ### Descriptors (R111) -/

structure Desc where
  base : Nat
  scaleBase : Nat
  metaBase : Nat
  space : Nat
  region : Nat
  fmt : Nat
  bs : Bool
  sp : Bool
  part : Bool
  pdepth : Nat
  dim0 : Nat
  dim1 : Nat
  dim2 : Nat
  dim3 : Nat
  stride1 : Nat
  stride2 : Nat
  stride3 : Nat
  org0 : Nat
  org1 : Nat
  org2 : Nat
  org3 : Nat
  deriving DecidableEq, Repr

def spadBytes : Nat := 0x180000
def dataBytes : Nat := 0x160000
def progBase : Nat := 0x160000
def descBase : Nat := 0x178000
def stepBase : Nat := 0x17C000

/-- The descriptor a 64-byte record spells. -/
def descOf (b : Bytes) : Desc :=
  let f := leAt b 12 1
  let t := leAt b 13 1
  { base := leAt b 0 4, scaleBase := leAt b 4 4, metaBase := leAt b 8 4, space := f % 4, region := f / 4,
    fmt := t % 16, bs := bit t 4, sp := bit t 5, part := bit t 6, pdepth := leAt b 14 1 % 8,
    dim0 := leAt b 16 2, dim1 := leAt b 18 2, dim2 := leAt b 20 2, dim3 := leAt b 22 2,
    stride1 := leAt b 24 4, stride2 := leAt b 28 4, stride3 := leAt b 32 4,
    org0 := leAt b 48 2, org1 := leAt b 50 2, org2 := leAt b 52 2, org3 := leAt b 54 2 }

/-- Descriptor `d` of a barge's table. -/
def readDesc (g : Barge) (d : DescId) : Desc := descOf (memBytes g.spad (descBase + 64 * d.val) 64)

/-- Service of a barge: its reach, or twilight. -/
def svcOfBarge (g : Barge) : Option SvcId := fin? 9 g.reach

/-- An access of `n` bytes falls inside its space (R112). -/
def spaceOk (s : State) (g : Barge) (space region a n : Nat) : Bool :=
  match space with
  | 0 => decide (a + n ≤ dataBytes)
  | 1 =>
    match svcOfBarge g with
    | some r => decide (a + n ≤ shareSize s r)
    | none => false
  | 2 =>
    match (svcOfBarge g).bind fun r => regionOf s r region with
    | some rg => decide (a + n ≤ rg.size)
    | none => false
  | _ => false

/-- Marks of the words that `n` bytes from an address touch (R90). -/
def hits (marks : List Nat) (a n : Nat) : List Nat := marks.filter fun m => decide (8 * m < a + n) && decide (a < 8 * m + 8)

/-- Marks that stay when `n` bytes from an address are written. -/
def kept (marks : List Nat) (a n : Nat) : List Nat := marks.filter fun m => !(decide (a ≤ 8 * m) && decide (8 * m + 8 ≤ a + n))

/-- Write bytes to the scratchpad; a word written whole has good check bits (R90). -/
def Barge.write (g : Barge) (a : Nat) (v : Bytes) : Barge :=
  { g with spad := memPut g.spad a v, weak := kept g.weak a v.length, bad := kept g.bad a v.length }

/-- Key of a byte of a memory region among the operands a barge has read. -/
def operandKey (region off : Nat) : Nat := region * 2 ^ 32 + off

/-- Bytes of a space as a barge reads them: its scratchpad, its share, or the operands read from a memory region. -/
def spaceGet (s : State) (g : Barge) (space region a n : Nat) : Bytes :=
  if space = 0 then memBytes g.spad a n
  else if space = 2 then memBytes g.operands (operandKey region a) n
  else
    match svcOfBarge g with
    | some r => shareGet s r a n
    | none => zeros n

/-- A range of bytes in a space. -/
structure Range where
  space : Nat
  region : Nat
  start : Nat
  len : Nat
  deriving DecidableEq, Repr

def Desc.range (d : Desc) (x : Nat × Nat) : Range := { space := d.space, region := d.region, start := x.1, len := x.2 }

/-- A range falls inside its space; a written one lies in no weight region (R112). -/
def rangeOk (s : State) (g : Barge) (write : Bool) (x : Range) : Bool :=
  spaceOk s g x.space x.region x.start x.len
    && !(write && x.space == 2 && ((svcOfBarge g).bind fun r => regionOf s r x.region).any Region.weight)

/-! ### Rows of elements -/

/-- Byte address of a row of the element plane, the origins of dimensions 1 to 3 added. -/
def rowAddr (d : Desc) (i1 i2 i3 : Nat) : Nat :=
  d.base + (d.org1 + i1) * d.stride1 + (d.org2 + i2) * d.stride2 + (d.org3 + i3) * d.stride3

/-- Index of a row in tensor order, for the dense planes. -/
def rowIndex (d : Desc) (i1 i2 i3 : Nat) : Nat :=
  ((d.org3 + i3) * d.dim2 + (d.org2 + i2)) * d.dim1 + (d.org1 + i1)

/-- Codes of `n` fields of `w` bits from a bit position. -/
def unpackBits (w n pos num : Nat) : List Nat := (List.range n).map fun i => bits num (pos + w * i) w

/-- Number with `n` fields replaced by codes from a bit position. -/
def packBits (w : Nat) : (pos : Nat) → List Nat → Nat → Nat
  | _, [], num => num
  | pos, c :: cs, num =>
    packBits w (pos + w) cs (num % 2 ^ pos + c % 2 ^ w * 2 ^ pos + num / 2 ^ (pos + w) * 2 ^ (pos + w))

/-- First byte and number of bytes of `n` elements of `w` bits from element `k` of a row at an address. -/
def rowSpan (w a k n : Nat) : Nat × Nat := (a + w * k / 8, (w * k % 8 + w * n + 7) / 8)

/-- Codes of `n` stored elements from index `k` of a row; none out of bounds. -/
def readCodes (s : State) (g : Barge) (d : Desc) (row k n : Nat) : Option (List Nat) :=
  let w := fmtBits d.fmt
  let (a, len) := rowSpan w row k n
  if spaceOk s g d.space d.region a len then some (unpackBits w n (w * k % 8) (leNat (spaceGet s g d.space d.region a len)))
  else none

/-- Scale codes of the blocks of 32 from block `k` of a row; 127 (a scale of 1.0) where the tensor has none (R64). -/
def readScales (s : State) (g : Barge) (d : Desc) (ri k n : Nat) : Option (List Nat) :=
  if d.bs then
    let a := d.scaleBase + ri * (d.dim0 / 32) + k
    if spaceOk s g d.space d.region a n then some ((spaceGet s g d.space d.region a n).map BitVec.toNat) else none
  else some (List.replicate n 127)

/-- Index words of the groups of four from group `k` of a row (R73). -/
def readMeta (s : State) (g : Barge) (d : Desc) (ri k n : Nat) : Option (List Nat) :=
  let (a, len) := rowSpan 4 (d.metaBase + ri * (d.dim0 / 8)) k n
  if spaceOk s g d.space d.region a len then some (unpackBits 4 n (4 * k % 8) (leNat (spaceGet s g d.space d.region a len)))
  else none

/-- Values of `n` elements from index `k` of a row as the vector unit loads them: converted to FP32, shared scale included
(R58, R60); an FP32 element keeps every bit (R55). -/
def loadLanes (s : State) (g : Barge) (d : Desc) (i1 i2 i3 k n : Nat) : Option (List Word) :=
  (readCodes s g d (rowAddr d i1 i2 i3) k n).bind fun cs =>
    if d.fmt = 0xA then some (cs.map (BitVec.ofNat 32))
    else
      (readScales s g d (rowIndex d i1 i2 i3) (k / 32) ((k + n + 31) / 32 - k / 32)).map fun xs =>
        cs.mapIdx fun i c =>
          let x := xs.getD ((k + i) / 32 - k / 32) 127
          if x = 255 then canonNan else fenc ((elemVal d.fmt d.bs c).scale ((x : Int) - 127))

/-- Ranges of `n` elements from index `k` of a row: its element plane, and its scale and metadata planes (R56, R59, R73). -/
def rowRanges (d : Desc) (i1 i2 i3 k n : Nat) : List Range :=
  let ri := rowIndex d i1 i2 i3
  let row := rowAddr d i1 i2 i3
  if n = 0 then []
  else
    [d.range (if d.sp then rowSpan (fmtBits d.fmt) row (k / 2) ((n + 3) / 4 * 2) else rowSpan (fmtBits d.fmt) row k n)]
      ++ (if d.bs then [d.range (d.scaleBase + ri * (d.dim0 / 32) + k / 32, (k + n + 31) / 32 - k / 32)] else [])
      ++ (if d.sp then [d.range (rowSpan 4 (d.metaBase + ri * (d.dim0 / 8)) (k / 4) ((n + 3) / 4))] else [])

/-! ### Matrix tiles (R63 to R67, R73, R115, R116) -/

/-- A tile row: element values, scale codes of its blocks and, for a sparse operand, index words. -/
structure TileRow where
  vals : List Val
  scales : List Nat
  sparse : Option (List Nat)
  deriving DecidableEq, Repr

/-- Row `i` of a tile over K positions `lo` to `hi − 1`. -/
def readTileRow (s : State) (g : Barge) (d : Desc) (i lo hi : Nat) : Option TileRow :=
  let k := d.org0 + lo
  let n := hi - lo
  let ri := rowIndex d i 0 0
  let row := rowAddr d i 0 0
  (readScales s g d ri (k / 32) ((k + n + 31) / 32 - k / 32)).bind fun xs =>
    if d.sp then
      (readCodes s g d row (k / 2) ((n + 3) / 4 * 2)).bind fun cs =>
        (readMeta s g d ri (k / 4) ((n + 3) / 4)).map fun ms =>
          { vals := cs.map (elemVal d.fmt d.bs), scales := xs, sparse := some ms }
    else
      (readCodes s g d row k n).map fun cs => { vals := cs.map (elemVal d.fmt d.bs), scales := xs, sparse := none }

/-- Rows 0 to n − 1 of a tile. -/
def readTile (s : State) (g : Barge) (d : Desc) (n lo hi : Nat) : Option (List TileRow) :=
  (List.range n).mapM fun i => readTileRow s g d i lo hi

/-- The products of K block `j` of a tile, counted from its first K position. -/
def blockProds (a b : TileRow) (j : Nat) : List Val :=
  let av := (a.vals.drop (32 * j)).take 32
  match b.sparse with
  | none => List.zipWith Val.mul av ((b.vals.drop (32 * j)).take 32)
  | some ms =>
    ((List.range 8).flatMap fun q =>
      let g := 8 * j + q
      match ms[g]? with
      | none => []
      | some w =>
        [(w % 4, 2 * g), (w / 4 % 4, 2 * g + 1)].filterMap fun p =>
          match av[4 * q + p.1]?, b.vals[p.2]? with
          | some x, some y => some (x.mul y)
          | _, _ => none)

/-- Leaves of one output of narrow operands. -/
def narrowLeaves (a b : TileRow) (n : Nat) : List Word :=
  (List.range n).map fun j =>
    let xa := a.scales.getD j 127
    let xb := b.scales.getD j 127
    leafNarrow (blockProds a b j) ((xa : Int) + xb - 254) (xa == 255 || xb == 255)

/-- Leaves of one output of 16-bit operands (R67). -/
def wideLeaves (a b : TileRow) : List Word := List.zipWith (fun x y => fenc (x.mul y)) a.vals b.vals

/-- The origin falls on a block of 32 of a block-scaled tensor, and on a group of `q` of a sparse one (R56, R73). -/
def Desc.onBlock (d : Desc) (q : Nat) : Bool := (!d.bs || d.org0 % 32 == 0) && (!d.sp || d.org0 % q == 0)

/-- Operands of 8 bits or fewer. -/
def isNarrow (fmt : Nat) : Bool := decide (fmt ≤ 7)

/-- The pairings of R51. -/
def pairOk (x y : Nat) : Bool := (isNarrow x && isNarrow y) || (x == 8 && y == 8) || (x == 9 && y == 9)

end Sys2Proof.Machine
end

