-- ==== Sys2Proof/Machine/LinkOps.lean ====
section
/-! DEFINITION. Shared operations of the Aqueduct links: frames and their sealing (R299, R300, R305), exchanges at commit
points (R306) and closing a channel (R301, R307). -/

namespace Sys2Proof.Machine

/-! Frame types (R300). -/
namespace FrameTyp
def zero := 0x00
def data := 0x01
def ctrl := 0x02
def credit := 0x03
def xack := 0x04
def rekey := 0x05
def close := 0x06
def content := 0x07
end FrameTyp

/-- DATA, XACK, REKEY and CLOSE are sealed. -/
def sealedTyp (t : Nat) : Bool := t == 1 || t == 4 || t == 5 || t == 6

/-- A frame of the Meridian channel is sealed in generation 1 (R304). -/
def frameSealed (k : Chan) (t : Nat) : Bool := sealedTyp t || (t == FrameTyp.content && !k.gen2)

/-- DATA, XACK, REKEY, CLOSE and PUBLIC consume a credit (R300). -/
def usesCredit (t : Nat) : Bool := sealedTyp t || t == FrameTyp.content

/-- Channel code of a header: the reach, or 0x0E for Meridian (R299). -/
def chanCode (c : Fin 9) : Nat := if c.val = 8 then 0x0E else c.val

/-- Channel index of a header's code. -/
def chanOfCode (n : Nat) : Option (Fin 9) := if n = 0x0E then some 8 else if n < 8 then fin? 9 n else none

def onChan (l : LinkId) (c : Fin 9) (f : Chan → Chan) (s : State) : State :=
  s.onLink l fun k => { k with chan := upd k.chan c f }

/-- Payload lines of 128 bytes. -/
def linesOf (p : Bytes) : Nat := (p.length + 127) / 128

/-- The header flit (R299). -/
def headerFlit (typ : Nat) (gen2 : Bool) (src dst counter nlines credit seq offset : Nat) : Bytes :=
  leBytes 1 typ ++ [if gen2 then 2 else 1] ++ leBytes 1 src ++ leBytes 1 dst ++ beBytes 12 counter ++ leBytes 1 nlines
    ++ leBytes 1 credit ++ zeros 2 ++ leBytes 4 seq ++ leBytes 4 offset ++ zeros 4

/-- The 32 flits of a window: header, payload lines, trailer of a sealed frame, zero flits (R299). -/
def windowBytes (hdr payload : Bytes) (tag : Option Bytes) : Bytes :=
  padTo 0 1024 (hdr ++ padTo 0 (128 * linesOf payload) payload ++ (match tag with
    | some t => padTo 0 32 t
    | none => []))

/-- Slot of a channel's send key, or its receive key: the reach's range, or slot 5 for a generation 1 Meridian channel
(R248, R304). -/
def chanKeySlot (s : State) (l : LinkId) (c : Fin 9) (recv : Bool) : SlotId :=
  match fin? 8 c.val with
  | some r => keySlot s r (4 + 2 * l.val + b2n recv)
  | none => 5

/-- Owner that a channel acts for. -/
def chanOwner (c : Fin 9) : Nat := if c.val = 8 then 0xE else c.val

/-- COUNTER of a frame: in generation 1 bit 95 the direction and bits [94:64] the session number (R304). -/
def counterOf (k : Chan) (n : Nat) (send : Bool) : Nat :=
  if k.gen2 then n else n % 2 ^ 64 + k.session % 2 ^ 31 * 2 ^ 64 + (if k.responder == send then 2 ^ 95 else 0)

/-- The window of a channel's frame under its present key (R299, R300, R305). -/
def frameWindow (s : State) (l : LinkId) (c : Fin 9) (f : OutFrame) : Bytes :=
  let k := s.link[l].chan[c]
  let n := linesOf f.payload
  let sealed := frameSealed k f.typ
  let ctr := if sealed then counterOf k k.sendCtr true else 0
  let hdr := headerFlit f.typ k.gen2 (chanCode c) k.peer ctr n (min 16 k.owed) f.seq f.offset
  let body := padTo 0 (128 * n) f.payload
  if sealed then
    let key := slotKey s (chanKeySlot s l c false)
    let ct := gcmCtr key (beBytes 12 ctr) body
    windowBytes hdr ct (some (gcmTag key (beBytes 12 ctr) hdr ct))
  else windowBytes hdr body none

/-- A channel's frame has been made: its counter is advanced and owed credits are returned (R300, R305). -/
def frameMade (l : LinkId) (c : Fin 9) (f : OutFrame) (s : State) : State :=
  onChan l c (fun k =>
    { k with owed := k.owed - min 16 k.owed, sendCtr := if frameSealed k f.typ then k.sendCtr + 1 else k.sendCtr }) s

/-- A frame is sent in the channel's window slot. -/
def sendFrame (l : LinkId) (c : Fin 9) (f : OutFrame) (s : State) : State :=
  emit (.window l (frameWindow s l c f)) (frameMade l c f s)

def queueFrame (l : LinkId) (c : Fin 9) (f : OutFrame) (s : State) : State :=
  onChan l c (fun k => { k with sendQ := k.sendQ ++ [f] }) s

/-- The DATA frames of an exchange: 896-byte pieces in OFFSET order (R306). -/
def exchangeFrames (seq : Nat) (d : Bytes) : List OutFrame :=
  (List.range ((d.length + 895) / 896)).map fun i =>
    { typ := FrameTyp.data, seq, offset := 896 * i, payload := (d.drop (896 * i)).take 896 }

/-- EXCHANGE_ORDER at a commit point: the XACK of the previous exchange, then the next exchange, which waits for its turn
(R306). -/
def orderExchange (l : LinkId) (r : ReachId) (s : State) : State :=
  let c : Fin 9 := ⟨r.val, by omega⟩
  let k := s.link[l].chan[c]
  if k.state = .opened ∧ s.link[l].xchg[r].en then
    let n := k.commits
    let s := if 0 < n then queueFrame l c { typ := FrameTyp.xack, seq := n - 1, offset := 0, payload := [] } s else s
    onChan l c (fun k => { k with commits := n + 1, ordered := some n }) s
  else s

def orderExchanges (r : ReachId) (s : State) : State := forAll (idxs 4) (fun l => orderExchange l r) s

/-- The exchanges let reach `r` form a lock cycle: with EN 1 the channel is OPEN, the exchange the cycle reads has been
released, and none waits to be sent (R306, R307). -/
def linkGate (s : State) (r : ReachId) : Bool :=
  (idxs 4).all fun l =>
    let c : Fin 9 := ⟨r.val, by omega⟩
    let k := s.link[l].chan[c]
    let x := s.link[l].xchg[r]
    !x.en || (k.state == .opened && decide (k.commits ≤ x.released) && k.ordered.isNone)

/-- A channel CLOSED: its share stays, its session ends, both key slots of a reach channel are INVALID (R301, R307). CLOSE
windows that wait for a window slot of the channel are still sent. -/
def closeChan (l : LinkId) (c : Fin 9) (s : State) : State :=
  let s := match fin? 8 c.val with
    | some r =>
      if 0 < s.link[l].chan[c].share then
        invalidateSlot (keySlot s r (4 + 2 * l.val)) (invalidateSlot (keySlot s r (5 + 2 * l.val)) s)
      else s
    | none => s
  onChan l c (fun k => { share := k.share, closing := k.closing }) s

/-- A channel CLOSED, and nothing sent (R301). -/
def dropChan (l : LinkId) (c : Fin 9) (s : State) : State := onChan l c (fun k => { share := k.share }) (closeChan l c s)

def closeFrame : OutFrame := { typ := FrameTyp.close, seq := 0, offset := 0, payload := [] }

/-- Seal CLOSE while the send key is still valid, for the channel's next window slot, then close (R297, R301, R307). It waits
for no credit (DESIGN CHOICE, assumption 110). -/
def sendClose (l : LinkId) (c : Fin 9) (s : State) : State :=
  let sealable := slotValid s (chanKeySlot s l c false) && s.link[l].chan[c].state == .opened
    && (s.link[l].ready && (decide (c.val < 8) || !s.link[l].chan[c].gen2))
  let s := if sealable then
      let w := frameWindow s l c closeFrame
      onChan l c (fun k => { k with closing := k.closing ++ [w] }) s
    else s
  closeChan l c s

/-! ### Handshakes that fail (R301) -/

/-- An operator alert of a link: its channel as the reach (R45). -/
def linkAlert (l : LinkId) (c : Fin 9) (cause : Nat) (s : State) : State :=
  alert Code.linkAuthFail AlertUnit.link (54 + l.val) (alertReach (chanOwner c)) l.val cause s

/-- A handshake ends without a session: a failure outside R307, whose alert has cause 0 (R45, R301). -/
def handshakeFailure (l : LinkId) (c : Fin 9) (s : State) : State :=
  linkAlert l c 0 (onChan l c (fun k => { share := k.share, closing := k.closing }) s)

/-- The handshakes of a reach that loses its channels fail: it can pass R303 no more (DEDUCED, assumption 111). -/
def failHandshakes (n : ReachId) (s : State) : State :=
  forAll (idxs 4) (fun l s =>
    let c : Fin 9 := ⟨n.val, by omega⟩
    if s.link[l].chan[c].state = .handshake then handshakeFailure l c s else s) s

end Sys2Proof.Machine
end

