-- ==== Sys2Proof/Machine/RingOps.lean ====
section
/-! DEFINITION. Shared operations of the host rings and of outbound System Port requests (R199, R206 to R212, R217, R218). -/

namespace Sys2Proof.Machine

/-- Queue an outbound request of a service (R217). -/
def sysRequest (r : SvcId) (q : SysReq) (s : State) : State :=
  s.onSys fun y => { y with requests := upd y.requests r (· ++ [q]) }

def ringSize (log2 : Nat) : Nat := 2 ^ log2

/-- Entries between HEAD and TAIL, cyclically (R199). -/
def ringUsed (log2 head tail : Nat) : Nat := (tail + ringSize log2 - head % ringSize log2) % ringSize log2

def Sq.pendingEntries (q : Sq) : Nat := ringUsed q.sizeLog2 q.head q.tail

/-- Bytes of a record (R199). -/
def recSize (gen2 : Bool) : Nat := if gen2 then 32 else 16

/-- Bytes of a descriptor (R199). -/
def descSize (gen2 : Bool) : Nat := if gen2 then 64 else 32

/-- The FLAGS byte of a record (R207). -/
def recFlags (r : Rec) : Nat := b2n r.last + 2 * b2n r.reply + 4 * r.sq.val + 8 * b2n r.stop

/-- Bytes of a record before its final word (R207). -/
def recBody (gen2 : Bool) (r : Rec) : Bytes :=
  leBytes 4 r.tag ++ leBytes 4 (r.token.getD 0xFFFFFFFF) ++ leBytes 2 r.tokIdx ++ leBytes 1 r.status
    ++ leBytes 1 (recFlags r)
    ++ (if gen2 then zeros 4 ++ leBytes 8 r.cycle ++ leBytes 4 r.keeperUs else [])

/-- The final word: PHASE, and in generation 1 the SQ_HEAD of the ring named by SQ (R207). -/
def recFinal (gen2 phase : Bool) (sqHead : Nat) : Bytes :=
  if gen2 then leBytes 4 (b2n phase) else leBytes 2 sqHead ++ [0, if phase then 1 else 0]

/-- The records of the group being written: up to the first that ends a group (R211). -/
def groupOf : List Rec → List Rec
  | [] => []
  | r :: l => if r.groupEnd then [r] else r :: groupOf l

/-- A record's token is still to be written. -/
def tokenDue (r : Rec) : Bool := r.token.isSome && !r.tokDone

/-- Mark the first record whose token is due as done. -/
def markToken : List Rec → List Rec
  | [] => []
  | r :: l => if tokenDue r then { r with tokDone := true } :: l else r :: markToken l

def Cq.full (c : Cq) : Bool := decide (ringSize c.sizeLog2 - 1 ≤ ringUsed c.sizeLog2 c.head c.tail)

/-- Start the next write of the record at the front: first every token of its group, then its body (R182, R208). Nothing
starts while the CQ is not ENABLED or is full (R210). -/
def pumpCq (r : SvcId) (s : State) : State :=
  let c := s.ring[r].cq
  if c.state ≠ .enabled || c.writing || c.stage ≠ .start || c.full then s
  else
    match c.recs with
    | [] => s
    | x :: _ =>
      match (groupOf c.recs).find? tokenDue with
      | some t =>
        sysRequest r
          { kind := .wr, addr := t.outAddr + 4 * t.tokIdx, len := 4, data := leBytes 4 (t.token.getD 0), use := .record r }
          (s.onRing r fun b => { b with cq := { b.cq with stage := .token, writing := true } })
      | none =>
        let d := recBody c.gen2 x
        sysRequest r { kind := .wr, addr := c.base + recSize c.gen2 * c.tail, len := d.length, data := d, use := .record r }
          (s.onRing r fun b => { b with cq := { b.cq with stage := .first, writing := true } })

/-- A write of the record at the front has been acknowledged (R208). -/
def recordAcked (r : SvcId) (s : State) : State :=
  let c := s.ring[r].cq
  match c.stage with
  | .token =>
    pumpCq r (s.onRing r fun b => { b with cq := { b.cq with stage := .start, writing := false, recs := markToken b.cq.recs } })
  | .first =>
    match c.recs with
    | [] => s
    | x :: _ =>
      let d := recFinal c.gen2 c.phase s.ring[r].sq[x.sq].head
      sysRequest r
        { kind := .wr, addr := c.base + recSize c.gen2 * c.tail + (recBody c.gen2 x).length, len := 4, data := d,
          use := .record r }
        (s.onRing r fun b => { b with cq := { b.cq with stage := .final } })
  | .final => s.onRing r fun b => { b with cq := { b.cq with stage := .written, writing := false } }
  | _ => s

/-- Interrupt source of a service's CQ (R219, R234). -/
def cqSource (r : SvcId) : Fin 16 := if h : r.val < 8 then ⟨r.val, by omega⟩ else 0

/-- A ring enters FAULTED: interrupt source 8 and an operator alert (R212, R218). -/
def ringFaultAlert (r : SvcId) (s : State) : State :=
  raiseIrq 8 (alert Code.hostDmaFail AlertUnit.system 58 (alertReach r.val) 0xFFFF 0 s)

def sqFault (r : SvcId) (q : Fin 2) (s : State) : State :=
  ringFaultAlert r (s.onRing r fun b =>
    { b with sq := upd b.sq q fun x => { x with state := .faulted, fetching := false, line := none } })

/-- The record whose writes had begun has its token written again before it (R218). -/
def retoken (c : Cq) : List Rec :=
  match c.stage, c.recs with
  | .token, l => l
  | _, [] => []
  | _, x :: l => { x with tokDone := false } :: l

/-- Fetches that have not been issued wait while the CQ is not ENABLED (R204). -/
def holdFetches (r : SvcId) (s : State) : State :=
  let queued : Fin 2 → Bool := fun q => s.sys.requests[r].any fun x => x.use == .fetch r q
  (s.onRing r fun b => { b with sq := vmapIdx (fun q x => if queued q then { x with fetching := false } else x) b.sq }).onSys
    fun y => { y with requests := upd y.requests r (·.filter fun x => !(x.use == .fetch r 0 || x.use == .fetch r 1)) }

/-- The CQ faults: its records are held, and the token of the one being written is written again before it. -/
def cqFault (r : SvcId) (s : State) : State :=
  ringFaultAlert r ((holdFetches r s).onRing r fun b =>
    { b with cq := { b.cq with
        state := .faulted, stage := .start, writing := false, recs := retoken b.cq } })

/-- Post the records of one group; the last ends it (R211). -/
def postGroup (r : SvcId) (l : List Rec) (s : State) : State :=
  match l.reverse with
  | [] => s
  | x :: pre =>
    pumpCq r (s.onRing r fun b =>
      { b with cq := { b.cq with recs := b.cq.recs ++ (pre.map fun y => { y with groupEnd := false }).reverse
          ++ [{ x with groupEnd := true }] } })

/-- Post each record as a group of its own. -/
def postEach (r : SvcId) (l : List Rec) (s : State) : State := forAll l (fun x => postGroup r [x]) s

/-- The ring registers take their reset values, held records and waiting requests of the rings discarded (R212). -/
def resetRings (r : SvcId) (s : State) : State :=
  { s with
    ring := put s.ring r {}
    sys := { s.sys with
      requests := put s.sys.requests r []
      txns := s.sys.txns.map fun t => if t.owner == r.val then { t with discard := true } else t } }

/-- Fetch the next line of a submission ring when every descriptor fetched has been taken and it holds more (R204); so a fetch
that fails leaves HEAD at the failed descriptor (R212). -/
def pumpSq (r : SvcId) (q : Fin 2) (s : State) : State :=
  let x := s.ring[r].sq[q]
  let c := s.ring[r].cq
  if x.state ≠ .enabled || c.state ≠ .enabled || x.fetching || x.line.isSome
      || !x.fetched.isEmpty || x.pendingEntries == 0 then s
  else
    let i := x.head % ringSize x.sizeLog2
    let a := (x.base + descSize x.gen2 * i) / 64 * 64
    let perLine := if x.gen2 then 1 else 2 - i % 2
    let want := min perLine x.pendingEntries
    sysRequest r { kind := .rd, addr := a, len := 64, use := .fetch r q }
      (s.onRing r fun b => { b with sq := upd b.sq q fun y => { y with fetching := true, lineWant := want } })

end Sys2Proof.Machine
end

