-- ==== Sys2Proof/Machine/TwpOps.lean ====
section
/-! DEFINITION. Shared operations of Towpath (R346 to R353): posting and taking a message, its doorbells and interrupt, and the
bindings of a start. -/

namespace Sys2Proof.Machine

/-- Master identities a binding may name (R346). -/
def twpMaster (mid : Nat) : Bool := mid == 0 || mid == 1 || (decide (3 ≤ mid) && decide (mid ≤ 12))

def onTwpChan (c : ChanId) (f : TwpChan → TwpChan) (s : State) : State :=
  s.onTwp fun t => { t with chan := upd t.chan c f }

def onEndpoint (e : Nat) (f : Endpoint → Endpoint) (s : State) : State :=
  match fin? 13 e with
  | some e => s.onTwp fun t => { t with ep := upd t.ep e f }
  | none => s

/-- The Towpath interrupt of an endpoint (R351). -/
def Endpoint.irq (e : Endpoint) : Bool :=
  (idxs 32).any fun c => (e.db[c] && e.dbMask.getLsbD c.val) || (e.empty[c] && e.emptyMask.getLsbD c.val)

/-- Endpoints 0x00 and 0x01 set interrupt source 11 when their interrupt is asserted (R351). -/
def twpIrq (e : Nat) (s : State) : State :=
  match fin? 13 e with
  | some i => if e ≤ 1 && s.twp.ep[i].irq then raiseIrq 11 s else s
  | none => s

/-- SEND: the channel becomes FULL and the receiver's doorbell bit is set (R349). -/
def postMsg (c : ChanId) (s : State) : State :=
  let r := s.twp.chan[c].receiver
  twpIrq r (onEndpoint r (fun e => { e with db := put e.db c true }) (onTwpChan c (fun x => { x with state := .full }) s))

/-- TAKEN: the words become zero, the channel EMPTY and the sender's EMPTY bit is set (R349). -/
def takeMsg (c : ChanId) (s : State) : State :=
  let x := s.twp.chan[c].sender
  twpIrq x (onEndpoint x (fun e => { e with empty := put e.empty c true })
    (onTwpChan c (fun x => { x with state := .empty, words := Vector.replicate 16 0 }) s))

/-- A bound channel is emptied by a Dredge or tamper (R353). -/
def clearChannel (c : ChanId) (s : State) : State :=
  if s.twp.chan[c].state = .unbound then s
  else
    let r := s.twp.chan[c].receiver
    onEndpoint r (fun e => { e with db := put e.db c false }) (takeMsg c s)

/-- Bind a channel. -/
def bindChan (c : ChanId) (sender receiver : Nat) (s : State) : State :=
  onTwpChan c (fun x => { x with state := .empty, sender, receiver, valid := true }) s

/-- The bindings Meridian writes at a start, then LOCK (R347). -/
def bindAll (s : State) : State :=
  let s := bindChan 3 12 0 (bindChan 2 0 12 (bindChan 1 3 1 (bindChan 0 1 3 s)))
  let s := forAll (idxs 8) (fun n s =>
    bindChan ⟨16 + n.val, by omega⟩ 3 (4 + n.val) (bindChan ⟨8 + n.val, by omega⟩ (4 + n.val) 3 s)) s
  s.onTwp fun t => { t with lock := true }

/-- The bindings of Drydock, then LOCK (R347). -/
def bindDrydock (s : State) : State := (bindChan 1 3 1 (bindChan 0 1 3 s)).onTwp fun t => { t with lock := true }

/-- Words that channel 3 carries for Sluice when it is EMPTY (R374). -/
def msgWords (l : List Word) : Vector Word 16 := tab 16 fun i => l.getD i.val 0

end Sys2Proof.Machine
end

