-- ==== Sys2Proof/Machine/DredgeOps.lean ====
section
/-! DEFINITION. Shared operations of a Dredge (R104, R105, R161, R170 to R173): what stops and is discarded when one starts,
and what it leaves cleared. What follows a finished Dredge stands in BargeOps. Also the trace buffer (R377, R381) and the
clearing of Chronograph counters (R405). -/

namespace Sys2Proof.Machine

/-! ### Trace (R377, R381, R392) -/

/-- Add an entry to the trace buffer. The arrival cycle and VALUE are open values (assumption 11). -/
def traceEntry (kind reach logical : Nat) (s : State) : State :=
  if s.eye.freeze then s
  else
    let w := Config.freeWord s.freeCtr
    let v := Config.freeWord (s.freeCtr + 1)
    let e := BitVec.ofNat 64
      (kind * 2 ^ 60 + reach % 16 * 2 ^ 56 + logical % 64 * 2 ^ 50 + v.toNat % 2 ^ 26 * 2 ^ 24 + w.toNat % 2 ^ 24)
    { s with
      freeCtr := s.freeCtr + 2
      eye := { s.eye with trace := (e :: s.eye.trace).take 2048, traceCount := (s.eye.traceCount + 1) % 2 ^ 32 } }

/-- A trace entry of a reach: kept while REACH_EN selects it and its level is OBSERVE or OPEN. -/
def traceReach (kind : Nat) (r : SvcId) (logical : Nat) (s : State) : State :=
  match reachOf? r with
  | none => s
  | some n => if s.eye.reachEn.getLsbD n.val && s.reach[n].debug != .closed then traceEntry kind n.val logical s else s

/-! ### Chronograph counters cleared (R405) -/

def ProgCtr.clear (c : ProgCtr) : ProgCtr := { c with value := 0, ovf := false }

/-- Cycle and programmable counters of a barge (unit b) or keeper core (unit 59 + n). -/
def clearUnitCounters (u : Nat) (s : State) : State :=
  onUnit u (fun x => { x with cycles := 0, cyclesOvf := false, partialWin := true, prog := vmap ProgCtr.clear x.prog }) s

/-- The four counters of Basin unit `u`. -/
def clearBasinCounters (u : Nat) (s : State) : State :=
  onUnit (34 + u / 2) (fun x => { x with prog := vmapIdx (fun i c => if i.val / 4 = u % 2 then c.clear else c) x.prog }) s

/-- Programmable counters of ports, links and the system island that name a reach; at EMPTY their configuration too. -/
def clearReachCounters (n : ReachId) (toReset : Bool) (s : State) : State :=
  let one : ProgCtr → ProgCtr := fun c => if c.reach = n.val then (if toReset then {} else c.clear) else c
  let f : Fin 71 → ChrUnit → ChrUnit := fun u x =>
    if 38 ≤ u.val ∧ u.val ≤ 58 then { x with prog := vmap one x.prog } else x
  { s with chr := { s.chr with unit := vmapIdx f s.chr.unit } }

/-! ### Power state and notices (R369, R374) -/

/-- The power state as reported: DOZE while every SEALED reach dozes (R369). -/
def powerState (s : State) : PState :=
  if s.slu.state = .keep ∨ s.slu.state = .off then s.slu.state
  else
    let sealedR := (idxs 8).filter fun n => s.reach[n].state == .sealed
    let busy := (idxs 8).any fun n =>
      s.reach[n].state == .loading || s.reach[n].state == .draining || s.reach[n].state == .dredging
    if s.mer.phase == .full && !sealedR.isEmpty && !busy && sealedR.all fun n => s.slu.reach[n].dozing then .doze
    else if s.slu.trimOn then .trim else .run

/-- Perform a change of Sluice's state: a change of STATE, PLATFORM or PSTEP leaves one notice with the latest value (R374). -/
def withNotice (f : State → State) (s : State) : State :=
  let t := f s
  if powerState t = powerState s ∧ t.slu.platform = s.slu.platform ∧ t.slu.pstep = s.slu.pstep then t
  else t.onSlu fun u => { u with noticeState := true }

/-- Write a reach's state; source 10 when it changes (R219). -/
def setReachState (n : ReachId) (st : RState) (s : State) : State :=
  if s.reach[n].state = st then s
  else traceReach 4 (svcOf n) 0x3F (raiseIrq 10 (withNotice (fun s => s.onReach n fun x => { x with state := st }) s))

/-- An epoch held by a reach, a barge or a Basin unit (R173). -/
def epochHeld (s : State) (e : Nat) : Bool :=
  (s.reach.toList.any fun x => x.epoch == e) || (s.barge.toList.any fun x => x.epoch == e)
    || (s.basin.units.toList.any fun x => x.epoch == e)

/-- The counter's next value, skipping 0 and held values; at most 50 are held. -/
def advanceEpoch (s : State) : Nat → Nat → Nat
  | 0, e => e
  | f + 1, e =>
    let n := if e + 1 = 65536 then 1 else e + 1
    if epochHeld s n then advanceEpoch s f n else n

/-- Give a reach a new epoch (R173). -/
def newEpoch (n : ReachId) (s : State) : State :=
  let t := s.onReach n fun x => { x with epoch := s.epochCtr }
  { t with epochCtr := advanceEpoch t 64 s.epochCtr }

/-! ### Barges -/

/-- Insert a barge by its logical index. -/
def insertByLogical (s : State) (b : BargeId) : List BargeId → List BargeId
  | [] => [b]
  | c :: l => if s.barge[b].logical ≤ s.barge[c].logical then b :: c :: l else c :: insertByLogical s b l

/-- The physical barges behind a service's logical barges, in logical order (R97). -/
def liveBarges (s : State) (r : SvcId) : List BargeId :=
  ((idxs 34).filter fun b =>
    let g := s.barge[b]
    (g.role == .active || g.role == .twilight) && g.reach == r.val && !g.migDest).foldr (insertByLogical s) []

def liveCount (s : State) (r : SvcId) : Nat := (liveBarges s r).length

/-- The physical barge behind a logical index of a service. -/
def bargeAt (s : State) (r : SvcId) (logical : Nat) : Option BargeId :=
  (liveBarges s r).find? fun b => s.barge[b].logical == logical

/-- Every barge that carries a service's reach code, migration destinations included. -/
def bargesOf (s : State) (r : SvcId) : List BargeId :=
  (idxs 34).filter fun b => s.barge[b].reach == r.val && (s.barge[b].role == .active || s.barge[b].role == .twilight)

/-- The barge that a request serves. -/
def MemUse.barge : MemUse → Option BargeId
  | .move b _ _ => some b
  | .operand b _ _ => some b
  | .store b _ => some b
  | _ => none

/-- Requests that wait behind a full ingress queue enter it while it has room (R138). -/
def refillQueue (r : SvcId) (p : Port) : Port :=
  let room := 16 - p.queue[r].length
  { p with queue := upd p.queue r (· ++ p.backlog[r].take room), backlog := upd p.backlog r (·.drop room) }

/-- Keep of a port's queues the requests that `keep` names. -/
def filterQueues (keep : MemReq → Bool) (p : Port) : Port :=
  (idxs 9).foldl (fun p r => refillQueue r p)
    { p with queue := vmap (·.filter keep) p.queue, backlog := vmap (·.filter keep) p.backlog }

/-- Requests of a barge leave the ingress queues; those issued complete for nobody. -/
def dropBargeRequests (b : BargeId) (s : State) : State :=
  { s with port := vmap (fun p =>
      { filterQueues (fun q => q.use.barge != some b) p with
        txns := discardTxns (fun t => t.req.use.barge == some b) p.txns }) s.port }

/-- A Dredge of a barge begins: it stops, its epoch is 0 (R104, R105). -/
def startBargeDredge (b : BargeId) (next : AfterDredge) (s : State) : State :=
  dropBargeRequests b (s.onBarge b fun g =>
    { g with
      dredging := true, afterDredge := next, epoch := 0, cleared := false, run := .idle, held := none, moves := []
      operands := [], operandsIn := false, abortDue := false })

/-- A step abort is sent to a barge: it is to be Dredged and run RESUME. Until the abort reaches it, at the latest when its
Dredge has run, a fault of its own and errors of its requests are those of the step (R96). -/
def abortBarge (b : BargeId) (s : State) : State :=
  s.onBarge b fun g => { g with dredging := true, afterDredge := .resume, abortDue := true }

/-- What a Dredge leaves of a barge: role, place, microcode, fault and error registers (R105). -/
def Barge.dredged (g : Barge) : Barge :=
  { role := g.role, mcodeVersion := g.mcodeVersion, mcodeLoaded := g.mcodeLoaded, mcode := g.mcode,
    migrating := g.migrating,
    partner := g.partner, migDest := g.migDest, reach := g.reach, logical := g.logical, faultCause := g.faultCause,
    faultCount := g.faultCount, corrected := g.corrected, uncorrected := g.uncorrected, nextMove := g.nextMove,
    spareSince := g.spareSince }

/-- The clear of R105 has run. -/
def clearBarge (b : BargeId) (s : State) : State :=
  clearUnitCounters b.val ((if s.barge[b].abortDue then dropBargeRequests b s else s).onBarge b Barge.dredged)

/-- A migration that was asked for a barge and has not begun is not made; the barge stays first in line (R398). -/
def dropAsk (b : BargeId) (s : State) : State :=
  s.onCol fun c => if c.asked = some b then { c with asked := none, first := some b } else c

/-- Enter SPARE (R81). -/
def enterSpare (b : BargeId) (s : State) : State :=
  let s := dropAsk b s
  let t := s.onBarge b fun g =>
    { g with
      role := .spare, reach := 0xF, logical := 0x3F, epoch := 0, migrating := false, partner := none, migDest := false,
      spareSince := s.spareClock }
  { t with spareClock := t.spareClock + 1 }

/-! ### Basin units -/

/-- A unit's bytes and epoch after its Dredge (R161). -/
def clearUnit (u : Nat) (s : State) : State :=
  match fin? 8 u with
  | none => s
  | some v =>
    clearBasinCounters u (s.onBasin fun b =>
      { b with
        units := upd b.units v fun x => { x with epoch := 0, cleared := true }
        mem := memClear b.mem (u * unitBytes) unitBytes
        weak := b.weak.filter fun m => 8 * m / unitBytes != u
        bad := b.bad.filter fun m => 8 * m / unitBytes != u })

def setUnitEpoch (u : Nat) (e : Nat) (s : State) : State :=
  match fin? 8 u with
  | none => s
  | some v => s.onBasin fun b => { b with units := upd b.units v fun x => { x with epoch := e, cleared := false } }

def setUnitOwner (u : Nat) (o : Nat) (s : State) : State :=
  match fin? 8 u with
  | none => s
  | some v => s.onBasin fun b => { b with units := upd b.units v fun x => { x with owner := o } }

/-! ### Ports, keeper core, sessions -/

/-- Ingress queues and tag lines of a service are cleared and its outstanding responses are discarded on arrival (R151,
R160, R161). -/
def discardPorts (r : SvcId) (s : State) : State :=
  { s with port := vmap (fun p =>
      { p with
        queue := put p.queue r [], backlog := put p.backlog r []
        tagLines := p.tagLines.filter fun t => t.svc != r
        txns := discardTxns (fun t => t.svc == r) p.txns }) s.port }

/-- What a Dredge leaves of a keeper core: its timer (R171, R189), and the substitutions that Meridian still owes (R96). -/
def Keeper.dredged (core : CoreState) (k : Keeper) : Keeper :=
  { core, timeCus := k.timeCus, nowCus := k.nowCus, lastTick := k.lastTick, lost := k.lost, istore := k.istore }

/-- Chronograph unit of a service's keeper core; twilight runs on core 0. -/
def keeperUnit (r : SvcId) : Nat := if r.val < 8 then 59 + r.val else 59

/-- Records of a service free no context any more: the contexts went with the keeper core's data memory (R172, R177). -/
def keepContexts (r : SvcId) (s : State) : State :=
  s.onRing r fun b => { b with cq := { b.cq with recs := b.cq.recs.map fun x => { x with frees := none } } }

/-- Staging and chunk requests of a service stop; record writes go on. -/
def dropInputRequests (r : SvcId) (s : State) : State :=
  let inp : SysUse → Bool := fun u =>
    match u with
    | .stage _ _ _ => true
    | .chunk _ => true
    | _ => false
  s.onSys fun y =>
    { y with
      requests := upd y.requests r (·.filter fun q => !inp q.use)
      txns := y.txns.map fun t => if t.owner == r.val && inp t.req.use then { t with discard := true } else t }

/-- SPDM sessions to a reach end with their slots (R258, R292). -/
def endReachSessions (n : ReachId) (s : State) : State :=
  s.onSpdm fun x =>
    { x with
      sessions := vmap (fun (c : Option Session) => match c with
        | some y => if y.target = n.val then none else some y
        | none => none) x.sessions
      hold := if x.hold.any fun h => h.2 == n.val then none else x.hold }

/-- Service that an entry in flight serves: that of the barge it travels to, or the keeper core it names. -/
def Msg.svc (s : State) : Msg → Nat
  | .stepToken d _ _ => s.barge[d].reach
  | .stepDone _ v => v
  | .refusal _ v => v
  | .token _ d _ _ => s.barge[d].reach
  | .credit _ d _ _ => s.barge[d].reach
  | .fill _ d _ _ _ => s.barge[d].reach

/-- Entries of a service leave the crossings (R24, R96, R171). -/
def dropFlight (r : SvcId) (s : State) : State := { s with flight := s.flight.filter fun m => m.svc s != r.val }

/-- A migration of a reach's barges stops (R102): MIGRATING becomes 0, the source stays first in line for the next pick. -/
def stopMigrations (r : SvcId) (s : State) : State :=
  let src := (bargesOf s r).find? fun b => s.barge[b].migrating && !s.barge[b].migDest
  let s := forAll (bargesOf s r) (fun b s => s.onBarge b fun g => { g with migrating := false, partner := none }) s
  match src with
  | some b => s.onCol fun c => { c with asked := none, first := some b }
  | none => s

/-- The Dredge of a reach begins (R171): no new lock cycle, links closed, keys invalidated as its scope gives (R258),
responses discarded, barges, units and keeper memory clearing. -/
def beginDredge (n : ReachId) (kind : DredgeKind) (s : State) : State :=
  let r := svcOf n
  let c : Fin 9 := ⟨n.val, by omega⟩
  let s := forAll (idxs 4) (fun l s =>
    if kind = .tamper then dropChan l c s else if s.link[l].chan[c].state = .opened then sendClose l c s else s) s
  let s := match kind with
    | .full => endReachSessions n (invalidateOwnerSlots n.val s)
    | .forOpen => endReachSessions n (invalidateOwnerSlots n.val s)
    | .tamper => endReachSessions n (invalidateOwnerSlots n.val s)
    | _ => expireOwnerSlots n.val s
  let s := clearChannel ⟨16 + n.val, by omega⟩ (clearChannel ⟨8 + n.val, by omega⟩ s)
  let s := stopMigrations r s
  let s := forAll (bargesOf s r) (fun b => startBargeDredge b .stay) s
  let s := dropInputRequests r (discardPorts r s)
  let s := clearUnitCounters (keeperUnit r) (keepContexts r (s.onKeeper r (Keeper.dredged .halted)))
  let s := clearReachCounters n false s
  let s := dropFlight r s
  let s := s.onReach n fun x => { x with dredge := kind, initPending := false, restage := false, initRec := none, pkg := none }
  match kind with
  | .failedLoad => s
  | .forOpen => if s.reach[n].state = .loading then s else setReachState n .dredging s
  | _ => setReachState n .dredging s

end Sys2Proof.Machine
end

