-- ==== Sys2Proof/Machine/MoveOps.lean ====
section
/-! DEFINITION. Moves through memory as requests in the ports' queues (R119, R138, R139, R140, R153). -/

namespace Sys2Proof.Machine

/-- A piece of a move: source byte offset, length, destination byte offset. -/
abbrev MovePiece := Nat × Nat × Nat

/-- Port of a memory address. -/
def portOf (addr : Nat) : PortId := Fin.ofNat 16 (addr / 256)

/-- A request enters the ingress queue of its service at its port, or waits behind a full one (R138). -/
def memEnqueue (r : SvcId) (q : MemReq) (s : State) : State :=
  s.onPort (portOf q.addr) fun p =>
    if p.queue[r].length < 16 ∧ p.backlog[r].isEmpty then { p with queue := upd p.queue r (· ++ [q]) }
    else { p with backlog := upd p.backlog r (· ++ [q]) }

/-- Cut a piece at lines of `w` bytes. -/
def cutLines (w : Nat) : Nat → MovePiece → List MovePiece
  | 0, _ => []
  | f + 1, (a, n, d) =>
    if n = 0 then []
    else
      let k := min n (w - a % w)
      (a, k, d) :: cutLines w f (a + k, n - k, d + k)

/-- Lines of `w` bytes that pieces touch, each once, in order. -/
def linesTouched (w : Nat) (ps : List MovePiece) : List Nat := (ps.map fun p => p.1 / w).eraseDups

/-- Reads of pieces of a region: whole 256-byte blocks of a weight region, 128-byte lines of another. -/
def regionReads (use : List (Nat × Nat × Nat) → MemUse) (k : Nat) (rg : Region) (ps : List MovePiece) : List MemReq :=
  let cuts := (ps.map fun p => (rg.base + p.1, p.2.1, p.2.2)).flatMap fun p => cutLines 128 (p.2.1 / 128 + 2) p
  let one : Nat → Option Nat → MemReq := fun line block =>
    { kind := .rd, addr := 128 * line, block, region := k,
      use := use ((cuts.filter fun p => p.1 / 128 == line).map fun p => (p.1 % 128, p.2.1, p.2.2)) }
  if rg.weight then
    (linesTouched 256 cuts).flatMap fun g =>
      [one (2 * g) (some ((256 * g - rg.base) / 256)), one (2 * g + 1) (some ((256 * g - rg.base) / 256))]
  else (linesTouched 128 cuts).map fun l => one l none

/-- Reads of a move. -/
def moveReads (b : BargeId) (id : Nat) (k : Nat) (rg : Region) (ps : List MovePiece) : List MemReq :=
  regionReads (.move b id) k rg ps

/-- The full 64-byte line of a write: covered bytes, and open values where the move covers none (R140). -/
def lineData (free : Nat) (cuts : List (Nat × Bytes)) : Bytes :=
  let base := (List.range 64).map fun i => BitVec.ofNat 8 (Config.freeWord (free + i)).toNat
  let covered := total (cuts.map fun c => c.2.length)
  let base := if covered = 64 then zeros 64 else base
  cuts.foldl (fun d c => d.take c.1 ++ c.2 ++ d.drop (c.1 + c.2.length)) base

/-- Lines of 64 bytes that chunks (offset in the region, bytes) touch. -/
def chunkCuts (rg : Region) (cs : List (Nat × Bytes)) : List (Nat × Bytes) :=
  cs.flatMap fun c => (cutLines 64 (c.2.length / 64 + 2) (rg.base + c.1, c.2.length, 0)).map fun p => (p.1, slice c.2 p.2.2 p.2.1)

/-- Writes of chunks to a read-write region: lines of 64 bytes. -/
def regionWrites (free : Nat) (b : BargeId) (id k : Nat) (rg : Region) (cs : List (Nat × Bytes)) : List MemReq :=
  let cuts := chunkCuts rg cs
  ((cuts.map fun c => c.1 / 64).eraseDups).mapIdx fun i l =>
    { kind := .wr, addr := 64 * l, region := k, use := .store b id
      data := lineData (free + 64 * i) ((cuts.filter fun c => c.1 / 64 == l).map fun c => (c.1 % 64, c.2)) }

/-- A move through memory begins: its requests enter the queues; it completes when the last has (R113, R119). -/
def startMove (b : BargeId) (r : SvcId) (reqs : Nat → List MemReq) (writes : List (Nat × Nat)) (tok : Option (Fin 16))
    (s : State) : State :=
  let id := s.barge[b].nextMove
  let l := reqs id
  let s := s.onBarge b fun g =>
    { g with nextMove := id + 1, moves := g.moves ++ [{ id, left := l.length, writes, tok }] }
  forAll l (memEnqueue r) s

/-! ### Writing rows -/

/-- Write chunks to a read-write memory region. -/
def storeMem (b : BargeId) (region : Nat) (cs : List (Nat × Bytes)) (tok : Option (Fin 16)) (s : State) : State :=
  match svcOfBarge s.barge[b] with
  | none => s
  | some r =>
    match regionOf s r region with
    | none => s
    | some rg =>
      let n := ((chunkCuts rg cs).map fun c => c.1 / 64).eraseDups.length
      let t := startMove b r (fun id => regionWrites s.freeCtr b id region rg cs) [] tok s
      { t with freeCtr := t.freeCtr + 64 * n }

/-- Write bytes to a barge's scratchpad, its share or a memory region. -/
def spacePut (s : State) (b : BargeId) (space region a : Nat) (v : Bytes) : State :=
  if space = 0 then s.onBarge b fun g => g.write a v
  else if space = 2 then storeMem b region [(a, v)] none s
  else
    match svcOfBarge s.barge[b] with
    | some r => sharePut s r a v
    | none => s

/-- What stands where a row is to be written, for the bits of its first and last byte that the row leaves: in a memory region
they are open values, since a write carries whole lines (R140). -/
def spaceOld (s : State) (b : BargeId) (space region a n : Nat) : Bytes × State :=
  if space = 2 then
    ((List.range n).map (fun i => BitVec.ofNat 8 (Config.freeWord (s.freeCtr + i)).toNat), { s with freeCtr := s.freeCtr + n })
  else (spaceGet s s.barge[b] space region a n, s)

/-- Write fields of `w` bits from field `k` of a row at an address. -/
def putFields (s : State) (b : BargeId) (d : Desc) (w row k : Nat) (cs : List Nat) : Option State :=
  let (a, len) := rowSpan w row k cs.length
  if rangeOk s s.barge[b] true (d.range (a, len)) then
    let (old, s) := spaceOld s b d.space d.region a len
    some (spacePut s b d.space d.region a (leBytes len (packBits w (w * k % 8) cs (leNat old))))
  else none

/-- Write codes into a row of the element plane. -/
def putCodes (s : State) (b : BargeId) (d : Desc) (row k : Nat) (cs : List Nat) : Option State :=
  putFields s b d (fmtBits d.fmt) row k cs

/-- Write FP32 words into a row. -/
def putWords (s : State) (b : BargeId) (d : Desc) (row k : Nat) (ws : List Word) : Option State :=
  putCodes s b d row k (ws.map BitVec.toNat)

end Sys2Proof.Machine
end

