-- ==== Sys2Proof/Machine/KeeperOps.lean ====
section
/-! DEFINITION. Shared operations of the keeper cores (R176 to R197): keeper time, requests and their ends, deadlines, tolls,
formation, program entries, staging, the commit point and the error end of a step. -/

namespace Sys2Proof.Machine

/-! ### Keeper time (R17, R189) -/

/-- Keeper time after `kc` keeper cycles of the window in progress; it never decreases and never passes the window's end. -/
def keeperNow (s : State) (r : SvcId) (kc : Nat) : Nat :=
  let i := s.isl[59]
  let d := if i.calValid then kc * 4096 / i.cycles else kc * 100 / i.freqMhz
  max s.keeper[r].nowCus (s.keeper[r].timeCus + min 4096 d)

/-- Advance a keeper core's time. -/
def tick (r : SvcId) (kc : Nat) (s : State) : State :=
  s.onKeeper r fun k => { k with nowCus := keeperNow s r kc }

/-- Keeper microseconds. -/
def Keeper.us (k : Keeper) : Nat := k.nowCus / 100

/-! ### Requests -/

/-- Patches of a request. -/
def Req.patches (q : Req) : Nat := q.patchRows * q.patchCols

/-- Prefill positions of a request. -/
def Req.prompt (q : Req) : Nat := q.patches + q.nPrompt

def Req.live (q : Req) : Bool := q.state != .ended

/-- The deadline of a request has passed (R189). -/
def Req.passed (q : Req) (now : Nat) : Bool := q.deadlineUs != 0 && decide (q.acceptCus + q.deadlineUs * 100 ≤ now)

/-- A record of a request that carries no token (R207). -/
def plainRec (k : Keeper) (q : Req) (status : Nat) (last : Bool) : Rec :=
  { tag := q.tag, token := none, tokIdx := 0xFFFF, status, last, reply := false, sq := q.sq, stop := false, cycle := k.cycle,
    keeperUs := k.us, outAddr := q.outAddr, groupEnd := true, frees := if last then some q.ctx else none }

/-- A record of a lock cycle (R182, R183). -/
def Rec.inCycle (x : Rec) : Rec := { x with ofCycle := true }

/-- A reply or a rejection, for a descriptor that holds no context (R205). -/
def replyRec (k : Keeper) (tag status : Nat) (sq : Fin 2) (reply : Bool) : Rec :=
  { tag, token := none, tokIdx := 0xFFFF, status, last := !reply, reply, sq, stop := false, cycle := k.cycle,
    keeperUs := k.us, outAddr := 0, groupEnd := true, frees := none }

/-- Change the request that holds a context. -/
def onReq (r : SvcId) (ctx : Nat) (f : Req → Req) (s : State) : State :=
  s.onKeeper r fun k => { k with reqs := k.reqs.map fun q => if q.ctx = ctx then f q else q }

/-- Contexts of the entries of a lock cycle that has started: its requests await its commit point. -/
def runningCtx (k : Keeper) : List Nat :=
  match k.form with
  | some c => if c.started then c.entries.map (·.ctx) else []
  | none => []

def inCycle (k : Keeper) (q : Req) : Bool := decide (q.ctx ∈ runningCtx k)

/-- Code of a request's state in the keeper core's copy of its context. -/
def ReqState.code : ReqState → Nat
  | .queued => 0
  | .active => 1
  | .moored => 2
  | .ended => 3

/-- Write the 64-byte record of each held context into the share, and its 8-byte copy into the core's data memory (R177); the
bytes of both are open (assumption 88). -/
def syncContexts (r : SvcId) (s : State) : State :=
  forAll s.keeper[r].reqs (fun q s =>
    sharePut (s.onKeeper r fun k =>
        { k with mem := memPut k.mem (Config.ctxCopyBase.val + 8 * q.ctx) (Config.ctxCopy q.tag q.state.code q.sq.val q.tokIdx).toList })
      r (ctxAreaOff s r + 64 * q.ctx)
      (Config.ctxRecord [q.ctx, q.tag, q.state.code, q.sq.val, b2n q.normal, q.prefilled, q.tokIdx, q.lastToken, q.acceptSeq]).toList) s

/-- The formed and unstarted cycle of a service. -/
def formed (k : Keeper) : Option LockCycle := k.form.filter fun c => !c.started

/-- A formed and unstarted cycle loses the entries of requests that are not ACTIVE any more (R181, R196); one that has none
left is given up with its staging, and formation runs again (R183). -/
def pruneForm (r : SvcId) (s : State) : State :=
  match formed s.keeper[r] with
  | none => s
  | some c =>
    let es := c.entries.filter fun e => s.keeper[r].reqs.any fun q => q.ctx == e.ctx && q.state == .active
    if es.isEmpty then dropInputRequests r (s.onKeeper r fun k => { k with form := none })
    else s.onKeeper r fun k => { k with form := some { c with entries := es } }

/-- End with a status, each in a record of its own marked last, the requests that `p` names (R181). -/
def endReqs (r : SvcId) (p : Req → Bool) (status : Nat) (s : State) : State :=
  let k := s.keeper[r]
  let hit : Req → Bool := fun q => q.live && p q
  let recs := (k.reqs.filter hit).map fun q => plainRec k q status true
  postEach r recs (syncContexts r (pruneForm r (s.onKeeper r fun k =>
    { k with reqs := k.reqs.map fun q => if hit q then { q with state := .ended } else q })))

/-! ### Deadlines and mooring limits (R190, R191, R197) -/

/-- One test of a request with no step: the request after it and the status of its record. -/
def testReq (now : Nat) (q : Req) : Req × Option Nat :=
  if q.state = .ended then (q, none)
  else if q.state = .moored ∧ q.moorLimitMs ≠ 0 ∧ q.mooredCus + q.moorLimitMs * 100000 < now then
    ({ q with state := .ended }, some Code.cancelled)
  else if q.passed now && !q.policyDone then
    match q.policy with
    | .continue => ({ q with policyDone := true }, none)
    | .moor =>
      if q.state = .active then
        ({ q with state := .moored, normal := false, mooredCus := now, policyDone := true }, some Code.moored)
      else ({ q with normal := false, policyDone := true }, none)
    | .cancel => ({ q with state := .ended, policyDone := true }, some Code.cancelled)
  else (q, none)

/-- Moorings and deadline ends of a list of outcomes. -/
def countStatus (st : Nat) (l : List (Req × Option Nat)) (p : Req → Bool) : Nat :=
  (l.filter fun x => x.2 == some st && p x.1).length

/-- Test every request of a service that no running cycle holds: the state after, and the records in acceptance order. -/
def testAll (r : SvcId) (s : State) : State × List Rec :=
  let k := s.keeper[r]
  let res := k.reqs.map fun q => if inCycle k q then (q, none) else testReq k.nowCus q
  let recs := res.filterMap fun x => x.2.map fun st => plainRec k x.1 st (x.1.state == .ended)
  let moored := countStatus Code.moored res fun _ => true
  (syncContexts r (pruneForm r ((chrEvent (keeperUnit r) 4 r.val moored s).onKeeper r fun k =>
    { k with
      reqs := res.map (·.1)
      moorings := satAdd 16 k.moorings moored
      deadlineEnds := satAdd 16 k.deadlineEnds (countStatus Code.cancelled res fun q => q.policy == .cancel && q.passed k.nowCus) })),
    recs)

/-- A test of R191 outside a commit point: each record is a group of its own. -/
def testDeadlines (r : SvcId) (s : State) : State :=
  let (t, recs) := testAll r s
  postEach r recs t

/-! ### Tolls (R192 to R194) -/

def Toll.refill (now : Nat) (t : Toll) : Toll :=
  if t.en then
    let ms := (now - t.lastRefillCus) / 100000
    { t with balance := min (t.cap : Int) (t.balance + t.rate * ms), lastRefillCus := t.lastRefillCus + ms * 100000 }
  else t

/-- The account lets its requests be placed. -/
def Toll.open (t : Toll) : Bool := !t.en || decide (0 < t.balance)

def refillTolls (r : SvcId) (s : State) : State :=
  s.onKeeper r fun k => { k with tolls := vmap (Toll.refill k.nowCus) k.tolls }

/-- Moor the ACTIVE requests that `p` names, each with a record MOORED (R196). -/
def moorReqs (r : SvcId) (p : Req → Bool) (s : State) : State :=
  let k := s.keeper[r]
  let hit : Req → Bool := fun q => q.state == .active && p q
  let moved := k.reqs.filter hit
  postEach r (moved.map fun q => plainRec k q Code.moored false)
    (syncContexts r ((chrEvent (keeperUnit r) 4 r.val moved.length s).onKeeper r fun k =>
      { k with
        reqs := k.reqs.map fun q => if hit q then { q with state := .moored, mooredCus := k.nowCus } else q
        moorings := satAdd 16 k.moorings moved.length }))

/-- Exhausted accounts at a formation (R194). -/
def applyTolls (r : SvcId) (s : State) : State :=
  let t := s.keeper[r].tolls
  let s := endReqs r (fun q => !t[q.cust].open && t[q.cust].endMode) Code.tollExhausted s
  moorReqs r (fun q => !t[q.cust].open) s

/-! ### Formation (R183, R184) -/

/-- What formation has placed so far. -/
structure Placing where
  cap : Nat := 256
  pcap : Nat := 256
  rows : Nat := 0
  pre : Nat := 0
  reqs : List Req
  entries : List Entry := []

/-- Insert by mooring time, longest moored first; equal times keep acceptance order. -/
def insertMoored (q : Req) : List Req → List Req
  | [] => [q]
  | x :: l => if q.mooredCus ≤ x.mooredCus then q :: x :: l else x :: insertMoored q l

def byMooring (l : List Req) : List Req := l.foldr insertMoored []

/-- Requests of one priority whose prompt is complete, in placing order. -/
def decoding (l : List Req) (normal : Bool) : List Req :=
  let d := l.filter fun q => q.normal == normal && decide (q.prompt ≤ q.prefilled)
  d.filter (·.state == .active) ++ byMooring (d.filter (·.state == .moored))

/-- Requests of one priority with prompt left, in placing order. -/
def prefilling (l : List Req) (normal : Bool) : List Req :=
  let d := l.filter fun q => q.normal == normal && decide (q.prefilled < q.prompt)
  d.filter (·.state == .active) ++ byMooring (d.filter (·.state == .moored)) ++ d.filter (·.state == .queued)

/-- admit(q) of R184. -/
def admits (l : List Req) (q : Req) : Bool :=
  decide ((l.filter fun x => (x.normal || !q.normal) && (x.state == .active || x.state == .moored)).length < 256)

/-- place(): the request becomes ACTIVE and takes `n` rows. -/
def Placing.place (p : Placing) (q : Req) (n : Nat) (decode : Bool) : Placing :=
  let e : Entry :=
    { ctx := q.ctx, tag := q.tag, decode, sample := decode || decide (q.prompt ≤ q.prefilled + n), greedy := q.greedy,
      first := !decode && q.prefilled == 0, row0 := p.rows, nRows := n,
      pos := if decode then q.prompt + q.tokIdx - 1 else q.prefilled,
      tokIdx := q.tokIdx, seed := q.seed, inToken := if decode then q.lastToken else 0, inputOff := 0 }
  { p with
    rows := p.rows + n
    reqs := p.reqs.map fun x => if x.ctx = q.ctx then { x with state := .active } else x
    entries := p.entries ++ [e] }

def placeDecode (k : Keeper) (p : Placing) (q : Req) : Placing :=
  if !k.tolls[q.cust].open || decide (min p.cap q.bucket.maxRows < p.rows + 1) then p
  else
    let p := p.place q 1 true
    { p with cap := min p.cap q.bucket.maxRows }

def placePrefill (k : Keeper) (p : Placing) (q : Req) : Placing :=
  if !k.tolls[q.cust].open || (q.state == .queued && !admits p.reqs q) then p
  else
    let n := min (q.prompt - q.prefilled)
      (min (min p.pcap q.bucket.chunk - p.pre) (min p.cap q.bucket.maxRows - p.rows))
    if n < 1 then p
    else
      let p := p.place q n false
      { p with pre := p.pre + n, cap := min p.cap q.bucket.maxRows, pcap := min p.pcap q.bucket.chunk }

/-- form_cycle() of R183 up to the mooring of what was not placed. -/
def placeAll (k : Keeper) : Placing :=
  [true, false].foldl (fun p normal =>
    let p := (decoding p.reqs normal).foldl (placeDecode k) p
    (prefilling p.reqs normal).foldl (placePrefill k) p) { reqs := k.reqs }

/-! ### Program entries (R109, R120, R122) -/

/-- Row of the schedule table for `c` logical barges and index `i` (R125). -/
def schedOf (p : Package) (c i : Nat) : Option Sched := p.scheds[c * (c - 1) / 2 + i]?

/-- Microcode begins to read the program image and descriptor table of the schedule from region 0 and holds the sequencer
until both are written (R122). -/
def loadProgram (b : BargeId) (r : SvcId) (p : Package) (x : Sched) (s : State) : State :=
  match p.regions[0]? with
  | none => s
  | some rg =>
    let ps : List MovePiece :=
      [(p.codeOff.getD x.progSection 0, 8 * x.progLen, progBase), (p.codeOff.getD x.descSection 0, 16384, descBase)]
    startMove b r (fun id => moveReads b id 0 rg ps) (ps.map fun q => (q.2.2, q.2.1)) none
      (s.onBarge b fun g => { g with moves := [], held := some .program })

/-- Registers of the sequencer at an entry (R109). -/
def entryRegs (cycle rows live logical epoch : Nat) : Vector Word 32 :=
  tab 32 fun i =>
    match i.val with
    | 1 => BitVec.ofNat 32 cycle
    | 2 => BitVec.ofNat 32 rows
    | 3 => BitVec.ofNat 32 live
    | 4 => BitVec.ofNat 32 logical
    | 5 => BitVec.ofNat 32 epoch
    | _ => 0

/-- A barge enters its program (R120). INIT and RESUME load the program first; STEP copies the step block first. -/
def enterProgram (b : BargeId) (run : Run) (s : State) : State :=
  let g := s.barge[b]
  match svcOfBarge g with
  | none => s
  | some r =>
    match pkgOf s r with
    | none => s
    | some p =>
      let c := s.keeper[r].liveSched
      match schedOf p c g.logical with
      | none => s
      | some x =>
        let step := run == .step
        let block := shareGet s r (stepBlockOff s r g.cycle) 16384
        let s := if step then s.onBarge b fun g => g.write stepBase block else s
        let rows := leAt block 8 2
        let s := traceReach 2 r g.logical (s.onBarge b fun g =>
          { g with
            run, cleared := false
            pc := if step then x.step else if run == .init then x.init else x.resume
            sregs := entryRegs (if step then g.cycle else 0) (if step then rows else 0) c g.logical g.epoch
            loops := [], held := none })
        if step then s else loadProgram b r p x s

/-- Run RESUME or INIT on every logical barge under the schedule for the live count (R98, R101, R120). -/
def runOnAll (r : SvcId) (run : Run) (s : State) : State :=
  let l := liveBarges s r
  let s := s.onKeeper r fun k => { k with liveSched := l.length, resuming := l, refused := [] }
  forAll l (fun b s => if s.barge[b].dredging || s.barge[b].migrating then s else enterProgram b run s) s

/-! ### Staging (R206) -/

/-- A piece of host memory to be staged: host address, length, share offset. -/
abbrev Piece := Nat × Nat × Nat

/-- Cut a piece at 64-byte lines of host memory. -/
def cutPiece : Nat → Piece → List Piece
  | 0, p => [p]
  | f + 1, (a, n, o) =>
    let k := 64 - a % 64
    if n ≤ k then [(a, n, o)] else (a, k, o) :: cutPiece f (a + k, n - k, o + k)

/-- Pieces of prefill position `i` of a request, stored from share offset `o`. -/
def positionPieces (q : Req) (i o : Nat) : List Piece :=
  if i < q.patches then
    let p := q.bucket.patch
    (List.range p).map fun y =>
      (q.frameAddr + (((i / q.patchCols) * p + y) * (q.patchCols * p) + i % q.patchCols * p) * 3, 3 * p, o + y * 3 * p)
  else [(q.promptAddr + 4 * (i - q.patches), 4, o)]

/-- Bytes a prefill position is stored in. -/
def positionBytes (q : Req) (i : Nat) : Nat := if i < q.patches then q.bucket.patch * q.bucket.patch * 3 else 4

/-- Pieces of `n` positions from `i`. -/
def positionsPieces (q : Req) : (n i o : Nat) → List Piece
  | 0, _, _ => []
  | n + 1, i, o => positionPieces q i o ++ positionsPieces q n (i + 1) (o + positionBytes q i)

def positionsBytes (q : Req) (n i : Nat) : Nat := total ((List.range n).map fun j => positionBytes q (i + j))

/-- Put a piece into the reads of an entry, one per line, lines rising. -/
def insertPiece (p : Piece) : List (Nat × List Piece) → List (Nat × List Piece)
  | [] => [(p.1 / 64, [p])]
  | (l, ps) :: rest =>
    if p.1 / 64 < l then (p.1 / 64, [p]) :: (l, ps) :: rest
    else if p.1 / 64 = l then (l, p :: ps) :: rest
    else (l, ps) :: insertPiece p rest

/-- The one read of a line: from the first to the last byte the entry needs. -/
def lineRead (r : SvcId) (ctx : Nat) (ps : List Piece) : SysReq :=
  let a := ps.foldl (fun m p => min m p.1) ((ps.head?.map (·.1)).getD 0)
  let e := ps.foldl (fun m p => max m (p.1 + p.2.1)) 0
  { kind := .rd, addr := a, len := e - a, use := .stage r ctx (ps.map fun p => (p.1 - a, p.2.1, p.2.2)) }

/-- Reads of one prefill entry of a request stored from share offset `o`. -/
def entryReads (r : SvcId) (q : Req) (e : Entry) (o : Nat) : List SysReq :=
  let ps := (positionsPieces q e.nRows e.pos o).flatMap (cutPiece 16)
  (ps.foldr insertPiece []).map fun x => lineRead r e.ctx x.2

/-- Place the entries in the input area, in order, each on a 128-byte boundary; the reads of all of them. -/
def placeInputs (r : SvcId) (reqs : List Req) : List Entry → Nat → List Entry × List SysReq
  | [], _ => ([], [])
  | e :: l, o =>
    if e.decode then
      let (es, rs) := placeInputs r reqs l o
      (e :: es, rs)
    else
      match reqs.find? fun q => q.ctx == e.ctx with
      | none =>
        let (es, rs) := placeInputs r reqs l o
        (e :: es, rs)
      | some q =>
        let (es, rs) := placeInputs r reqs l (ceilDiv (o + positionsBytes q e.nRows e.pos) 128 * 128)
        ({ e with inputOff := o } :: es, entryReads r q e o ++ rs)

/-- Place the inputs of a formed cycle and request their reads. -/
def stageInputs (r : SvcId) (s : State) : State :=
  match s.keeper[r].form with
  | none => s
  | some c =>
    let (es, rs) := placeInputs r s.keeper[r].reqs c.entries (inputAreaOff s r)
    forAll rs (sysRequest r) (s.onKeeper r fun k => { k with form := some { c with entries := es } })

/-- A migration of one of a service's barges is in progress (R99), or one has been asked for (R397). -/
def migrationPending (s : State) (r : SvcId) : Bool := (bargesOf s r).any fun b => s.barge[b].migrating || s.col.asked == some b

/-- Staging of a service is not finished. -/
def stagingOpen (s : State) (r : SvcId) : Bool :=
  let st : SysUse → Bool := fun u => match u with
    | .stage _ _ _ => true
    | _ => false
  (s.sys.requests[r].any fun q => st q.use)
    || s.sys.txns.any fun t => t.owner == r.val && st t.req.use && !t.discard

/-- The gate of R183, with the links of R306 and the state of the core (R382). -/
def formGate (s : State) (r : SvcId) : Bool :=
  let k := s.keeper[r]
  (match reachOf? r with
    | some n =>
      (s.reach[n].state == .sealed || s.reach[n].state == .draining) && !s.reach[n].restage && linkGate s n
    | none => (s.mer.phase == .twilight || s.mer.phase == .twilightOnly) && s.mer.twilightModel)
  && k.form.isNone && !migrationPending s r && k.reqs.any Req.live && s.ring[r].cq.state == .enabled
  && (s.ring[r].cq.recs.all fun x => !x.ofCycle) && k.core != .halted && !k.dbgHalted && decide (0 < liveCount s r)

/-- One formation (R183): refill, deadline test, exhausted accounts, placing, mooring of unplaced LOW requests; the cycle
formed waits for its staging. -/
def formCycle (r : SvcId) (s : State) : State :=
  let s := applyTolls r (testDeadlines r (refillTolls r s))
  let p := placeAll s.keeper[r]
  let placed : Req → Bool := fun q => p.entries.any fun e => e.ctx == q.ctx
  let s := syncContexts r (s.onKeeper r fun k => { k with reqs := p.reqs })
  let s := moorReqs r (fun q => !q.normal && !placed q) s
  if p.entries.isEmpty then s
  else stageInputs r (s.onKeeper r fun k => { k with form := some { number := k.nextCycle, entries := p.entries } })

/-! ### Step blocks (R185) -/

def entryBytes (e : Entry) : Bytes :=
  leBytes 2 e.ctx ++ [if e.decode then 0 else 1, BitVec.ofNat 8 (b2n e.sample + 2 * b2n e.greedy + 4 * b2n e.first)]
    ++ leBytes 2 e.row0 ++ leBytes 2 e.nRows ++ leBytes 4 e.pos ++ leBytes 4 e.tokIdx ++ leBytes 8 e.seed.toNat
    ++ leBytes 4 e.inToken ++ leBytes 4 e.inputOff ++ leBytes 4 0xFFFFFFFF ++ zeros 12

def stepBlock (cycle live epoch : Nat) (l : List Entry) : Bytes :=
  leBytes 8 cycle ++ leBytes 2 (total (l.map (·.nRows))) ++ leBytes 2 l.length
    ++ leBytes 2 (total (l.map fun e => if e.decode then 0 else e.nRows)) ++ leBytes 1 live ++ [0] ++ leBytes 2 epoch
    ++ zeros 46 ++ l.flatMap entryBytes

/-- The rows of a cycle numbered again, after entries have left it. -/
def renumberRows : Nat → List Entry → List Entry
  | _, [] => []
  | n, e :: l => { e with row0 := n } :: renumberRows (n + e.nRows) l

/-- Start a formed cycle: step block, then a step token to every logical barge (R185). -/
def startCycle (r : SvcId) (s : State) : State :=
  match s.keeper[r].form with
  | none => s
  | some c =>
    let l := liveBarges s r
    let k := s.keeper[r]
    let es := renumberRows 0 c.entries
    let e := epochOf s r
    let s := sharePut s r (stepBlockOff s r k.nextCycle) (stepBlock k.nextCycle l.length e es)
    let s := s.onKeeper r fun k =>
      { k with
        liveSched := l.length, nextCycle := k.nextCycle + 1
        form := some { c with number := k.nextCycle, entries := es, started := true, startCus := k.nowCus,
                              schedule := l.length, waiting := l } }
    traceReach 1 r 0x3F { s with flight := s.flight ++ l.map fun b => .stepToken b k.nextCycle e }

/-! ### The commit point (R186 to R190) -/

/-- OUT_TOKEN and OUT_FLAGS[0] of entry `i` of a step block. -/
def readOut (s : State) (r : SvcId) (cycle i : Nat) : Nat × Bool :=
  let o := stepBlockOff s r cycle + 64 + 48 * i
  (leNat (shareGet s r (o + 32) 4), bit (leNat (shareGet s r (o + 36) 1)) 0)

/-- What the commit does to a request by its entry: the request after, and its records in order. -/
def commitReq (k : Keeper) (number : Nat) (e : Entry) (tok : Nat) (stop : Bool) (q : Req) : Req × List Rec :=
  let k := { k with cycle := number }
  let late := q.passed k.nowCus
  let q := if e.decode then q else { q with prefilled := q.prefilled + e.nRows }
  if !e.sample then (q, [])
  else
    let last := stop || decide (q.maxNew ≤ q.tokIdx + 1)
    let r : Rec :=
      { plainRec k q (if late then Code.doneLate else Code.done) last with token := some tok, tokIdx := q.tokIdx, stop }
    let q := { q with tokIdx := q.tokIdx + 1, lastToken := tok }
    if last then ({ q with state := .ended }, [r])
    else if late && !q.policyDone then
      match q.policy with
      | .continue => ({ q with policyDone := true }, [r])
      | .moor =>
        ({ q with state := .moored, normal := false, mooredCus := k.nowCus, policyDone := true }, [r, plainRec k q Code.moored false])
      | .cancel => ({ q with state := .ended, policyDone := true }, [r, plainRec k q Code.cancelled true])
    else (q, [r])

/-- Commit one entry: requests and records so far. -/
def commitEntry (s : State) (r : SvcId) (c : LockCycle) (acc : List Req × List Rec) (x : Nat × Entry) : List Req × List Rec :=
  let k := s.keeper[r]
  let e := x.2
  match acc.1.find? fun q => q.ctx == e.ctx with
  | none => acc
  | some q =>
    if e.dropped then
      (acc.1.map (fun y => if y.ctx = e.ctx then { y with state := .ended } else y),
        acc.2 ++ [plainRec { k with cycle := c.number } q Code.cancelled true]
          ++ e.cancels.map fun sq => replyRec { k with cycle := c.number } q.tag Code.done sq true)
    else
      let out := readOut s r c.number x.1
      let (q', recs) := commitReq k c.number e out.1 out.2 q
      (acc.1.map (fun y => if y.ctx = e.ctx then q' else y), acc.2 ++ recs)

/-- Charge the committed entries to their accounts (R193). -/
def chargeTolls (k : Keeper) (l : List Entry) : Vector Toll 16 :=
  l.foldl (fun t e =>
    if e.dropped then t
    else
      match k.reqs.find? fun q => q.ctx == e.ctx with
      | none => t
      | some q => upd t q.cust fun a => if a.en then { a with balance := a.balance - (e.nRows : Int) } else a) k.tolls

/-- No request of a service is QUEUED, ACTIVE or MOORED. -/
def drained (s : State) (r : SvcId) : Bool := s.keeper[r].reqs.all fun q => !q.live

/-- A DRAINING reach whose requests have all ended enters DREDGING (R168). -/
def checkDrained (r : SvcId) (s : State) : State :=
  match reachOf? r with
  | none => s
  | some n => if s.reach[n].state = .draining ∧ drained s r then beginDredge n .full s else s

/-- The commit point of the running cycle (R186): tokens, tolls, deadlines, records as one group, exchanges. -/
def commitCycle (r : SvcId) (s : State) : State :=
  match s.keeper[r].form with
  | none => s
  | some c =>
    let k := s.keeper[r]
    let (reqs, recs) := (c.entries.mapIdx fun i e => (i, e)).foldl (commitEntry s r c) (k.reqs, [])
    let lateN := (recs.filter fun x => x.status == Code.doneLate).length
    let moorN := (recs.filter fun x => x.status == Code.moored).length
    let endN := (recs.filter fun x => x.status == Code.cancelled
      && c.entries.any fun e => !e.dropped && e.tag == x.tag).length
    let s := chrEvent (keeperUnit r) 4 r.val moorN (chrEvent (keeperUnit r) 1 r.val 1 s)
    let s := s.onKeeper r fun k =>
      { k with
        tolls := chargeTolls k c.entries, reqs, form := none, cycle := c.number
        lastUs := min ((k.nowCus - c.startCus) / 100) 0xFFFFFF
        lateTokens := satAdd 16 k.lateTokens lateN
        moorings := satAdd 16 k.moorings moorN
        deadlineEnds := satAdd 16 k.deadlineEnds endN }
    let s := syncContexts r s
    let (s, more) := testAll r s
    let s := postGroup r ((recs ++ more).map Rec.inCycle) s
    let s := match reachOf? r with
      | some n => orderExchanges n s
      | none => s
    checkDrained r (traceReach 1 r 0x3F s)

/-! ### The error end of a step (R43, R96) -/

/-- A step abort is sent to every logical barge but one, which failed; each runs RESUME before the next STEP, under the
schedule for the live count (R96, R98). -/
def abortBarges (r : SvcId) (but : Option BargeId) (s : State) : State :=
  let l := (liveBarges s r).filter fun b => some b != but
  let s := s.onKeeper r fun k => { k with resuming := l, refused := [], liveSched := if but.isNone then l.length else k.liveSched }
  dropFlight r (forAll l abortBarge s)

/-- Place of a status in the order of R43; none for a status outside it. -/
def errorRank (status : Nat) : Option Nat :=
  [Code.weightTagFail, Code.memUncorrectable, Code.bargeFault, Code.keyOrphaned, Code.keyExpired, Code.keyExhausted,
    Code.linkAuthFail].idxOf? status

/-- The first of two statuses in the order of R43. -/
def firstError (x y : Nat) : Nat :=
  match errorRank x, errorRank y with
  | some i, some j => if j < i then y else x
  | _, _ => x

/-- Another error of a step that an error has ended: each request's status is the first in the order of R43. -/
def moreError (r : SvcId) (status : Nat) (s : State) : State :=
  s.onRing r fun b => { b with cq := { b.cq with recs := b.cq.recs.map fun x =>
    if x.stepError then { x with status := firstError x.status status } else x } }

/-- A step that an error has ended is still ending: an abort has not reached its barge. -/
def stepEnding (s : State) (r : SvcId) : Bool := (liveBarges s r).any fun b => s.barge[b].abortDue

/-- A step of the service is in flight. -/
def stepRunning (s : State) (r : SvcId) : Bool :=
  match s.keeper[r].form with
  | some c => c.started
  | none => false

/-- End the formed or running cycle of a service without a commit point: each of its requests ends with one record of the
status, cancels accepted for them are answered ALREADY_DONE (R43, R188). -/
def endStep (r : SvcId) (status : Nat) (but : Option BargeId) (s : State) : State :=
  match s.keeper[r].form with
  | none => s
  | some c =>
    let k := s.keeper[r]
    let hit : Req → Bool := fun q => q.live && c.entries.any fun e => e.ctx == q.ctx
    let recs := c.entries.flatMap fun e =>
      match k.reqs.find? fun q => q.ctx == e.ctx with
      | none => []
      | some q => { plainRec k q status true with stepError := true } :: e.cancels.map fun sq => replyRec k q.tag Code.alreadyDone sq true
    let s := s.onKeeper r fun k =>
      { k with form := none, reqs := k.reqs.map fun q => if hit q then { q with state := .ended } else q }
    let s := dropInputRequests r (syncContexts r s)
    let s := abortBarges r but s
    checkDrained r (postEach r (recs.map Rec.inCycle) s)

/-- Stop a running cycle without a commit point and without records (R172). -/
def dropStep (r : SvcId) (s : State) : State := s.onKeeper r fun k => { k with form := none }

/-! ### Cancels (R169, R188) -/

/-- A cancel accepted for a request: ended at once, or dropped from the running cycle, its reply due at the commit point. The
answer is the status of a reply due now. -/
def cancelReq (r : SvcId) (tag : Nat) (reply : Option (Fin 2)) (s : State) : State :=
  let k := s.keeper[r]
  let answerNow : Nat → State → State := fun st s =>
    match reply with
    | some sq => postGroup r [replyRec s.keeper[r] tag st sq true] s
    | none => s
  match k.reqs.find? fun q => q.tag == tag && q.live with
  | none =>
    if (k.reqs.any fun q => q.tag == tag) || decide (tag ∈ k.finals) then answerNow Code.alreadyDone s
    else answerNow Code.notFound s
  | some q =>
    if inCycle k q then
      s.onKeeper r fun k => { k with form := k.form.map fun c =>
        { c with entries := c.entries.map fun e =>
          if e.ctx = q.ctx then { e with dropped := true, cancels := e.cancels ++ reply.toList } else e } }
    else answerNow Code.done (endReqs r (fun x => x.ctx == q.ctx) Code.cancelled s)

/-- Every request of a service ends as a cancel accepted now (R169). -/
def cancelAll (r : SvcId) (s : State) : State := forAll (s.keeper[r].reqs.filter Req.live) (fun q => cancelReq r q.tag none) s

end Sys2Proof.Machine
end

