-- ==== Sys2Proof/Machine/PowerOps.lean ====
section
/-! DEFINITION. Shared operations of Sluice on islands: clocks, power and the steps of the barge islands (R16, R355 to R358,
R364, R365, R370, R371), and notices on Towpath channel 3 (R374). -/

namespace Sys2Proof.Machine

/-- Nominal clock of an island other than a barge's, in RUN, TRIM and DOZE (R12, R357, R370). -/
def nominalMhz (s : State) (i : Nat) : Nat :=
  if i < 34 then 600
  else if i < 38 then 1000
  else if i < 54 then s.params.mptClkMhz
  else if i < 59 then 1000
  else if i = 59 then 500
  else if i = 60 then 400
  else if i < 63 then 200
  else 400

/-- Arith clock of a step (R358). -/
def stepMhz : Nat → Nat
  | 0 => 750
  | 1 => 600
  | 2 => 500
  | 3 => 400
  | 4 => 300
  | _ => 200

/-- Set an island's frequency: the window in progress is discarded and CAL_VALID falls (R16). -/
def setClock (i : Fin 64) (mhz : Nat) (s : State) : State :=
  s.onIsl i fun x => if x.freqMhz = mhz then x else { x with freqMhz := mhz, calValid := false, windowWhole := false, steady := false }

/-- Power an island and lock its synthesiser; the partial window in which it is powered is not counted (R15). -/
def powerIsl (i : Fin 64) (mhz : Nat) (gated : Bool) (s : State) : State :=
  setClock i mhz (s.onIsl i fun x =>
    if x.powered && x.clkLocked then
      { x with clkGated := gated, inReset := false, steady := x.steady && x.clkGated == gated && !x.inReset, fresh := x.fresh || x.inReset }
    else { x with powered := true, clkLocked := true, clkGated := gated, inReset := false, calValid := false, windowWhole := false,
                  steady := false, fresh := x.fresh || x.inReset })

/-- Remove an island's rail. -/
def unpowerIsl (i : Fin 64) (s : State) : State :=
  s.onIsl i fun x =>
    { x with
      powered := false, clkLocked := false, clkGated := false, calValid := false, stopped := false, freqMhz := 0
      windowWhole := false, steady := x.steady && !x.powered }

def islOf (b : BargeId) : Fin 64 := ⟨b.val, by omega⟩

/-- The barge's clock runs. -/
def bargeRuns (s : State) (b : BargeId) : Bool :=
  let i := s.isl[islOf b]
  i.powered && i.clkLocked && !i.clkGated && !i.stopped && !i.inReset

/-- Barge that an entry in flight travels to. -/
def Msg.dest : Msg → Option BargeId
  | .stepToken d _ _ => some d
  | .token _ d _ _ => some d
  | .credit _ d _ _ => some d
  | .fill _ d _ _ _ => some d
  | _ => none

/-- A barge island loses its rail: epoch 0, its counters cleared, its step ends where it stands (R104, R405). What was still to
reach it has arrived first (R24), in contents that are given up. -/
def unpowerBarge (b : BargeId) (s : State) : State :=
  let s := { s with flight := s.flight.filter fun m => m.dest != some b }
  let s := match svcOfBarge s.barge[b] with
    | some r => s.onKeeper r fun k => { k with resuming := k.resuming.filter (· != b) }
    | none => s
  clearUnitCounters b.val (unpowerIsl (islOf b) (s.onBarge b fun g =>
    { g with
      epoch := 0, cleared := false, run := .idle, held := none, moves := [], dredging := false, operands := [], operandsIn := false
      abortDue := false }))

/-- Stop a barge clock at step 6, unless the barge is being Dredged (R365). -/
def stopClock (b : BargeId) (s : State) : State :=
  if s.barge[b].dredging then s else s.onIsl (islOf b) fun x =>
    if x.powered && !x.clkGated then { x with stopped := true, steady := x.steady && x.stopped } else x

/-- Island voltage of a step (R358). -/
def stepMv : Nat → Nat
  | 0 => 800
  | 1 => 700
  | 2 => 650
  | 3 => 600
  | 4 => 570
  | _ => 550

/-- The voltage that clocks may rely on: a lowered target at once, a raised one when it is acknowledged; a request that is
late raises none (R356). -/
def safeMv (x : Rail) : Nat := if x.settled then x.heldMv else min x.heldMv x.targetMv

/-- The fastest step not faster than the one asked for that VDD_ARITH allows (R356). -/
def allowedStep (s : State) (step : Nat) : Nat :=
  ((List.range 6).find? fun k => decide (step ≤ k) && decide (stepMv k ≤ safeMv s.slu.rail[0])).getD 5

/-- A barge's clock is no longer stopped. -/
def unstop (b : BargeId) (s : State) : State :=
  s.onIsl (islOf b) fun x => { x with stopped := false, steady := x.steady && !x.stopped }

/-- Run a barge island at a step; step 6 stops its clock. The boot ROM holds it at 400 MHz or slower (R228). -/
def runStep (b : BargeId) (step : Nat) (s : State) : State :=
  if 6 ≤ step then stopClock b s
  else powerIsl (islOf b) (stepMhz (if s.slu.bootRom then max 3 step else allowedStep s step)) false (unstop b s)

/-- The step of a reach: its own, or the platform step while the throttle is in force (R364). -/
def reachStep (s : State) (n : ReachId) : Nat := if s.slu.platform then s.slu.pstep else s.slu.reach[n].step

/-- The step a barge is to run at by its role; none while it is unpowered (R358, R370). -/
def wantStep (s : State) (b : BargeId) : Option Nat :=
  let g := s.barge[b]
  if s.slu.state = .keep ∨ s.slu.state = .off then none
  else
    match g.role with
    | .active =>
      match fin? 8 g.reach with
      | some n => if s.slu.reach[n].dozing && s.col.barge != some b then none else some (reachStep s n)
      | none => some 1
    | .twilight => some (if s.slu.platform then s.slu.pstep else 3)
    | .spare => some (if s.slu.platform && s.col.barge == some b then s.slu.pstep else 1)
    | .underTest => some (if s.slu.platform && s.col.barge == some b then s.slu.pstep else 1)
    | _ => none

/-- The barge's clock is gated between uses (R358). -/
def gatedRole (s : State) (b : BargeId) : Bool :=
  match s.barge[b].role with
  | .spare => s.col.barge != some b
  | .underTest => s.col.barge != some b
  | _ => false

/-- The voltage and state wanted of a rail (R355, R228). -/
def railWant (s : State) (r : Fin 6) : Bool × Nat :=
  let deep := s.slu.state == .keep || s.slu.state == .off
  match r.val with
  | 0 =>
    if deep then (false, 0)
    else if s.slu.bootRom then (true, 700)
    else
      let steps := ((idxs 34).filter fun b => s.isl[islOf b].powered).filterMap (wantStep s)
      match steps with
      | [] => (true, s.slu.rail[r].targetMv)
      | k :: l => (true, stepMv (l.foldl min k))
  | 1 => if s.slu.state = .off then (false, 0) else (true, if s.slu.state = .keep then 700 else 750)
  | 4 => if s.slu.state = .off then (false, 0) else (true, s.params.vddPortMv)
  | 5 =>
    if s.slu.state ≠ .off ∧ (s.alm.busy.any fun j => j.2.programs) then (true, 1800) else (false, 0)
  | _ => if s.slu.state = .off then (false, 0) else (true, 750)

/-- Request a rail's wanted state when the regulator owes no acknowledgement (R355, R414). -/
def syncRail (r : Fin 6) (s : State) : State :=
  let x := s.slu.rail[r]
  let (on, mv) := railWant s r
  if !x.settled || (x.on == on && x.targetMv == mv) then s
  else emit (.power r on mv) ((chrAlways Chr.sluice 3 1 s).onSlu fun u => { u with rail := upd u.rail r fun x => { x with on, targetMv := mv, settled := false, late := false } })

def syncRails (s : State) : State := forAll (idxs 6) syncRail s

/-- Set a barge island by the barge's role (R358, R370). -/
def clockIsland (b : BargeId) (s : State) : State :=
  match wantStep s b with
  | none => if s.isl[islOf b].powered then unpowerBarge b s else s
  | some k => if gatedRole s b then
      powerIsl (islOf b) (stepMhz (allowedStep s k)) true (unstop b s)
    else runStep b k s

/-- Set a barge island and ask for the voltage it needs. -/
def clockBarge (b : BargeId) (s : State) : State := syncRail 0 (clockIsland b s)

/-- Set every barge island by its role, and the rails. Under the boot ROM the powered ones run at the platform step, or at
400 MHz while no throttle is in force (R228). -/
def clockAll (s : State) : State :=
  if s.slu.bootRom then
    forAll ((idxs 34).filter fun b => s.isl[islOf b].powered) (fun b s => runStep b (if s.slu.platform then s.slu.pstep else 3) s) s
  else syncRails (forAll (idxs 34) clockIsland s)

/-- Power the barges of a dozing reach (R371). -/
def wakeReach (n : ReachId) (s : State) : State :=
  if s.slu.reach[n].dozing then
    withNotice (fun s =>
      forAll (bargesOf s (svcOf n)) clockBarge
        (s.onSlu fun u => { u with reach := upd u.reach n fun x => { x with dozing := false } })) s
  else s

/-- Note whether the platform throttle is in force in the status and history registers (R48, R49). -/
def setThermal (on : Bool) (s : State) : State :=
  { s with iso := { s.iso with
      thermal := on
      thermalSince := if on then Vector.replicate 8 true else s.iso.thermalSince } }

end Sys2Proof.Machine
end

