-- ==== Sys2Proof/Machine/LoadOps.lean ====
section
/-! DEFINITION. Shared operations of the load engine (R155 to R158, R203): starting a load, fetching its chunks, and the end
of a load that fails. -/

namespace Sys2Proof.Machine

/-- Pieces of `n` bytes of host memory from `a`, one for each 64-byte line, with offsets from `o`. -/
def lineCuts : Nat → (a n o : Nat) → List (Nat × Nat × Nat)
  | 0, _, _, _ => []
  | f + 1, a, n, o =>
    if n = 0 then []
    else
      let k := min n (64 - a % 64)
      (a, k, o) :: lineCuts f (a + k) (n - k) (o + k)

/-- Bytes of a chunk with a full payload (R155). -/
def chunkBytes : Nat := 65584

/-- The command of a load ends: CUL_LOAD_STATUS, and a record with REPLY (R157, R162). -/
def loaderFailed (status : Nat) (s : State) : State :=
  { s with loader := { s.loader with state := .failed, status, job := none } }

/-- Ring and tag that a load reports to are answered. -/
def answerLoad (n : ReachId) (tag status : Nat) (sq : Fin 2) (s : State) : State :=
  postGroup (svcOf n) [replyRec s.keeper[svcOf n] tag status sq true] s

/-- Request the next chunk, or fail when none can be there. -/
def fetchChunk (s : State) : Option State :=
  match s.loader.job with
  | none => some s
  | some j =>
    let at_ := chunkBytes * j.chunk
    let n := min chunkBytes (j.imageBytes - at_)
    if n < 49 then none
    else
      let cuts := lineCuts 1100 (j.imageAddr + at_) n 0
      let s := { s with loader := { s.loader with
        chunkIndex := j.chunk, job := some { j with staged := [], fetchLen := n, fetchLeft := cuts.length } } }
      some (forAll cuts (fun c => sysRequest (svcOf j.reach) { kind := .rd, addr := c.1, len := c.2.1, use := .chunk c.2.2 }) s)

/-- The end of an unsuccessful load of a reach that stays LOADING (R157, R168, R258): the partial Dredge begins and the
command's record follows it. A KEY_ status invalidates the package key. -/
def failReach (n : ReachId) (rec : Option (Nat × Fin 2)) (status : Nat) (s : State) : State :=
  let s := if status = Code.keyOrphaned ∨ status = Code.keyExhausted ∨ status = Code.keyExpired then
      invalidateSlot (keySlot s n 3) s else s
  let s := beginDredge n .failedLoad s
  s.onReach n fun x => { x with loadRec := rec.map fun y => (y.1, y.2, status) }

/-- Start loads in the order accepted, one at a time (R158). A job that cannot fetch its first chunk fails at once. -/
def startLoads : Nat → State → State
  | 0, s => s
  | f + 1, s =>
    match s.loader.job, s.loader.queue with
    | none, j :: q =>
      let s := { s with loader :=
        { s.loader with state := .running, reach := j.reach.val, chunkIndex := 0, job := some j, queue := q } }
      let s := s.onReach j.reach fun x => { x with loadGen := (x.loadGen + 1) % 2 ^ 32 }
      match fetchChunk s with
      | some s => s
      | none => startLoads f (failReach j.reach (some (j.tag, j.sq)) Code.badDescriptor (loaderFailed Code.badDescriptor s))
    | _, _ => s

/-- The running load ends without success (R157). -/
def failLoad (status : Nat) (s : State) : State :=
  match s.loader.job with
  | none => s
  | some j => startLoads 8 (failReach j.reach (some (j.tag, j.sq)) status (loaderFailed status s))

/-- A load of a reach is running or waiting for the engine. -/
def loadPending (s : State) (n : ReachId) : Bool :=
  (match s.loader.job with
    | some j => j.reach == n
    | none => false) || s.loader.queue.any fun j => j.reach == n

/-- Stop a reach's load with a status, running or waiting, its record written at once (R157, R168, R383). -/
def stopLoad (n : ReachId) (status : Nat) (s : State) : State :=
  let s := match s.reach[n].initRec with
    | some (tag, sq) => answerLoad n tag status sq (s.onReach n fun x => { x with initRec := none })
    | none => s
  match s.loader.job with
  | some j =>
    if j.reach = n then startLoads 8 (answerLoad n j.tag status j.sq (dropInputRequests (svcOf n) (loaderFailed status s)))
    else
      let mine := s.loader.queue.filter fun q => q.reach == n
      let s := { s with loader := { s.loader with queue := s.loader.queue.filter fun q => q.reach != n } }
      forAll mine (fun q => answerLoad n q.tag status q.sq) s
  | none => s

end Sys2Proof.Machine
end

