-- ==== Sys2Proof/Machine/ColOps.lean ====
section
/-! DEFINITION. Shared operations of Collimator on barges (R397, R398, R401): the start and the end of a test, and picks. -/

namespace Sys2Proof.Machine

/-- A test of a barge begins at slice 0: epoch 0, its contents given up, its clock running (R104, R394, R397). -/
def beginTest (b : BargeId) (s : State) : State :=
  let inReach := s.barge[b].role == .active
  let s := s.onCol fun c => { c with barge := some b, slice := 0, verdict := none, inReach, paused := false }
  clockBarge b (s.onBarge b fun g => { g.dredged with cleared := false })

/-- The test of a barge ends; its clock is gated, or its rail removed, as its role has it. -/
def endTest (s : State) : State :=
  match s.col.barge with
  | none => s
  | some b => clockBarge b (s.onCol fun c => { c with barge := none, slice := 0, verdict := none, inReach := false, paused := false })

/-- A barge that a pick may name: ACTIVE or SPARE (R398). -/
def pickable (s : State) (b : BargeId) : Bool := s.barge[b].role == .active || s.barge[b].role == .spare

/-- The full pass of the first barge is older; a barge that has had none comes first. -/
def olderPass (a b : Option Nat) : Bool :=
  match a, b with
  | none, some _ => true
  | some x, some y => decide (x < y)
  | _, _ => false

/-- The barge first in line, else the one whose last full pass is oldest, the lower number at equal age (R398). -/
def pickOf (s : State) : Option BargeId :=
  match s.col.first.filter (pickable s) with
  | some b => some b
  | none =>
    ((idxs 34).filter (pickable s)).foldl (fun best b =>
      match best with
      | none => some b
      | some c => if olderPass s.col.bargeInfo[b].passAt s.col.bargeInfo[c].passAt then some b else some c) none

/-- The reach of an ACTIVE barge dozes. -/
def ownerDozes (s : State) (b : BargeId) : Bool :=
  match fin? 8 s.barge[b].reach with
  | some n => s.slu.reach[n].dozing
  | none => false

/-- Make a pick (R397, R398): a SPARE barge and a barge of a dozing reach are tested in place, another is to migrate first. -/
def makePick (s : State) : State :=
  let s := s.onCol fun c => { c with deferred := false }
  match pickOf s with
  | none => s
  | some b =>
    let s := s.onCol fun c => { c with first := none }
    if s.barge[b].role = .active ∧ !ownerDozes s b then
      if (idxs 34).any fun c => s.barge[c].role == .spare then s.onCol fun c => { c with asked := some b }
      else s.onCol fun c => { c with first := some b, skipped := satInc 8 c.skipped }
    else beginTest b s

/-- A barge is under test, or its migration for a test runs or is asked for. -/
def testBusy (s : State) : Bool :=
  s.col.barge.isSome || s.col.asked.isSome || s.barge.toList.any fun g => g.migrating

/-! ### Due instants (R395, R398, R399) -/

/-- Slices of a full pass (R395); 0 for an island that no slice runs on in service. -/
def islSlices (i : Nat) : Nat :=
  if i < 34 then 16 else if i < 38 then 104 else if i < 60 ∨ i = 62 then 12 else if i < 62 then 8 else 0

/-- Due instants of an island that have come (R399): instant n, of slice n mod s, falls at (n + i / 64) × 14,400 s / s. -/
def dueCount (s : State) (i : Fin 64) : Nat :=
  let p := 14400 * secondPs
  let t := 64 * islSlices i.val * testPs s
  if islSlices i.val = 0 ∨ t < i.val * p then 0 else (t - i.val * p) / (64 * p) + 1

/-- The slice of the latest due instant of an island has not been run, and the island can run it (R399). -/
def sliceWaits (s : State) (i : Fin 64) : Bool :=
  decide (34 ≤ i.val) && s.isl[i].powered && !s.isl[i].inReset && decide (s.col.islNext[i] < dueCount s i)

/-- Two islands' latest due instants fall in one test cycle. -/
def sameInstant (s : State) (i j : Fin 64) : Bool :=
  (64 * (dueCount s i - 1) + i.val) * islSlices j.val == (64 * (dueCount s j - 1) + j.val) * islSlices i.val

/-- The next pick has fallen: a whole multiple of 420 s after the quick pass (R398). -/
def pickFalls (s : State) : Bool := waited (testPs s) s.col.quickAt (420 * (s.col.picks + 1) * secondPs)

/-- A deferred pick is made when the test it waited for has ended. -/
def settlePick (s : State) : State := if s.col.deferred && !testBusy s then makePick s else s

end Sys2Proof.Machine
end

