-- ==== Sys2Proof/Machine/BargeOps.lean ====
section
/-! DEFINITION. Shared operations on barges and reaches as Meridian performs them: assignment, substitution and renumbering
(R99 to R102), barge faults (R96), INIT and sealing (R168), the end of twilight's resources (R236, R237), and what follows a
finished Dredge (R81, R104, R168, R171). -/

namespace Sys2Proof.Machine

/-! ### Choosing and assigning (R99 to R101) -/

/-- The SPARE barge that has been SPARE longest, its slices not running; ties to the lower number (R99, R100). -/
def chooseSpare (s : State) : Option BargeId :=
  let free := (idxs 34).filter fun b =>
    let g := s.barge[b]
    g.role == .spare && s.col.barge != some b && !g.dredging && g.cleared
  free.foldl (fun best b =>
    match best with
    | none => some b
    | some c => if s.barge[b].spareSince < s.barge[c].spareSince then some b else some c) none

/-- Meridian writes epoch, REACH and LOGICAL to a Dredged barge (R100, R104). -/
def assignBarge (b : BargeId) (n : ReachId) (logical : Nat) (s : State) : State :=
  clockBarge b (s.onBarge b fun g =>
    { g with role := .active, reach := n.val, logical, epoch := s.reach[n].epoch, cleared := false, migrating := false,
             partner := none, migDest := false })

/-- INIT of a service has begun and not ended. -/
def initRunning (s : State) (r : SvcId) : Bool :=
  match reachOf? r with
  | some n => s.reach[n].initPending || s.reach[n].restage
  | none => s.mer.step == .package

/-- The reach of a service dozes: its barges are unpowered, and each refuses its next step token (R371). -/
def svcDozes (s : State) (r : SvcId) : Bool :=
  match reachOf? r with
  | some n => s.slu.reach[n].dozing
  | none => false

/-- The keeper core changes schedule when the live count has changed and no step runs: RESUME, or a new INIT, on every
logical barge (R98, R101, R168); in a dozing reach each runs RESUME after its refusal (R104, R371). -/
def reschedule (r : SvcId) (s : State) : State :=
  if stepRunning s r || (pkgOf s r).isNone || liveCount s r == s.keeper[r].liveSched then s
  else if svcDozes s r then s.onKeeper r fun k => { k with liveSched := liveCount s r }
  else runOnAll r (if initRunning s r then .init else .resume) s

/-- One barge is to run its program before the next STEP (R100, R104). -/
def resumeBarge (r : SvcId) (b : BargeId) (s : State) : State :=
  if (pkgOf s r).isNone || svcDozes s r then s
  else
    let s := s.onKeeper r fun k => { k with resuming := k.resuming.filter (· != b) ++ [b] }
    enterProgram b (if initRunning s r then .init else .resume) s

/-- Renumber the live barges above a lost index (R101). -/
def renumber (r : SvcId) (lost : Nat) (s : State) : State :=
  { s with barge := vmap (fun g => if g.reach = r.val ∧ lost < g.logical ∧ g.role ≠ .failed then
      { g with logical := g.logical - 1 } else g) s.barge }

/-- The last live barge of a reach is lost (R168). -/
def lastBargeLost (n : ReachId) (s : State) : State :=
  let r := svcOf n
  let st := s.reach[n].state
  if st = .sealed ∨ st = .draining then
    let s := setReachState n .draining (s.onReach n fun x => { x with drainCancel := true })
    checkDrained r (endReqs r (fun _ => true) Code.bargeFault s)
  else s

/-- A Dredge of a reach in progress keeps its layout: after a failed load, or for OPEN (R171). -/
def keepsLayout (x : Reach) : Bool := x.dredge == .none || x.dredge == .failedLoad || x.dredge == .forOpen

/-- Whether a reach keeps its barges at full strength (R101): it is neither EMPTY nor being Dredged for EMPTY. -/
def keepsBarges (x : Reach) : Bool := x.state == .loading || x.state == .sealed || x.state == .draining

/-- Give free SPARE barges to reaches with fewer live barges than 4F, lower reach first, as the next logical index (R101). -/
def refill : Nat → State → State
  | 0, s => s
  | f + 1, s =>
    match (idxs 8).find? fun n => keepsBarges s.reach[n] && s.reach[n].dredge == .none && s.keeper[svcOf n].lost.isEmpty
        && decide (liveCount s (svcOf n) < 4 * s.reach[n].flights), chooseSpare s with
    | some n, some b => refill f (reschedule (svcOf n) (assignBarge b n (liveCount s (svcOf n)) s))
    | _, _ => s

def toSpare (b : BargeId) (s : State) : State := clockBarge b (enterSpare b s)

/-- A barge becomes SPARE and may be given to a reach that lacks it. -/
def becomeSpare (b : BargeId) (s : State) : State := refill 34 (toSpare b s)

/-! ### Twilight's resources (R236, R237) -/

/-- Slot owners 0x8 become 0xF, at the ports at slot 0 of their next revolution (R147). -/
def freeOwner (o : Nat) (s : State) : State :=
  let f : Nat → Nat := fun x => if x = o then 0xF else x
  let p : Port → Port := fun p => { p with nextWheel := some (vmap f (p.nextWheel.getD p.wheel)) }
  { s with port := vmap p s.port, sys := { s.sys with wheel := vmap f s.sys.wheel } }

/-- Every resource twilight holds is Dredged and released, its rings reset. -/
def releaseTwilight (s : State) : State :=
  let r := twilightSvc
  let bs := bargesOf s r
  let s := forAll bs (fun b s => toSpare b (clearBarge b (dropBargeRequests b s))) s
  let s := setUnitOwner 0 0xF (clearUnit 0 (discardPorts r s))
  let s := clearUnitCounters 59 (s.onKeeper r (Keeper.dredged .reset))
  let s := freeOwner 8 (resetRings r s)
  let s := invalidateSlots (fun j _ => decide (29 ≤ j.val) && decide (j.val ≤ 31)) s
  refill 34 { (s.onMer fun m => { m with twilightModel := false, twilightEnding := false }) with twPkg := none }

/-- Records of twilight are still to be written, and its completion ring takes them. -/
def twilightRecords (s : State) : Bool :=
  let c := s.ring[twilightSvc].cq
  c.state == .enabled && !c.full && !c.recs.isEmpty

/-- Twilight without a barge is released once its records are written (R237). -/
def settleTwilight (s : State) : State := if s.mer.twilightEnding && !twilightRecords s then releaseTwilight s else s

/-! ### Barge faults (R96, R102) -/

def causeCode : BargeCause → Nat
  | .scratchEcc => 1
  | .seqParity => 2
  | .mcodeParity => 3
  | .tokenOverflow => 4
  | .creditOverflow => 5
  | .addressRange => 6
  | .watchdog => 7
  | .sliceSignature => 8

/-- BRG_FAULT and BRG_ERR record the fault; the operator is alerted (R45, R96, R106). -/
def recordFault (b : BargeId) (cause : BargeCause) (s : State) : State :=
  alert Code.bargeFault AlertUnit.barge b.val (alertReach s.barge[b].reach) b.val (causeCode cause)
    (s.onBarge b fun g =>
      { g with
        faultCause := causeCode cause, faultCount := satInc 8 g.faultCount
        uncorrected := if cause = .scratchEcc then satInc 8 g.uncorrected else g.uncorrected })

/-- The test that a barge was under ends (R81). -/
def dropTest (b : BargeId) (s : State) : State := if s.col.barge = some b then endTest s else s

/-- Entry to FAILED: epoch 0, no reach, unpowered; a test of it ends (R81, R104, R370). -/
def failBarge (b : BargeId) (s : State) : State :=
  let s := (dropAsk b (dropBargeRequests b s)).onCol fun c => if c.first = some b then { c with first := none } else c
  clockBarge b (dropTest b (s.onBarge b fun g =>
    { g with
      role := .failed, reach := 0xF, logical := 0x3F, epoch := 0, cleared := false, migrating := false, partner := none
      migDest := false, run := .idle, held := none, moves := [], dredging := false, operands := [], operandsIn := false
      abortDue := false }))

/-- Substitution of a lost logical barge of a reach, or renumbering when no SPARE barge is free (R100, R101). -/
def replaceBarge (n : ReachId) (lost : Nat) (s : State) : State :=
  let r := svcOf n
  match chooseSpare s with
  | some c =>
    let s := assignBarge c n lost s
    if stepRunning s r then s
    else if liveCount s r = s.keeper[r].liveSched then resumeBarge r c s
    else reschedule r s
  | none =>
    let s := renumber r lost s
    if liveCount s r = 0 then lastBargeLost n (s.onKeeper r fun k => { k with liveSched := 0 }) else reschedule r s

/-- Add a lost index to those to be substituted, rising. -/
def insertLost (x : Nat) : List Nat → List Nat
  | [] => [x]
  | y :: l => if x ≤ y then x :: y :: l else y :: insertLost x l

/-- The barges lost in a step are substituted in the order of their logical indices, once no abort of it is on its way; an index
that closes for want of a SPARE barge lowers those above it (R96, R100, R101). -/
def settleLost (n : ReachId) : Nat → State → State
  | 0, s => s
  | f + 1, s =>
    match s.keeper[svcOf n].lost with
    | [] => s
    | x :: l =>
      if stepEnding s (svcOf n) then s
      else
        let rest := if (chooseSpare s).isSome then l else l.map (· - 1)
        settleLost n f (replaceBarge n x (s.onKeeper (svcOf n) fun k => { k with lost := rest }))

/-- Substitute what a step that has ended lost. -/
def settleLosses (n : ReachId) (s : State) : State := settleLost n 34 s

/-- Twilight loses a barge (R81, R237). -/
def twilightLost (lost : Nat) (s : State) : State :=
  let r := twilightSvc
  let s := renumber r lost s
  if liveCount s r = 0 then
    settleTwilight (endReqs r (fun _ => true) Code.cancelled
      (s.onMer fun m => { m with twilightModel := false, twilightEnding := true }))
  else reschedule r s

/-- BARGE_FAULT in a barge, up to the picks it sets free (R81, R96, R102). -/
def bargeLost (b : BargeId) (cause : BargeCause) (s : State) : State :=
  let g := s.barge[b]
  let s := recordFault b cause s
  match g.role with
  | .active =>
    match fin? 8 g.reach with
    | none => failBarge b s
    | some n =>
      let r := svcOf n
      if g.migrating then
        let s := failBarge b s
        let s := s.onCol fun c => { c with asked := none, first := if g.migDest then g.partner else none }
        match g.partner with
        | none => s
        | some p =>
          let s := s.onBarge p fun x => { x with migrating := false, partner := none, migDest := false }
          if !g.migDest || decide (p ∈ s.keeper[r].resuming) then resumeBarge r p (s.onKeeper r fun k => { k with resuming := k.resuming.filter (· != b) })
          else s
      else
        let inInit := initRunning s r && !s.keeper[r].resuming.isEmpty
        let s := failBarge b (if stepEnding s r then moreError r Code.bargeFault s else s)
        let s := s.onKeeper r fun k => { k with resuming := k.resuming.filter (· != b) }
        let s := if stepRunning s r then endStep r Code.bargeFault (some b) s else s
        let s := if keepsLayout s.reach[n] then
            settleLosses n (s.onKeeper r fun k => { k with lost := insertLost g.logical k.lost })
          else s
        if inInit && decide (0 < liveCount s r) && s.reach[n].initPending then
          failReach n s.reach[n].initRec Code.bargeFault s
        else s
  | .twilight =>
    let r := twilightSvc
    let s := failBarge b s
    let s := s.onKeeper r fun k => { k with resuming := k.resuming.filter (· != b) }
    let s := if stepRunning s r then endStep r Code.bargeFault (some b) s else s
    twilightLost g.logical s
  | _ => failBarge b s

/-- BARGE_FAULT in a barge; a pick that its test held back is made. -/
def bargeFault (b : BargeId) (cause : BargeCause) (s : State) : State := settlePick (bargeLost b cause s)

/-! ### Errors of a service's step (R43, R151, R159) -/

/-- An error of memory, a tag or a key meets a service: the step in flight ends with it, INIT fails with it; with neither,
nothing but its alert follows; with the step that another error has ended, the order of R43 decides. -/
def stepError (r : SvcId) (status : Nat) (s : State) : State :=
  if s.keeper[r].form.isSome then endStep r status none s
  else if stepEnding s r then moreError r status s
  else
    match reachOf? r with
    | some n =>
      if s.reach[n].initPending && !s.keeper[r].resuming.isEmpty then failReach n s.reach[n].initRec status s
      else forAll s.keeper[r].resuming (fun b s => startBargeDredge b .resume s) s
    | none => forAll s.keeper[r].resuming (fun b s => startBargeDredge b .resume s) s

/-! ### Errors of stored words (R90, R134, R159) -/

/-- An error in a Basin word that its code cannot correct (R134): counted, alerted with island and bank, and met by the owner's
step; by nobody's when the read serves no reach. -/
def basinError (r : Option SvcId) (bank : Nat) (s : State) : State :=
  let s := s.onBasin fun b => { b with uncorrected := satInc 8 b.uncorrected, lastBank := bank }
  let owner := match r with
    | some r => alertReach r.val
    | none => 0xFF
  let s := alert Code.memUncorrectable AlertUnit.basin (34 + bank / 4) owner bank 0 s
  match r with
  | some r => stepError r Code.memUncorrectable s
  | none => s

/-- A single-bit error of a Basin word is corrected: the counter of its unit (R134, R406). -/
def countCorrected (word : Nat) (s : State) : State := chrBasin (8 * word / unitBytes) 5 1 s

/-- Read `n` bytes of a service's share for it: single-bit errors are corrected and counted; whether the bytes are delivered. -/
def readShare (r : SvcId) (x n : Nat) (s : State) : Bool × State :=
  let units := unitsOf s r
  match shareHits units s.basin.bad x n with
  | m :: _ => (false, basinError (some r) (8 * m / 786432) s)
  | [] =>
    (true, if shareHits units s.basin.weak x n = [] then s
      else forAll (shareHits units s.basin.weak x n) countCorrected (s.onBasin fun b =>
        { b with corrected := satAdd 16 b.corrected (shareHits units b.weak x n).length }))

/-- Read `n` bytes of a barge's scratchpad: single-bit errors are corrected and counted, another is a BARGE_FAULT (R90). -/
def readSpad (b : BargeId) (a n : Nat) (s : State) : Bool × State :=
  if hits s.barge[b].bad a n ≠ [] then (false, bargeFault b .scratchEcc s)
  else
    (true, if hits s.barge[b].weak a n = [] then s
      else chrEvent b.val 7 0xF (hits s.barge[b].weak a n).length (s.onBarge b fun g =>
        { g with corrected := satAdd 16 g.corrected (hits g.weak a n).length }))

/-- Read ranges of a barge's scratchpad and its share; a memory region has its own checks (R112, R153). -/
def readRanges (b : BargeId) : List Range → State → Bool × State
  | [], s => (true, s)
  | x :: l, s =>
    let (ok, s) := match x.space with
      | 0 => readSpad b x.start x.len s
      | 1 =>
        match svcOfBarge s.barge[b] with
        | some r => readShare r x.start x.len s
        | none => (true, s)
      | _ => (true, s)
    if ok then readRanges b l s else (false, s)

/-- Send an ordered exchange when its turn has come: exchange c after the peer's XACK c − 1 (R306). While a unit refuses the
read of its bytes, or a word of them cannot be corrected, it is not sent and waits (R134, R135; assumption 98). -/
def pumpExchange (l : LinkId) (r : ReachId) (s : State) : State :=
  let c : Fin 9 := ⟨r.val, by omega⟩
  let k := s.link[l].chan[c]
  let x := s.link[l].xchg[r]
  match k.ordered with
  | none => s
  | some n =>
    if n ≤ k.xackRecvd ∧ refusingUnits s (svcOf r) x.tx (x.len * 128) = [] then
      let d := shareGet s (svcOf r) x.tx (x.len * 128)
      let (ok, s) := readShare (svcOf r) x.tx (x.len * 128) s
      if ok then onChan l c (fun k => { k with ordered := none, sendQ := k.sendQ ++ exchangeFrames n d }) s else s
    else s

/-- Send the exchanges of a service whose turn has come. -/
def pumpExchanges (r : SvcId) (s : State) : State :=
  match reachOf? r with
  | some n => forAll (idxs 4) (fun l => pumpExchange l n) s
  | none => s

/-! ### INIT and sealing (R49, R168) -/

/-- Begin INIT on every logical barge of the schedule for the live count, or wait for a barge (R168). -/
def beginInit (n : ReachId) (rec : Option (Nat × Fin 2)) (s : State) : State :=
  let s := s.onReach n fun x => { x with initPending := true, initRec := rec }
  runOnAll (svcOf n) .init s

/-- SPILL_ANY (R48). -/
def spillAny (s : State) : Bool := s.iso.spillReach.toList.any id

/-- The reach enters SEALED (R49, R168, R358). -/
def sealReach (n : ReachId) (s : State) : State :=
  let r := svcOf n
  let s := setReachState n .sealed (s.onReach n fun x => { x with initPending := false, initRec := none })
  let s := { s with iso := { s.iso with
    spillSince := put s.iso.spillSince n (spillAny s), thermalSince := put s.iso.thermalSince n s.iso.thermal } }
  let s := s.onKeeper r fun k => { k with core := .running, nextCycle := 0, cycle := 0 }
  let s := s.onSlu fun u => { u with reach := upd u.reach n fun y => { y with step := 1, dozing := false } }
  forAll (bargesOf s r) clockBarge s

/-- INIT has completed on every logical barge: a loaded reach is SEALED and its LOAD answered DONE; a restaged one goes on. -/
def initDone (n : ReachId) (s : State) : State :=
  let x := s.reach[n]
  if x.initPending then
    let s := sealReach n s
    match x.initRec with
    | some (tag, sq) => answerLoad n tag Code.done sq s
    | none => s
  else s.onReach n fun x => { x with restage := false }

/-- The STEPDONE of INIT or RESUME on a barge has come. -/
def programDone (r : SvcId) (b : BargeId) (s : State) : State :=
  let s := s.onKeeper r fun k => { k with resuming := k.resuming.filter (· != b), refused := k.refused.filter (· != b) }
  let s := match s.keeper[r].form with
    | some c =>
      if c.started && decide (b ∈ c.waiting) then
        { s with flight := s.flight ++ [.stepToken b c.number (epochOf s r)] }
      else s
    | none => s
  if s.keeper[r].resuming.isEmpty && initRunning s r then
    match reachOf? r with
    | some n => initDone n s
    | none => s
  else s

/-! ### Finished Dredges -/

/-- A barge's Dredge has finished: what waited for it follows (R81, R104). -/
def bargeDredged (b : BargeId) (s : State) : State :=
  let next := s.barge[b].afterDredge
  let s := clearBarge b s
  match next with
  | .stay => s
  | .spare => becomeSpare b s
  | .resume =>
    match svcOfBarge s.barge[b] with
    | none => s
    | some r =>
      let s := resumeBarge r b (s.onBarge b fun g => { g with epoch := epochOf s r, cleared := false })
      match reachOf? r with
      | some n => settleLosses n s
      | none => s

/-- Finish the Dredge of whatever of a reach is still being Dredged. -/
def finishClearing (n : ReachId) (s : State) : State :=
  let s := forAll (bargesOf s (svcOf n)) clearBarge s
  let s := forAll s.reach[n].units (fun u => if s.basin.units.toList.getD u {} |>.cleared then id else clearUnit u) s
  discardPorts (svcOf n) s

/-- Barges of a reach that keeps its layout take the new epoch; a migration's destination returns to SPARE (R102, R173). -/
def reassign (n : ReachId) (s : State) : State :=
  let s := forAll ((bargesOf s (svcOf n)).filter fun b => s.barge[b].migDest) toSpare s
  let e := s.reach[n].epoch
  let s := forAll (bargesOf s (svcOf n)) (fun b s => s.onBarge b fun g => { g with epoch := e, cleared := false }) s
  forAll s.reach[n].units (fun u => setUnitEpoch u e) s

/-- Release every resource of a reach that enters EMPTY (R168, R198, R212, R258, R360, R380, R405). -/
def releaseReach (n : ReachId) (s : State) : State :=
  let r := svcOf n
  let x := s.reach[n]
  let s := forAll (bargesOf s r) toSpare (failHandshakes n s)
  let s := forAll x.units (fun u s => setUnitOwner u 0xF (setUnitEpoch u 0 s)) s
  let s := forAll x.units (fun u s => s.onBasin fun b =>
    match fin? 8 u with
    | some v => { b with units := upd b.units v fun y => { y with cleared := true } }
    | none => b) s
  let s := freeOwner n.val s
  let s := { s with port := vmap (fun (p : Port) =>
    { p with quota := put p.quota n 0, spillEn := put p.spillEn n false }) s.port }
  let lw : Link → Link := fun k =>
    { k with
      wheel := vmap (fun o => if o = n.val then 0xF else o) k.wheel
      chan := put k.chan ⟨n.val, by omega⟩ {} }
  let s := { s with link := vmap lw s.link }
  let s := s.onEph fun e => { e with slots := vmapIdx (fun j y =>
    if x.keyFirst ≤ j.val ∧ j.val < x.keyFirst + x.keyCount then {} else y) e.slots }
  let s := resetRings r (s.onKeeper r fun k => { k.dredged .reset with lost := [] })
  let s := clearReachCounters n true s
  let s := s.onSlu fun u => { u with reach := upd u.reach n fun y =>
    { budgetW8 := 0, boostEn := y.boostEn, dwellMs := y.dwellMs } }
  setReachState n .empty (s.onReach n fun y =>
    { state := y.state, loadGen := y.loadGen, pendingDebug := y.pendingDebug })

/-- A reach's Dredge has finished (R168, R171): EMPTY, or LOADING with a new epoch. -/
def reachDredged (n : ReachId) (s : State) : State :=
  let r := svcOf n
  let kind := s.reach[n].dredge
  let s := finishClearing n s
  match kind with
  | .none => s
  | .failedLoad =>
    let s := reassign n (newEpoch n s)
    let s := s.onKeeper r fun k => { k with core := .running }
    let rec? := s.reach[n].loadRec
    let s := s.onReach n fun x => { x with dredge := .none, loadRec := none }
    let s := match rec? with
      | some (tag, sq, st) => answerLoad n tag st sq s
      | none => s
    refill 34 (settleLosses n s)
  | .forOpen =>
    let s := reassign n (newEpoch n s)
    let s := s.onKeeper r fun k => { k with core := .running }
    let s := s.onReach n fun x => { x with dredge := .none, opened := true, drainCancel := false }
    refill 34 (settleLosses n (setReachState n .loading s))
  | _ => refill 34 (releaseReach n (s.onReach n fun x => { x with dredge := .none }))

end Sys2Proof.Machine
end

