-- ==== Sys2Proof/Machine/StcOps.lean ====
section
/-! DEFINITION. Shared operations of Staircase and Drydock (R330 to R341): the hybrid signature, manifests, patch records, the
control record, slot selection and the outcome of a stream. -/

namespace Sys2Proof.Machine

/-! ### The hybrid signature (R282) -/

/-- The message both parts sign. -/
def hybridMsg (p : Nat) (m : Bytes) : Bytes := ascii "GX24 HYBRID" ++ [0, BitVec.ofNat 8 p] ++ m

/-- μ of a message under an ML-DSA public key and the empty context (FIPS 204). -/
def mldsaMu (pk m : Bytes) : Bytes := Config.shake256 (Config.shake256 pk 64 ++ [0, 0] ++ m) 64

/-- Both parts of a hybrid signature verify, each by an operation of Astrolabe for Meridian, the second also where the first
fails: P-384 key Qx ‖ Qy, ML-DSA-87 key, purpose, message, signature. -/
def hybridVerify (ec pq : Bytes) (p : Nat) (m sig : Bytes) (s : State) : Bool × State :=
  let m1 := hybridMsg p m
  let (st, _, s) := astRun .p384Verify 0xE 0 none 0 (padTo 0 96 ec ++ sha384 m1 ++ padTo 0 96 (sig.take 96)) s
  let a := st == Code.done && s.ast.resVerdict
  let (st, _, s) := astRun .mldsaVerify 0xE 0 none 0 (padTo 0 2592 pq ++ mldsaMu pq m1 ++ padTo 0 4627 (sig.drop 96)) s
  let b := st == Code.done && s.ast.resVerdict
  (a && b && sig.length == 4723, s)

/-- Astrolabe serves Meridian now: nothing runs, no offer holds it, and Meridian is not halted (R264, R293, R386). -/
def astReady (s : State) : Bool := !astBusy s.ast && s.spdm.hold.isNone && !s.mer.halted

/-! ### Manifests (R332, R333) -/

def manifestBytes : Nat := 7667
def maxSet : Nat := 1040384

def componentMax : List Nat := [524288, 32768, 8192, 32768, 32768]

/-- OFFSET and SIZE of the five components. -/
def components (m : Bytes) : List (Nat × Nat) := (List.range 5).map fun i => (leAt m (120 + 8 * i) 4, leAt m (124 + 8 * i) 4)

def secVersion (m : Bytes) : Nat := leAt m 12 4
def targetDigest (m : Bytes) : Bytes := slice m 16 48
def baseDigest (m : Bytes) : Bytes := slice m 64 48
def setBytes (m : Bytes) : Nat := leAt m 112 4
def bodyBytes (m : Bytes) : Nat := leAt m 116 4
def fullImage (m : Bytes) : Bool := baseDigest m == zeros 48

/-- Check 1: every field meets R332. -/
def manifestForm (m : Bytes) : Bool :=
  m.length == manifestBytes && slice m 0 4 == [0x47, 0x58, 0x4D, 0x46] && leAt m 4 2 == 1 && leAt m 6 2 == 0x0204
    && decide (leAt m 8 1 < 8) && slice m 9 3 == zeros 3
    && decide (1 ≤ secVersion m) && decide (secVersion m ≤ 4096)
    && decide (1 ≤ setBytes m) && decide (setBytes m ≤ maxSet)
    && (!fullImage m || bodyBytes m == setBytes m)
    && ((components m).zip componentMax).all (fun c => decide (c.1.1 + c.1.2 ≤ setBytes m) && decide (c.1.2 ≤ c.2))
    && slice m 170 86 == zeros 86

/-- The Almanac key hash that SIGNER names: 48 bytes of six words (R310). -/
def signerHash (a : Almanac) (m : Bytes) : Bytes :=
  let k := leAt m 8 1
  let base := if bit k 2 then 0x0B8 else 0x0A0
  (List.range 6).flatMap fun i => leBytes 8 (a.val (base + 6 * (k % 4) + i)).toNat

/-- Checks 2 and 3: the signer's keys hash to a key hash that is unrevoked and of an accepted class. -/
def signerAccepted (s : State) (m : Bytes) : Bool :=
  let k := leAt m 8 1
  let dev := bit k 2
  let classOk := if s.mer.lcUndecided then !dev else
    match s.mer.lc with
    | .test => true
    | .dev => true
    | .prod => !dev
    | .rma => !dev
    | _ => false
  s.alm.part 4 != .lockedInvalid && sha384 (slice m 256 2688) == signerHash s.alm m
    && !s.alm.revoked.getLsbD (k % 4 + if dev then 8 else 0) && classOk

/-- Check 4: SEC_VERSION is not below counter 0. -/
def versionOk (s : State) (m : Bytes) : Bool := decide (s.alm.counters[0] ≤ secVersion m)

/-- Check 5: the hybrid signature over bytes 0 to 2,943. -/
def manifestSigned (m : Bytes) (s : State) : Bool × State :=
  hybridVerify (slice m 256 96) (slice m 352 2592) 2 (m.take 2944) (slice m 2944 4723) s

/-- First failure of a manifest in the order of R342's causes; none when it verifies. Check 5 runs whatever the others find
(R333). -/
def manifestFail (m : Bytes) (s : State) : Option Nat × State :=
  let (signed, t) := manifestSigned m s
  (if !manifestForm m then some Code.badDescriptor
    else if !signerAccepted s m then some Code.imageAuthFail
    else if !versionOk s m then some Code.rollbackRefused
    else if !signed then some Code.imageAuthFail
    else none, t)

/-! ### Patch records (R334) -/

/-- One ADD record's output. -/
def addBytes (src d : Bytes) : Bytes := List.zipWith (· + ·) src d

/-- Output of a patch body over a source set; none where the body is malformed. -/
def applyRecords (src : Bytes) : Nat → Bytes → Bytes → Option Bytes
  | 0, _, _ => none
  | f + 1, body, out =>
    if body.length < 8 then none
    else
      let op := leAt body 0 1
      let len := leAt body 4 4
      let rest := body.drop 8
      if slice body 1 3 ≠ zeros 3 then none
      else if op = 0 then (if len = 0 ∧ rest.isEmpty then some out else none)
      else if len = 0 ∨ maxSet < len then none
      else if op = 3 then
        if rest.length < len then none else applyRecords src f (rest.drop len) (out ++ rest.take len)
      else if op = 1 ∨ op = 2 then
        let at_ := leAt rest 0 4
        let need := if op = 2 then len else 0
        if rest.length < 4 + need ∨ src.length < at_ + len then none
        else
          let piece := slice src at_ len
          let d := (rest.drop 4).take need
          applyRecords src f (rest.drop (4 + need)) (out ++ if op = 2 then addBytes piece d else piece)
      else none

/-- The set a stream's body builds: the body itself for a full image, a patch over the running set otherwise. -/
def buildSet (m source body : Bytes) : Option Bytes :=
  if fullImage m then some body
  else
    match applyRecords source body.length body [] with
    | some out => if out.length = setBytes m then some out else none
    | none => none

/-! ### The Boot Store (R330, R331) -/

/-- One access of the Boot Store: it is retried once, and fails when the second attempt fails too (R331). -/
def storeOp (s : State) : Bool × State :=
  let n := s.stc.storeFaults
  if n = 0 then (true, s) else (decide (n < 2), s.onStc fun c => { c with storeFaults := n - 2 })

/-- Accesses in turn, up to the first that fails. -/
def storeOps : Nat → State → Bool × State
  | 0, s => (true, s)
  | n + 1, s => if (storeOp s).1 then storeOps n (storeOp s).2 else storeOp s

/-- One step of CRC-32. -/
def crcStep (c : Nat) (_ : Nat) : Nat := if c % 2 = 1 then (c / 2) ^^^ 0xEDB88320 else c / 2

/-- CRC-32 of IEEE 802.3, bits reflected (PRESUMED: the standard's text lies outside the spec; assumption 105). -/
def crc32 (b : Bytes) : Nat := (b.foldl (fun c x => (List.range 8).foldl crcStep (c ^^^ x.toNat)) 0xFFFFFFFF) ^^^ 0xFFFFFFFF

def sectorBytes : Nat := 0x10000

/-- Codes of the slot states, which a record's state bytes carry too (R345; DEDUCED for R335, assumption 105). -/
def stateCode : ImgState → Nat
  | .empty => 0
  | .writing => 1
  | .valid => 2
  | .pending => 3
  | .trial => 4
  | .active => 5
  | .failed => 6

/-- The state that a code names; one not used counts as EMPTY. -/
def stateOf (n : Nat) : ImgState := [ImgState.empty, .writing, .valid, .pending, .trial, .active, .failed].getD n .empty

/-- A control record of 64 bytes (R335). -/
def controlRecord (seq : Nat) (c : Staircase) : Bytes :=
  let b := [0x47, 0x58, 0x43, 0x52] ++ leBytes 4 seq ++ leBytes 1 (stateCode c.a.ctl) ++ leBytes 1 (stateCode c.b.ctl)
    ++ leBytes 1 (b2n c.forceDrydock) ++ zeros 49
  b ++ leBytes 4 (crc32 b)

/-- Records of a control sector, in order from its base. -/
def sectorRecords (b : Bytes) : List Bytes := (List.range (b.length / 64)).map fun i => slice b (64 * i) 64

def recordOk (r : Bytes) : Bool := leAt r 60 4 == crc32 (r.take 60)

def recordSeq (r : Bytes) : Nat := leAt r 4 4

/-- The record in force, and its sector: a valid CRC and the highest SEQ (R335). -/
def recordInForce (c : Staircase) : Option (Fin 2 × Bytes) :=
  let all := (idxs 2).flatMap fun i => ((sectorRecords c.sectors[i]).filter recordOk).map fun r => (i, r)
  all.foldl (fun best x => match best with
    | none => some x
    | some y => if recordSeq y.2 ≤ recordSeq x.2 then some x else some y) none

/-- The states that the record in force gives; without one both slots are EMPTY and FORCE_DRYDOCK is 0 (R335). -/
def readControl (c : Staircase) : Staircase :=
  let r := match recordInForce c with
    | some x => x.2
    | none => []
  { c with
    a := { c.a with ctl := stateOf (leAt r 8 1) }, b := { c.b with ctl := stateOf (leAt r 9 1) }
    forceDrydock := leAt r 10 1 != 0, ctlSeq := recordSeq r }

/-- A record appended to the sector in use; when that is full the other one is erased and takes it (R335). -/
def addRecord (c : Staircase) (r : Bytes) : Vector Bytes 2 :=
  let i := match recordInForce c with
    | some x => x.1
    | none => 0
  if c.sectors[i].length + 64 ≤ sectorBytes then put c.sectors i (c.sectors[i] ++ r) else put c.sectors (1 - i) r

/-- The last record cut by a loss of power: of what it held, the model leaves MAGIC alone, which fails the CRC (R335; DESIGN
CHOICE, assumption 105). -/
def cutRecord (c : Staircase) : Vector Bytes 2 :=
  match recordInForce c with
  | some (i, _) =>
    let b := c.sectors[i]
    put c.sectors i (b.take (b.length - 64) ++ [0x47, 0x58, 0x43, 0x52] ++ List.replicate 60 0xFF)
  | none => c.sectors

/-- A byte of a slot: the manifest at its base, the set at base + 0x2000 (R330). -/
def slotByte (x : ImgSlot) (o : Nat) : Byte := if o < 0x2000 then x.manifest.getD o 0xFF else x.set.getD (o - 0x2000) 0xFF

/-- A byte of the Boot Store (R330); what is erased reads 0xFF. -/
def storeByte (c : Staircase) (o : Nat) : Byte :=
  if o < 0x10000 then c.sectors[0].getD o 0xFF
  else if o < 0x20000 then c.sectors[1].getD (o - 0x10000) 0xFF
  else if o < 0x30000 then c.identity.getD (o - 0x20000) 0xFF
  else if 0x100000 ≤ o ∧ o < 0x200000 then slotByte c.a (o - 0x100000)
  else if 0x200000 ≤ o ∧ o < 0x300000 then slotByte c.b (o - 0x200000)
  else if 0x400000 ≤ o ∧ o < 0x1C00000 then memGet c.watch (o - 0x400000)
  else 0xFF

/-! ### Slots and the control record (R335, R336) -/

/-- Write a control record with changed states, SEQ one higher: whether it was written; a write that fails leaves the record in
force (R331, R335). -/
def tryWriteCtl (f : Staircase → Staircase) (s : State) : Bool × State :=
  let (ok, s) := storeOp s
  (ok, if ok then
      s.onStc fun c =>
        let seq := (c.ctlSeq + 1) % 2 ^ 32
        { f c with ctlSeq := seq, sectors := addRecord c (controlRecord seq (f c)), recordFresh := true }
    else s)

def writeCtl (f : Staircase → Staircase) (s : State) : State := (tryWriteCtl f s).2

def onSlot (toA : Bool) (f : ImgSlot → ImgSlot) (c : Staircase) : Staircase :=
  if toA then { c with a := f c.a } else { c with b := f c.b }

/-- A slot's state in the control record. -/
def setSlot (toA : Bool) (st : ImgState) (c : Staircase) : Staircase := onSlot toA (fun x => { x with ctl := st }) c

def slotOf (s : State) (a : Bool) : ImgSlot := if a then s.stc.a else s.stc.b

/-- The first failure of a slot at step 4: its manifest, its set's digest, or the Boot Store as either is read (R336, R342). -/
def slotFail (a : Bool) (s : State) : Option Nat × State :=
  let x := slotOf s a
  let (ok, s) := storeOp s
  if !ok then (some Code.storeFail, s)
  else
    let r := manifestFail x.manifest s
    match r.1 with
    | some c => (some c, r.2)
    | none =>
      let (ok, s) := storeOp r.2
      (if ok && sha384 x.set == targetDigest x.manifest then none else some Code.storeFail, s)

/-- Slots in the order step 4 tries them: pending, active, valid, A before B. -/
def tryOrder (s : State) : List Bool :=
  [ImgState.pending, .active, .valid].flatMap fun st => [true, false].filter fun a => (slotOf s a).ctl == st

/-- Try slots in turn: the slot that verifies, or the last failure met; a slot that fails is marked for the rest of the start
(R336). -/
def trySlots : List Bool → Nat → State → Option Bool × Nat × State
  | [], cause, s => (none, cause, s)
  | a :: l, _, s =>
    let r := slotFail a s
    match r.1 with
    | none => (some a, 0, r.2)
    | some c => trySlots l c (r.2.onStc (onSlot a fun x => { x with failedNow := true }))

/-- The standby slot: the one not booted from. -/
def standbyIsA (s : State) : Bool :=
  match s.mer.slot with
  | .a => false
  | .b => true
  | _ => true

/-- The firmware set the present start booted from. -/
def runningSet (s : State) : Bytes :=
  match s.mer.slot with
  | .a => s.stc.a.set
  | .b => s.stc.b.set
  | _ => []

/-! ### Outcome of a stream (R340, R341, R348) -/

/-- The 64-byte ACK of this block. -/
def ackBytes (s : State) (digest : Bytes) (status : Nat) : Bytes :=
  [0x47, 0x58, 0x41, 0x4B] ++ slice digest 0 8 ++ padTo 0 48 s.mer.deviceId ++ [0, BitVec.ofNat 8 status] ++ zeros 2

end Sys2Proof.Machine
end

