-- ==== Sys2Proof/Machine/BlockOps.lean ====
section
/-! DEFINITION. Shared operations on the whole block: the block-wide Dredge, resets, the security restart, the start of R224 up
to the end of its step 5, KEEP entry and wake, and the tamper response (R171, R223 to R229, R260, R372, R418 to R422, R434). -/

namespace Sys2Proof.Machine

/-! ### What a block-wide Dredge leaves (R171, R172) -/

/-- A barge after the block-wide Dredge that precedes a start: a FAILED barge stays FAILED (R96). -/
def Barge.restarted (g : Barge) : Barge :=
  { role := if g.role = .failed then .failed else .unassigned, faultCause := g.faultCause, faultCount := g.faultCount,
    corrected := g.corrected, uncorrected := g.uncorrected, nextMove := g.nextMove }

/-- A port after the block-wide Dredge: queues and tag lines empty, owners freed, outstanding responses to be discarded
(R160, R434). -/
def Port.dredgedAll (p : Port) : Port :=
  { p with
    wheel := Vector.replicate 64 0xF, nextWheel := none, quota := Vector.replicate 8 0
    spillEn := Vector.replicate 8 false, queue := Vector.replicate 9 [], backlog := Vector.replicate 9 [], tagLines := []
    txns := p.txns.map fun t => { t with discard := true } }

/-- A link whose channels are all CLOSED with nothing sent (R301). -/
def Link.closedAll (k : Link) : Link :=
  { k with chan := Vector.replicate 9 {}, wheel := Vector.replicate 16 0xF, xchg := Vector.replicate 8 {}, lastSession := none }

/-- The Almanac's fuses, and nothing decoded from them. -/
def Almanac.fuses (a : Almanac) : Almanac :=
  { words := a.words, spares := a.spares, sparesUsed := a.sparesUsed, marginal := a.marginal, spareMarginal := a.spareMarginal }

/-- The Boot Store, and no stream: one interrupted leaves its slot WRITING (R341). What the control record says is read at
step 4 of a start. -/
def Staircase.store (c : Staircase) : Staircase :=
  { a := { manifest := c.a.manifest, set := c.a.set }, b := { manifest := c.b.manifest, set := c.b.set }, sectors := c.sectors
    watch := c.watch, identity := c.identity, recordFresh := c.recordFresh, storeFaults := c.storeFaults }

/-- Sluice back under its boot ROM (R228): what it measured and the rails stay. -/
def Sluice.booted (u : Sluice) : Sluice :=
  { swings := u.swings, throttleS := u.throttleS, throttleMs := u.throttleMs, dirUp := u.dirUp, extreme := u.extreme
    means := u.means, ext := u.ext, band := u.band, tempMax := u.tempMax, tempMean := u.tempMean
    die := vmap (fun (d : Die) => { d with excluded := false }) u.die
    rail := vmap (fun (r : Rail) => { r with fault := false }) u.rail }

/-- A running Almanac command is interrupted by a reset or restart: nobody is answered (R325, R419). -/
def almDrop (s : State) : State :=
  almInterrupt Code.almMarginal (s.onAlm fun a => { a with busy := a.busy.map fun x => (.internal, x.2) })

/-- A keeper core with nothing but its timer, which no Dredge and no firmware restart clears (R189). -/
def Keeper.timer (k : Keeper) : Keeper := { timeCus := k.timeCus, nowCus := k.nowCus, lastTick := k.lastTick }

/-- The block-wide Dredge of a security restart, an exit from Drydock or a start that follows one: every reach EMPTY, every
epoch 0, every key invalid; ports, System Port and error registers keep their values (R171, R223, R434). -/
def dredgeBlock (s : State) : State :=
  let s := almDrop s
  let s := if s.reach.toList.any (fun x => x.state != .empty) then raiseIrq 10 s else s
  { s with
    reach := Vector.replicate 8 {}
    barge := vmap Barge.restarted s.barge
    spareClock := 0
    basin := { corrected := s.basin.corrected, uncorrected := s.basin.uncorrected, lastBank := s.basin.lastBank }
    port := vmap Port.dredgedAll s.port
    twPkg := none
    loader := {}
    keeper := vmap Keeper.timer s.keeper
    ring := Vector.replicate 9 {}
    sys := { s.sys with
      wheel := Vector.replicate 64 0xF, requests := Vector.replicate 9 []
      txns := s.sys.txns.map fun t => { t with discard := true } }
    eph := { tamper := s.eph.tamper }
    ast := { invFails := s.ast.invFails }
    link := vmap Link.closedAll s.link
    spdm := {}
    eye := { s.eye with tapUnlocked := false, win := none, haltBit := false }
    col := {}
    stc := { s.stc.store with lastStatus := s.stc.lastStatus, bytesOut := s.stc.bytesOut }
    twp := {}
    alm := s.alm.fuses
    slu := s.slu.booted
    iso := { s.iso with spillReach := Vector.replicate 8 false, thermal := false }
    flight := [] }

/-- Every island but 61 in reset after the block-wide Dredge (R419): only the alert log, Sluice's own island, the fuses, the
Boot Store, the count of security restarts and input levels outlast it. Island 58 is reset, so every GLB_ISL_CAL_n reads its
reset values; the spec does not say what GLB_ISL_STATUS_n shows of an island in reset: its rail stays up, and the model has its
synthesiser unlocked, so POWERED reads 1, CLK_LOCKED 0 and FREQ_MHZ 0 (DESIGN CHOICE, assumption 62). -/
def resetBlock (s : State) : State :=
  let s := almDrop s
  { State.reset with
    params := s.params
    pins := s.pins
    alerts := s.alerts
    windows := s.windows
    isl := vmapIdx (fun (i : Fin 64) (x : Island) => if i.val = 61 then { x with cycles := 0, seq := 0, calValid := false }
      else { powered := x.powered, steady := false }) s.isl
    mer := { lockstep := s.mer.lockstep }
    alm := s.alm.fuses
    stc := s.stc.store
    slu := s.slu.booted
    link := vmap (fun (k : Link) => { ready := k.ready }) s.link
    freeCtr := s.freeCtr
    out := s.out
    events := s.events
    pending := s.pending }

/-- The state while por_n is low: fuses, the Boot Store and input levels only (R418). `recordCut`: power failed as the last
control record was being written (R335). -/
def porBlock (recordCut : Bool) (s : State) : State :=
  let s := almDrop s
  { State.reset with
    params := s.params
    pins := { s.pins with porN := false, tamperAck := false }
    alm := s.alm.fuses
    stc := { s.stc.store with sectors := if recordCut && s.stc.recordFresh then cutRecord s.stc else s.stc.sectors, recordFresh := false }
    link := vmap (fun (k : Link) => { ready := k.ready }) s.link
    freeCtr := s.freeCtr
    out := s.out
    events := s.events
    pending := s.pending }

/-! ### The start of R224 -/

/-- A tamper input that has been counted is still low (R422). -/
def tamperLow (s : State) : Bool := s.pins.tamperN &&& s.params.tamperMask != s.params.tamperMask

/-- An island other than a barge's or a link's leaves reset at its nominal clock. -/
def releaseIsland (i : Fin 64) (s : State) : State :=
  if i.val < 34 ∨ (54 ≤ i.val ∧ i.val ≤ 57) then s else powerIsl i (nominalMhz s i.val) false s

/-- Step 1: every store, key and measurement register empty, the ROM measured (R224, R229, R347, R388, R422). -/
def startBlock (s : State) : State :=
  let latch := tamperLow s
  let s := forAll (idxs 64) releaseIsland s
  let s := { s with
    pins := { s.pins with tamperAck := latch }
    mer := { lockstep := s.mer.lockstep, startPs := secPs s, step := .almanac }
    meas := Vector.replicate 16 {}
    eph := { tamper := latch }
    ast := {}
    twp := {}
    spdm := {}
    col := {}
    alm := s.alm.fuses
    slu := s.slu.booted
    eye := { s.eye with tapUnlocked := s.alm.lc == some .blank || s.alm.lc == some .test }
    keeper := vmap Keeper.timer s.keeper
    chr := { s.chr with unit := vmap (fun (x : ChrUnit) =>
      { cycles := 0, cyclesOvf := false, prog := vmap ProgCtr.clear x.prog, always := Vector.replicate 6 0 }) s.chr.unit } }
  syncRails (extend 0 Config.romDigest.toList s)

/-- A start begins unless a reset input or ref_clk holds the block, it is OFF, or a third security restart holds it HALTED
until por_n (R223, R418 to R420, R423). -/
def startIfFree (s : State) : State :=
  if s.pins.porN && s.pins.sysRstN && s.pins.refClkOk && s.slu.state != .off && s.mer.lockstep != 3 then startBlock s else s

/-- Requests end, the operator is alerted, the block-wide Dredge runs and islands other than 61 enter reset (R419, R420). -/
def enterReset (status : Nat) (s : State) : State := resetBlock (alert status AlertUnit.sluice 61 0xFF 0xFFFF 0 s)

/-- The security restart of R223. -/
def securityRestart (s : State) : State :=
  let n := min 3 (s.mer.lockstep + 1)
  let s := dredgeBlock (alert Code.securityRestart AlertUnit.meridian 60 0xFF 0xFFFF 0 s)
  let s := { s with mer := { lockstep := n, phase := if n = 3 then .halted else .rom, cause := if n = 3 then Code.securityRestart else 0,
                             lc := .blank } , meas := Vector.replicate 16 {} }
  if n = 3 then s else startBlock s

/-! ### Steps 2 to 5 -/

/-- Enabled barges keep their place; others are DISABLED (R315, R81). -/
def disableBarges (s : State) : State :=
  forAll (idxs 34) (fun b s =>
    if b ∈ s.alm.barges then powerIsl (islOf b) 400 false s
    else unpowerIsl (islOf b) (s.onBarge b fun g => { g with role := .disabled })) s

def enableLinks (s : State) : State :=
  forAll (idxs 4) (fun l s =>
    let i : Fin 64 := ⟨54 + l.val, by omega⟩
    if l ∈ s.alm.links then powerIsl i (nominalMhz s i.val) false s else unpowerIsl i s) s

/-- The Drydock of R342. -/
def enterDrydock (cause : Nat) (s : State) : State :=
  bindDrydock (s.onMer fun m => { m with phase := .drydock, slot := .drydock, cause, step := .done })

/-- Boot path as the model lays it out for MER_MEAS_2 (assumption 13). -/
def bootPathBytes (slot : Nat) (manifest : Bytes) (drydock : Bool) : Bytes :=
  leBytes 1 slot ++ sha384 manifest ++ leBytes 1 (b2n drydock)

/-- Step 4: slot selection, from the control record in force (R335, R336). A Boot Store whose control sectors cannot be read
gives no slot (R342); a record that cannot be written leaves the one in force. -/
def selectSlot (s : State) : State :=
  let (readable, s) := storeOp s
  let s := if readable then s.onStc readControl else s
  if s.stc.forceDrydock then
    let s := writeCtl (fun c => { c with forceDrydock := false }) s
    enterDrydock Code.done (extend 2 (Config.stateDigest 2 (bootPathBytes 2 [] true)).toList s)
  else
    let old : ImgSlot → ImgSlot := fun x => if x.ctl = .trial then { x with ctl := .failed } else x
    let s := if s.stc.a.ctl = .trial ∨ s.stc.b.ctl = .trial then writeCtl (fun c => { c with a := old c.a, b := old c.b }) s else s
    let r := trySlots (tryOrder s) (if readable then Code.badDescriptor else Code.storeFail) s
    let s := r.2.2
    match r.1 with
    | none => enterDrydock r.2.1 (extend 2 (Config.stateDigest 2 (bootPathBytes 2 [] true)).toList s)
    | some a =>
      let x := slotOf s a
      let s := if x.ctl = .pending then writeCtl (setSlot a .trial) s else s
      let s := s.onStc fun c => { c with running := secVersion x.manifest }
      let s := extend 2 (Config.stateDigest 2 (bootPathBytes (if a then 0 else 1) x.manifest false)).toList s
      s.onMer fun m => { m with slot := if a then .a else .b, step := .slotChosen }

/-- Bytes of component `i` of a firmware set. -/
def component (x : ImgSlot) (i : Nat) : Bytes :=
  match (components x.manifest)[i]? with
  | some c => slice x.set c.1 c.2
  | none => []

/-- The slot a start booted from. -/
def bootedSlot (s : State) : ImgSlot := if s.mer.slot = .b then s.stc.b else s.stc.a

/-- Microcode goes into every barge that the quick pass has passed, which then enters SPARE (R81, R93, R227). -/
def loadMicrocode (s : State) : State :=
  if s.col.quickDone && (s.mer.step == .firmware) then
    let v := s.mer.fwVersions.getD 2 0
    let code := memPut [] 0 (component (bootedSlot s) 2)
    let s := forAll ((idxs 34).filter fun b => s.barge[b].role == .unassigned) (fun b s =>
      clockIsland b (enterSpare b (s.onBarge b fun g => { g with mcode := code, mcodeVersion := v, mcodeLoaded := true }))) s
    syncRails s
  else s

/-- Meridian waits before step 6 while a memory port is not ready (R225). -/
def checkWait (s : State) : State :=
  s.onMer fun m => { m with waitMem := m.step == .firmware && s.col.quickDone && !(s.port.toList.all fun p => p.ctrlReady) }

/-! ### KEEP (R370, R372, R434) -/

/-- A port island loses power: its credits, tags and CTRL_READY take their reset values; so do its queues' transactions. -/
def Port.repowered (p : Port) : Port :=
  { p with ctrlReady := false, rdCredits := 0, wrCredits := 0, txns := [], count := 0 }

def isMemPortIsl (i : Nat) : Bool := decide (38 ≤ i) && decide (i ≤ 53)

/-- KEEP entry: the keeper cores' counters are cleared with their rail (R370, R405). -/
def keepEnter (s : State) : State :=
  withNotice (fun s =>
    let s := s.onSlu fun u => { u with state := .keep, keepPending := false }
    let s := forAll (idxs 34) clockIsland s
    let s := forAll (idxs 64) (fun i s =>
      if i.val < 34 then s
      else if i.val ≤ 57 ∨ i.val = 59 ∨ i.val = 63 then unpowerIsl i s
      else if i.val = 58 then setClock i 100 s
      else if i.val = 60 ∨ i.val = 62 then setClock i 50 s
      else s) s
    let s := forAll (idxs 8) (fun n => clearUnitCounters (59 + n.val)) s
    syncRails { s with port := vmap Port.repowered s.port }) s

/-- Power the islands of KEEP again (R372): barges by role, those outside reaches Dredged first. -/
def keepWake (s : State) : State :=
  if s.slu.state = .keep then
    withNotice (fun s =>
      let s := (s.onSlu fun u => { u with state := .run }).onSys fun y => { y with count := 0 }
      let s := s.onCol fun c => { c with paused := false }
      let s := forAll (idxs 64) (fun i s =>
        if i.val < 34 then s
        else if 54 ≤ i.val ∧ i.val ≤ 57 then
          (if s.alm.links.any fun l => 54 + l.val == i.val then powerIsl i (nominalMhz s i.val) false s else s)
        else powerIsl i (nominalMhz s i.val) false s) s
      let s := forAll (idxs 34) (fun b s =>
        let g := s.barge[b]
        if g.role = .spare ∨ g.role = .underTest then clockIsland b (clearBarge b s) else clockIsland b s) s
      syncRails s) s
  else s.onSlu fun u => { u with keepPending := false }

/-- An entry to KEEP that waits: no slice and no migration is in progress any more, and every crossing is empty (R24, R102,
R401). -/
def settleKeep (s : State) : State :=
  if s.slu.keepPending && s.flight.isEmpty && s.col.island.isNone && (s.col.barge.isNone || s.col.paused)
      && !(s.barge.toList.any fun g => g.migrating) then keepEnter s
  else s

/-! ### Tamper (R171, R260, R353) -/

/-- Ephemeris at a tamper input: every slot invalid and zero, the command in progress ended, the latch set (R260). -/
def zeroKeys (s : State) : State :=
  s.onEph fun e =>
    { e with
      slots := vmap (fun (x : Slot) => { x with state := .invalid, key := [] }) e.slots
      busy := false, status := if e.busy then Code.badState else e.status, target := none, tamper := true
      key := zeros 64, ctx := zeros 128 }

/-- A running Almanac command is interrupted at a tamper input (R325). -/
def tamperAlmanac (s : State) : State := if s.alm.busy.isSome then syncRail 5 (almInterrupt Code.badState s) else s

/-- tamper_ack; loads, sessions and streams end, and the TAP is locked (R171, R260, R341, R388). -/
def tamperEnds (s : State) : State :=
  { s with
    pins := { s.pins with tamperAck := true }
    loader := { s.loader with job := none, queue := [], state := if s.loader.job.isSome then .failed else s.loader.state }
    spdm := {}
    stc := { s.stc with job := none }
    eye := { s.eye with tapUnlocked := false } }

/-- The tamper response: keys zeroed, latch set, every reach Dredged, Astrolabe wiped, channels emptied; tamper_ack. -/
def tamperResponse (s : State) : State :=
  let s := astAbort (tamperEnds (tamperAlmanac (zeroKeys s)))
  let s := forAll ((idxs 8).filter fun n => s.reach[n].state != .empty) (fun n => beginDredge n .tamper) s
  let s := forAll (idxs 4) (fun l => dropChan l 8) s
  let s := if s.mer.twilightModel || s.mer.twilightEnding then releaseTwilight s else s
  let s := forAll (idxs 32) clearChannel s
  s.onCol fun c => { c with slice := 0, verdict := none, island := none, islRepeat := false }

/-- A tamper input in KEEP: the Basin quarters and the security island are powered and clocked for the Dredge (R372). -/
def tamperClocks (s : State) : State :=
  if s.slu.state = .keep then
    syncRails (forAll [34, 35, 36, 37, 60] (fun (i : Fin 64) s => powerIsl i (nominalMhz s i.val) false s) s)
  else s

end Sys2Proof.Machine
end

