-- ==== Sys2Proof/Machine/Flags.lean ====
section
/-! DEFINITION. Flag and status computations: words of the status registers, status outputs and interrupt lines (R18, R48, R49,
R219, R244, R328, R345, R376, R421). -/

namespace Sys2Proof.Machine

/-- A field of a word: value at a bit. -/
def fld (v lo : Nat) : Nat := v * 2 ^ lo

/-- A signed value in `w` bits. -/
def signedBits (w : Nat) (v : Int) : Nat := (v % (2 ^ w : Int)).toNat

def word (n : Nat) : Word := BitVec.ofNat 32 n

/-- SPARES_FREE (R82). -/
def sparesFree (s : State) : Nat := min 2 ((idxs 34).filter fun b => s.barge[b].role == .spare).length

/-! ### Status outputs and clamps (R219, R260, R416, R417, R421) -/

/-- An output group of an island drives its clamp value: por_n is low, every rail is off, or the island is unpowered or in
reset; island 61's groups only in the first two cases (R416, R417). -/
def groupClamped (s : State) (i : Fin 64) : Bool :=
  !s.pins.porN || s.slu.state == .off || (i.val != 61 && (!s.isl[i].powered || s.isl[i].inReset))

/-- The output groups (R412, R416). -/
inductive OutGroup where
  | system | interrupts
  | memory (p : Fin 16)
  | link (l : Fin 4)
  | management | bootStore | tap | power | tamperAck | ready | alert
  deriving DecidableEq, Repr

/-- The island that drives a group (R412). -/
def OutGroup.island : OutGroup → Fin 64
  | .system => 58
  | .interrupts => 58
  | .memory p => ⟨38 + p.val, by omega⟩
  | .link l => ⟨54 + l.val, by omega⟩
  | .management => 62
  | .bootStore => 60
  | .tap => 62
  | .power => 61
  | .tamperAck => 61
  | .ready => 60
  | .alert => 61

/-- PARAM_CLAMP_G of a group (R416). -/
def OutGroup.clamp (p : Params) : OutGroup → Nat
  | .system => p.clampSys
  | .interrupts => p.clampIrq
  | .memory _ => p.clampMpt
  | .link _ => p.clampAqd
  | .management => p.clampMgmt
  | .bootStore => p.clampBs
  | .tap => p.clampDbg
  | .power => p.clampPwr
  | .tamperAck => p.clampTamperAck
  | .ready => p.clampReady
  | .alert => p.clampAlert

/-- The clamp value on bit k of a group's parameter while the group is clamped; none while the group is driven. -/
def clampOut (s : State) (g : OutGroup) (k : Nat) : Option Bool :=
  if groupClamped s g.island then some ((g.clamp s.params).testBit k) else none

/-- A signal of a group on bit k of its parameter: its clamp value, or what drives it. -/
def groupOut (s : State) (g : OutGroup) (k : Nat) (value : Bool) : Bool := (clampOut s g k).getD value

/-- block_ready (R421). -/
def blockReady (s : State) : Bool := groupOut s .ready 0 (s.mer.phase == .full)

/-- alert_n (R421). -/
def alertN (s : State) : Bool := groupOut s .alert 0 (!alertUnread s)

/-- tamper_ack (R260). -/
def tamperAckOut (s : State) : Bool := groupOut s .tamperAck 0 s.pins.tamperAck

/-- The IDCODE of the TAP (R387). -/
def tapIdcode (s : State) : Word := BitVec.ofNat 32 (fld 2 28 + fld 0x4758 12 + fld s.params.tapMfrId.toNat 1 + 1)

/-- Interrupt lines (R219): a line is asserted while a source routed to it is pending; a bus takes one clamp bit on every line. -/
def irqLine (s : State) (l : Fin 8) : Bool :=
  groupOut s .interrupts 0
    ((idxs 16).any fun i => s.sys.irqPend[i] && s.sys.route[i].mode == 1 && s.sys.route[i].line == l.val)

def phaseCode : Phase → Nat
  | .rom => 0
  | .verify => 1
  | .twilight => 2
  | .full => 3
  | .twilightOnly => 4
  | .drydock => 5
  | .provision => 6
  | .halted => 7

def lcCode : Lc → Nat
  | .blank => 0
  | .test => 1
  | .dev => 2
  | .prod => 3
  | .rma => 4
  | .scrap => 5

def slotCode : BootSlot → Nat
  | .a => 0
  | .b => 1
  | .drydock => 2
  | .none => 3

/-- GLB_BOOT_STATUS (R244). -/
def bootStatus (s : State) : Word :=
  let m := s.mer
  word (phaseCode m.phase + fld (if m.lcMarginal then 0 else lcCode m.lc) 4 + fld (b2n m.lcMarginal) 7
    + fld (b2n m.lcPending) 8 + fld (slotCode m.slot) 9 + fld (b2n m.twilightModel) 11 + fld (b2n m.rootsOk) 12
    + fld (b2n m.waitMem) 13 + fld m.lockstep 14 + fld m.cause 16)

/-- GLB_BOOT_TIME (R244). -/
def bootTime (s : State) : Word := word (s.mer.twilightMs + fld s.mer.fullMs 16)

/-- GLB_VARIANT (R328). -/
def variantWord (s : State) : Word :=
  let a := s.alm
  word (a.model + fld a.barges.length 4 + fld a.links.length 10 + fld (b2n a.boost) 13 + fld (b2n a.degraded) 14)

def partCode : PartState → Nat
  | .unlocked => 0
  | .locked => 1
  | .lockedInvalid => 2

/-- A read of the Almanac runs: the full read of step 2, or a critical read. -/
def seeing (s : State) : Bool := s.mer.step == .almanac || (s.alm.busy.any fun j => j.2 == .critical)

/-- GLB_ALM_STATUS (R328). -/
def almStatusWord (s : State) : Word :=
  let a := s.alm
  word (a.lcGood + fld a.lockGood 3 + fld a.revGood 6 + fld (b2n (seeing s)) 9
    + total ((idxs 5).map fun k => fld (partCode a.parts[k]) (10 + 2 * k.val)) + fld a.sparesShown 20)

/-- A slot that failed verification at the present start reads FAILED (R336, R345). -/
def imgCode (x : ImgSlot) : Nat := if x.failedNow then stateCode .failed else stateCode x.ctl

/-- GLB_STC_STATUS (R345). -/
def stcStatus (s : State) : Word :=
  let c := s.stc
  word (imgCode c.a + fld (imgCode c.b) 3 + fld (match c.job with
    | none => 0
    | some j => if j.phase = .applying then 2 else 1) 6 + fld c.lastStatus 8 + fld (b2n c.cntPending) 16)

/-- GLB_STC_SECVER (R345). -/
def stcSecver (s : State) : Word := word (s.alm.counters[0] + fld (if s.mer.phase = .drydock then 0 else s.stc.running) 16)

def powerCode : PState → Nat
  | .run => 0
  | .trim => 1
  | .doze => 2
  | .keep => 3
  | .off => 0

def causeMask (c : Causes) : Nat := mask [c.temp, c.crit, c.ramp, c.inlet, c.flow, c.stack, c.sensor, c.envelope]

/-- SLU_STATE (R376). -/
def sluState (s : State) : Word :=
  let u := s.slu
  word (powerCode (powerState s) + fld (b2n u.trimOn) 3 + fld (b2n u.bootRom) 4 + fld (b2n u.platform) 5
    + fld (if u.platform then u.pstep else 0) 6 + fld (b2n (u.platform && u.pstep == 6)) 9 + fld (causeMask u.causes) 10)

/-- SLU_POWER (R376). -/
def sluPower (s : State) : Word := word (s.slu.estW8 % 1024)

def excludedDies (s : State) : Nat := (s.slu.die.toList.filter fun d => d.excluded).length

/-- SLU_TEMP (R376). -/
def sluTemp (s : State) : Word :=
  word (signedBits 11 s.slu.tempMax + fld (signedBits 11 s.slu.tempMean) 16 + fld (min 31 (excludedDies s)) 27)

/-- Sum of the reaches' budgets. -/
def budgetSum (s : State) : Nat := total (s.slu.reach.toList.map fun x => x.budgetW8)

/-- Headroom of R360 in eighths of a watt. -/
def headroom (s : State) : Nat := 416 - budgetSum s

/-- Smallest budget of a reach: 3 W for each flight (R360). -/
def budgetMin (s : State) (n : ReachId) : Nat := 24 * s.reach[n].flights

/-- Effective budget of a reach (R360); rounded down to an eighth of a watt. -/
def effBudget (s : State) (n : ReachId) : Nat :=
  let b := s.slu.reach[n].budgetW8
  if s.slu.trimOn then max (budgetMin s n) (b * (s.slu.envelope - 8) / 52) else b

def boolMask8 (v : Vector Bool 8) : Nat := mask v.toList

/-- SPARES_FREE as GLB_ISO_STATUS shows it (R48): 0 in the phases that leave barges UNASSIGNED (R81), and else its reset value
until the quick pass of a start ends. -/
def sparesShown (s : State) : Nat :=
  if s.mer.phase = .drydock ∨ s.mer.phase = .provision ∨ s.mer.phase = .halted then 0
  else if s.col.quickDone then sparesFree s else 2

/-- GLB_ISO_STATUS (R48). -/
def isoStatus (s : State) : Word :=
  let lo := b2n (spillAny s) + fld (b2n s.iso.thermal) 1
  word (lo + fld lo 2 + fld (boolMask8 s.iso.spillReach) 8 + fld (sparesShown s) 16)

/-- GLB_ISO_HISTORY (R49). -/
def isoHistory (s : State) : Word := word (boolMask8 s.iso.spillSince + fld (boolMask8 s.iso.thermalSince) 8)

/-! ### The reach table mirror (R175) -/

def reachStateCode : RState → Nat
  | .empty => 0
  | .loading => 1
  | .sealed => 2
  | .draining => 3
  | .dredging => 4

def debugCode : Debug → Nat
  | .closed => 0
  | .observe => 1
  | .opened => 2

/-- GLB_REACH_STATE_n. -/
def reachState (s : State) (n : ReachId) : Word :=
  let x := s.reach[n]
  word (reachStateCode x.state + fld (b2n x.locked) 3 + fld (debugCode x.debug) 4 + fld (b2n x.opened) 6
    + fld (b2n (x.state == .draining && x.drainCancel)) 7 + fld x.epoch 16)

/-- GLB_REACH_LAYOUT_n. -/
def reachLayout (s : State) (n : ReachId) : Word :=
  let x := s.reach[n]
  word (x.flights + fld (liveCount s (svcOf n)) 4 + fld (mask ((List.range 8).map fun u => x.units.contains u)) 16)

/-- GLB_REACH_SLOTS_n. -/
def reachSlots (s : State) (n : ReachId) : Word := word (s.reach[n].slotCount + fld s.reach[n].slotPhase 8)

/-- GLB_REACH_KEYS_n. -/
def reachKeys (s : State) (n : ReachId) : Word := word (s.reach[n].keyFirst + fld s.reach[n].keyCount 8)

/-- GLB_REACH_AQD_n. -/
def reachAqd (s : State) (n : ReachId) : Word := word (total ((idxs 4).map fun l => fld s.reach[n].aqd[l] (8 * l.val)))

end Sys2Proof.Machine
end

