-- ==== Sys2Proof/Machine/MgmtOps.lean ====
section
/-! DEFINITION. Who may use the Management Port: refusals by phase, and operator commands inside an operator session (R242,
R290, R295, R372, R373). -/

namespace Sys2Proof.Machine

/-- Target code of an operator session (R292). -/
def operatorTarget : Nat := 0x0E

/-! ### SPDM sessions (R292) -/

/-- Slots of session `i`: request direction and response direction (R247). -/
def sessSlots (i : Fin 8) : SlotId × SlotId := (⟨8 + 2 * i.val, by omega⟩, ⟨9 + 2 * i.val, by omega⟩)

/-- A session ends: its slots are invalidated, and Astrolabe is no longer held for its offer (R292, R293). -/
def endSession (i : Fin 8) (s : State) : State :=
  let s := invalidateSlot (sessSlots i).2 (invalidateSlot (sessSlots i).1 s)
  s.onSpdm fun x =>
    { x with sessions := put x.sessions i none, hold := if x.hold.any fun h => h.1 == i then none else x.hold }

/-- One secured message (MCTP type 0x06) and its answer: a record of each direction is used; a session whose slot is spent ends after it. A
message whose record may not be used is discarded without an answer (R257, R292). -/
def inSession (what : String) (i : Fin 8) (y : Session) (f : State → State) (s : State) : State :=
  let s := asType 0x06 s
  let (a, _, s) := useKey (sessSlots i).1 .meridianGcm y.target s
  let (b, _, s) := useKey (sessSlots i).2 .meridianGcm y.target s
  if a ≠ Code.done ∨ b ≠ Code.done then refuse what (if a ≠ Code.done then a else b) (endSession i s)
  else
    let s := f (s.onSpdm fun x => { x with sessions := put x.sessions i (some { y with lastAt := secPs s }) })
    if s.spdm.sessions[i].isSome && !(slotValid s (sessSlots i).1 && slotValid s (sessSlots i).2) then endSession i s else s

/-- An established session with a target. -/
def sessionOf (s : State) (target : Nat) : Option (Fin 8 × Session) :=
  (idxs 8).findSome? fun i => match s.spdm.sessions[i] with
    | some y => if y.target = target ∧ y.phase = .established then some (i, y) else none
    | none => none

/-- The management island runs and is out of reset: messages are taken. -/
def mgmtUp (s : State) : Bool := s.isl[62].powered && !s.isl[62].inReset

/-- The status a GX request other than GX_IDENTITY is refused with by phase or condition; none in service (R295). -/
def gxRefusal (s : State) : Option Nat :=
  match s.mer.phase with
  | .full =>
    if s.eph.tamper || s.ast.state == .faulted || !s.eph.drbgOk then some Code.badState else none
  | .rom => some Code.badState
  | .verify => some Code.badState
  | .twilight => some Code.badState
  | _ => some (if s.mer.cause = 0 then Code.badState else s.mer.cause)

/-- One MCTP message reaches the management island (R406): of type 0x05 unless it is a secured one (R288). -/
def mctpMessage (s : State) : State := asType 0x05 (chrEvent Chr.management 2 0xF 1 s)

/-- Meridian handles a command (R406). -/
def handled (s : State) : State := chrEvent Chr.meridian 2 0xF 1 s

/-- An operator command: KEEP is left first, a halted Meridian handles nothing, and a session of the operator is needed. -/
def operator (what : String) (f : State → State) (s : State) : State :=
  if !mgmtUp s then refuse what Code.badState s
  else
    let s := mctpMessage (keepWake s)
    if s.mer.halted then refuse what Code.badState s
    else
      let s := handled s
      match gxRefusal s with
      | some st => refuseMgmt what st s
      | none => match sessionOf s operatorTarget with
        | some (i, y) => inSession what i y f s
        | none => refuseMgmt what Code.badState s

/-- An operator command that its own table refuses BAD_STATE in every phase but FULL (R344, R373, R390). -/
def fullOperator (what : String) (f : State → State) (s : State) : State :=
  if mgmtUp s && !s.mer.halted && s.mer.phase != .full then refuseMgmt what Code.badState (handled (mctpMessage (keepWake s)))
  else operator what f s

/-- A command that the ROM accepts in PROVISION outside any session, in a message of MCTP type 0x7F (R226, R242, R327, R379), and
the operator in service. -/
def provisioner (what : String) (f : State → State) (s : State) : State :=
  if s.mer.phase = .provision ∧ !s.mer.halted then f (handled (asType 0x7F (mctpMessage s))) else operator what f s

/-! ### Requests that need Astrolabe (R293) -/

/-- Astrolabe cannot serve an owner now: it runs, or an offer of another owner holds it (R264, R293). -/
def astHeld (owner : Nat) (s : State) : Bool := astBusy s.ast || (s.spdm.hold.any fun h => h.2 != owner)

/-- A request that needs Astrolabe for an owner, or is answered ResponseNotReady: RDTExponent 15 and a token (R293). -/
def withAst (ep owner : Nat) (req : Instr) (f : State → State) (s : State) : State :=
  if astHeld owner s then
    let t := s.spdm.nextToken
    answerSpdm .responseNotReady [15, BitVec.ofNat 8 t] (s.onSpdm fun x =>
      { x with nextToken := (t + 1) % 256, deferred := x.deferred ++ [(ep, t, req)] })
  else f s

/-- Answer a command by a judgement: a refusal's status, or DONE with its effect. -/
def judged (what : String) (bad : Option Nat) (f : State → State) (s : State) : State :=
  match bad with
  | some st => refuseMgmt what st s
  | none => answer Code.done [] (f s)

end Sys2Proof.Machine
end

