-- ==== Sys2Proof/Machine/Almanac.lean ====
section
/-! DEFINITION. The Almanac's commands (R316 to R329) and the life-cycle commands (R238 to R243). -/

namespace Sys2Proof.Machine

/-! ### The end of a job -/

/-- Words of a critical read (R319). -/
def criticalWord (w : Nat) : Bool := decide (w < 0x140) || (decide (0x300 ≤ w) && decide (w < 0x340))

/-- Life-cycle word or roots partition found marginal by a re-read in service: no further derivation, debug CLOSED (R243,
R385). -/
def rootsLost (s : State) : State :=
  let lc := s.alm.lc
  let s := s.onMer fun m => { m with rootsStopped := true, lcMarginal := lc.isNone }
  if lc.isNone then
    { s with
      reach := vmap (fun (x : Reach) => { x with debug := .closed, pendingDebug := .closed }) s.reach
      eye := { s.eye with tapUnlocked := false }
      keeper := vmap (fun (k : Keeper) => { k with dbgHalted := false }) s.keeper }
  else s

/-- Boost is withdrawn at once: reaches at step 0 move to step 1 (R320, R361). -/
def withdrawBoost (s : State) : State :=
  if s.alm.boost && (s.alm.get 0x042).2 then
    clockAll { s with
      alm := { s.alm with boost := false }
      slu := { s.slu with reach := vmap (fun (x : SluReach) => { x with step := max 1 x.step }) s.slu.reach } }
  else s

/-- A re-read has changed what the words say: MER_MEAS_1 is extended and the operator alerted; for the life-cycle word and the
roots partition, R243 applies (R320). `before`: the words' state before it. -/
def reread (before : Bytes) (s : State) : State :=
  let s := s.onAlm fun a =>
    { a with
      everLcMarginal := a.everLcMarginal || a.lc.isNone, everRootsMarginal := a.everRootsMarginal || a.rootsMarginal }
  let s := if s.alm.stateBytes = before then s else almAlert Code.almMarginal (measureAlmanac s)
  withdrawBoost (if s.alm.lc.isNone || s.alm.rootsMarginal then rootsLost s else s)

/-- What a critical read leaves (R319, R320): it sees the critical words, and the spare rows read for them. -/
def criticalDone (marginal spares : List Nat) (s : State) : State :=
  let before := s.alm.stateBytes
  let seen : Nat → Bool := fun k => s.alm.entryTab.any fun x => x.1 == k && (entryTarget x.2.1).any criticalWord
  reread before (s.onAlm fun a => Almanac.decode { a with
    marginal := a.marginal.filter (fun w => !criticalWord w) ++ (marginal.eraseDups).filter criticalWord
    spareMarginal := a.spareMarginal.filter (fun k => !seen k) ++ (spares.eraseDups).filter seen
    readAt := secPs s })

/-- READ of a word (R316, R329): its nominal value, and its margin as seen now, in the spare row that is read for it. A word
that decides the life-cycle state or belongs to the roots is a re-read of R243. -/
def readDone (w : Nat) (marginal spares : List Nat) (s : State) : State :=
  let before := s.alm.stateBytes
  let v := if 0x080 ≤ w ∧ w ≤ 0x09E then 0 else s.alm.used w
  let s := s.onAlm fun a =>
    let mark : Nat → List Nat → List Nat → List Nat := fun x l now => l.filter (· != x) ++ if x ∈ now then [x] else []
    let a := Almanac.decode (match a.row w with
      | some k => { a with spareMarginal := mark k a.spareMarginal spares }
      | none => { a with marginal := mark w a.marginal marginal })
    { a with data := v, resMarginal := (a.get w).2 }
  if w < 3 ∨ (0x080 ≤ w ∧ w < 0x0A0) then reread before s else s

/-- What follows a programming job with its status. -/
def afterJob (j : AlmJob) (status : Nat) (s : State) : State :=
  match j with
  | .lcMark l => s.onMer fun m => { m with lcBusy := false, lcPending := m.lcPending || s.alm.lc == some l }
  | .counter c _ => if c = 0 then s.onStc fun x => { x with cntPending := status == Code.otpWindow, triedAt := secPs s } else s
  | _ => s

/-- A programming job runs while its window is met: redirection first, then its words (R325, R326). -/
def runJob (outcome : ProgOutcome) (marginal spareFails : List Nat) (j : AlmJob) (s : State) : State :=
  let (rnd, s) := if j = .genRoots then draw 192 s else ([], s)
  let part := Config.freeWord s.freeCtr ++ Config.freeWord (s.freeCtr + 1)
  let a := s.alm
  let (a, st) :=
    match if j = .genRoots ∧ !s.eph.drbgOk then some Code.badState else jobBad a rnd j with
    | some st => (a, st)
    | none =>
      if !windowMet s || (outcome == ProgOutcome.windowLost && marginal.isEmpty) then (a, Code.otpWindow)
      else
        let (b, st) := a.repair outcome part spareFails marginal
        if st ≠ Code.done then (b, st) else b.burnAll outcome part marginal (b.jobWords rnd j)
  let s := { s with alm := a.decode, freeCtr := s.freeCtr + 2 }
  let reply := if j = AlmJob.genRoots then leBytes 8 (s.alm.partDigest 3).toNat else []
  afterJob j st (almEnd st reply s)

/-- ALM_CMD_DONE: the controller's running job ends (R320, R325 to R329), a programming one not while it waits for VDD_OTP.
`marginal` names the words that failed their verification or read marginal, `spareFails` the spare rows. -/
def execAlmCmdDone (outcome : ProgOutcome) (marginal spareFails : List Nat) (s : State) : Out :=
  match s.alm.busy with
  | none => .next (refuse "ALM_CMD_DONE" Code.badState s)
  | some (_, .read w) => .next (syncRail 5 (almEnd Code.done [] (readDone w marginal spareFails s)))
  | some (_, .critical) => .next (syncRail 5 (almEnd Code.done [] (criticalDone marginal spareFails s)))
  | some (_, j) =>
    if windowWaits s && (jobBad s.alm [] j).isNone then .next (refuse "ALM_CMD_DONE" Code.badState s)
    else .next (syncRail 5 (runJob outcome marginal spareFails j s))

/-! ### The controller's own commands (R329) -/

/-- Meridian runs. -/
def controllerFree (s : State) : Bool := s.mer.step != .held && !s.isl[60].inReset

/-- A command of ALM_CMD, accepted or refused with its status. ALM_DATA holds what Meridian has written to it. -/
def controller (what : String) (bad : Option Nat) (data : Option (BitVec 64)) (j : AlmJob) (s : State) : State :=
  if !controllerFree s then refuse what Code.badState s
  else
    let s := match data with
      | some v => s.onAlm fun a => { a with data := v }
      | none => s
    match bad with
    | some st => refuse what st (s.onAlm fun a => { a with status := st, data := 0 })
    | none => syncRail 5 (almStart .regs j s)

/-- Words of the map of R310. -/
def listedWord (w : Nat) : Bool :=
  decide (w < 9) || (decide (0x040 ≤ w) && decide (w < 0x340)) || (decide (0x400 ≤ w) && decide (w < 0x800))

/-- A write of ALM_CMD by OP code (R329): any code but the six ends with BAD_DESCRIPTOR. -/
def almCmd (op word part : Nat) (data : Option (BitVec 64)) (s : State) : State :=
  let v := data.getD s.alm.data
  match op with
  | 1 => controller "READ" (if word < 2048 then none else some Code.badDescriptor) data (.read word) s
  | 2 => controller "PROGRAM" (if listedWord word then jobBad s.alm [] (.program word v) else some Code.badDescriptor) data
      (.program word v) s
  | 3 => controller "LOCK" (if 1 ≤ part ∧ part ≤ 5 then jobBad s.alm [] (.lock part v) else some Code.badDescriptor) data
      (.lock part v) s
  | 4 => controller "REPAIR" none data .repair s
  | 5 => controller "SEE_CRITICAL" none data .critical s
  | 6 => controller "GEN_ROOTS" (if s.alm.part 3 = .unlocked ∧ s.eph.drbgOk then none else some Code.badState) data .genRoots s
  | _ => controller "ALM_CMD" (some Code.badDescriptor) data .repair s

def execAlmRead (word : Nat) (s : State) : Out := .next (almCmd 1 word 0 none s)

/-- PROGRAM: the value stands in ALM_DATA. -/
def execAlmProgram (word : Nat) (value : BitVec 64) (s : State) : Out := .next (almCmd 2 word 0 (some value) s)

/-- LOCK: the expected digest stands in ALM_DATA (R322). -/
def execAlmLockPart (part : Nat) (s : State) (digest : BitVec 64 := 0) : Out := .next (almCmd 3 0 part (some digest) s)

def execAlmRepairCmd (s : State) : Out := .next (almCmd 4 0 0 none s)

def execSeeCritical (s : State) : Out := .next (almCmd 5 0 0 none s)

def execGenRoots (s : State) : Out := .next (almCmd 6 0 0 none s)

/-- The mean has crossed a multiple of 20 °C by 2 °C since the band last reported (R319). -/
def crossed (s : State) : Bool :=
  decide (80 * (s.slu.band + 1) + 8 ≤ s.slu.tempMean) || decide (s.slu.tempMean ≤ 80 * s.slu.band - 8)

/-- ALMANAC_CRITICAL_READ: after a crossing, or 24 hours after the last read; at most one waits for what runs (R319). -/
def execAlmanacCriticalRead (cause : CritCause) (s : State) : Out :=
  let due := match cause with
    | .crossing => crossed s
    | .daily => waited (secPs s) s.alm.readAt (86400 * secondPs)
  if !controllerFree s || !due then .next (refuse "ALMANAC_CRITICAL_READ" Code.badState s)
  else
    let s := if cause = .crossing then s.onSlu fun u => { u with band := u.tempMean / 80 } else s
    if s.alm.waiting.any fun x => x.2 == .critical then .next s else .next (almStart .internal .critical s)

/-! ### Management Port commands (R327) -/

/-- The running life-cycle state, which a re-read in service does not change; none when the start found the word marginal
(R226, R243). -/
def runningLc (s : State) : Option Lc := if s.mer.lcUndecided then none else some s.mer.lc

def lcIn (s : State) (l : List Lc) : Bool := match runningLc s with
  | some x => decide (x ∈ l)
  | none => false

/-- A command that starts a job, or is refused with a status. -/
def almCommand (what : String) (bad : State → Option Nat) (j : AlmJob) (s : State) : State :=
  provisioner what (fun s =>
    match bad s with
    | some st => refuseMgmt what st s
    | none => syncRail 5 (almStart .mgmt j s)) s

def provisionStates : List Lc := [.blank, .test]
def fieldStates : List Lc := [.test, .dev, .prod, .rma]

def execAlmProvisionWrite (word : Nat) (value : BitVec 64) (s : State) : Out :=
  .next (almCommand "ALM_PROVISION_WRITE" (fun s =>
    if !lcIn s provisionStates then some Code.badState
    else if partOf word = some 1 ∨ partOf word = some 2 ∨ partOf word = some 4 then jobBad s.alm [] (.program word value)
    else some Code.badDescriptor) (.program word value) s)

def execAlmGenRoots (s : State) : Out :=
  .next (almCommand "ALM_GEN_ROOTS" (fun s =>
    if lcIn s provisionStates && s.alm.part 3 == .unlocked && s.eph.drbgOk then none else some Code.badState) .genRoots s)

/-- ALM_LOCK: the digest is compared before anything is programmed (R322). -/
def execAlmLock (part : Nat) (digest : BitVec 64) (s : State) : Out :=
  .next (almCommand "ALM_LOCK" (fun s =>
    if part < 1 ∨ 5 < part then some Code.badDescriptor
    else if lcIn s (if part = 5 then fieldStates else provisionStates) then jobBad s.alm [] (.lock part digest)
    else some Code.badState) (.lock part digest) s)

def execAlmLicenseeWrite (word : Nat) (value : BitVec 64) (s : State) : Out :=
  .next (almCommand "ALM_LICENSEE_WRITE" (fun s =>
    if !lcIn s fieldStates then some Code.badState
    else if partOf word = some 5 then jobBad s.alm [] (.program word value)
    else some Code.badDescriptor) (.program word value) s)

def execAlmRevoke (index : Nat) (s : State) : Out :=
  .next (almCommand "ALM_REVOKE" (fun s =>
    if !lcIn s fieldStates then some Code.badState
    else if !(decide (index < 4) || (decide (8 ≤ index) && decide (index < 12))) then some Code.badDescriptor
    else jobBad s.alm [] (.revoke index)) (.revoke index) s)

def execAlmCounterAdvance (counter value : Nat) (s : State) : Out :=
  .next (almCommand "ALM_COUNTER_ADVANCE" (fun s =>
    if !lcIn s fieldStates then some Code.badState
    else if counter < 1 ∨ 7 < counter ∨ 4096 < value ∨ value < s.alm.counters.toList.getD counter 0 then
      some Code.badDescriptor
    else none) (.counter counter value) s)

def execAlmRepair (s : State) : Out :=
  .next (almCommand "ALM_REPAIR" (fun s => if lcIn s fieldStates then none else some Code.badState) .repair s)

/-! ### Life cycle (R240 to R242) -/

/-- LC_NONCE: a nonce for one LC_ADVANCE of this start, drawn while DRBG_OK is 1 (R240, R242, R255). -/
def execLcNonce (s : State) : Out :=
  .next (provisioner "LC_NONCE" (fun s =>
    if s.mer.lc = .scrap ∨ !s.eph.drbgOk then refuseMgmt "LC_NONCE" Code.badState s
    else
      let (n, s) := draw 32 s
      answer Code.done n (s.onMer fun m => { m with nonces := n :: m.nonces })) s)

/-- The transitions a token may name (R240). -/
def lcStep (from_ : Lc) (named : Nat) : Option Lc :=
  match from_, named with
  | .blank, 1 => some .test
  | .test, 2 => some .dev
  | .test, 3 => some .prod
  | .dev, 4 => some .rma
  | .prod, 4 => some .rma
  | _, _ => none

/-- Why a token is refused before its signature is verified; none where its fields are valid for the state it names. -/
def tokenBad (s : State) (t : Bytes) : Option Nat :=
  let from_ := leAt t 48 1
  let named := leAt t 49 1
  if s.mer.lcMarginal then some Code.almMarginal
  else if s.mer.lcBusy then some Code.badState
  else if t.length ≠ 84 + 4723 ∨ slice t 82 2 ≠ zeros 2 then some Code.badDescriptor
  else
    match lcStep s.mer.lc named with
    | none => some Code.badState
    | some l =>
      if from_ ≠ lcCode s.mer.lc ∨ slice t 0 48 ≠ padTo 0 48 s.mer.deviceId ∨ slice t 50 32 ∉ s.mer.nonces then
        some Code.badState
      else if (l = .dev ∨ l = .prod) ∧ (s.alm.anchors.isEmpty ∨ [1, 2, 3, 4].any fun k => s.alm.part k != .locked) then some Code.badState
      else if l = .rma ∧ s.reach.toList.any (fun x => x.state != .empty) then some Code.badState
      else none

/-- A token's signature verified, and the mark of the state it names programmed into copy 0, 1 and 2 (R240, R241). -/
def advanceLc (token : Bytes) (l : Lc) (s : State) : State :=
  let (signed, s) := hybridVerify (Config.vendorP384 true).toList (Config.vendorMldsa true).toList 3 (token.take 84) (token.drop 84) s
  if signed then
    syncRail 5 (almStart .mgmt (.lcMark l) (s.onMer fun m =>
      { m with lcBusy := true, nonces := m.nonces.filter (· != slice token 50 32) }))
  else refuseMgmt "LC_ADVANCE" Code.badState s

def serveLcAdvance (token : Bytes) (s : State) : State :=
  provisioner "LC_ADVANCE" (fun s =>
    let ep := match sessionOf s operatorTarget with
      | some (_, y) => y.ep
      | none => 0
    match tokenBad s token, lcStep s.mer.lc (leAt token 49 1) with
    | none, some l => withAst ep 0xE (.lcAdvance token) (advanceLc token l) s
    | some st, _ => refuseMgmt "LC_ADVANCE" st s
    | none, none => refuseMgmt "LC_ADVANCE" Code.badState s) s

/-- LC_ADVANCE (R240 to R242). -/
def execLcAdvance (token : Bytes) (s : State) : Out := .next (serveLcAdvance token s)

/-- LC_SCRAP: a block-wide Dredge, then the SCRAP mark; phase HALTED at once (R240). -/
def execLcScrap (s : State) : Out :=
  .next (provisioner "LC_SCRAP" (fun s =>
    if s.mer.lc = .scrap ∨ s.mer.lcBusy then refuseMgmt "LC_SCRAP" Code.badState s
    else
      let t := { dredgeBlock s with alm := s.alm }
      syncRail 5 (almStart .mgmt (.lcMark .scrap) (t.onMer fun m =>
        { m with phase := .halted, cause := 0, step := .done, lcBusy := true, twilightModel := false }))) s)

end Sys2Proof.Machine
end

