-- ==== Sys2Proof/Machine/Ephemeris.lean ====
section
/-! DEFINITION. Meanings of Ephemeris's commands (R249 to R259), of key uses and of reseeding (R255 to R257). -/

namespace Sys2Proof.Machine

/-! ### Attributes -/

/-- Engine classes of a mask, in the bit order of R261. -/
def enginesOf (m : BitVec 7) : List Engine :=
  let all : List Engine := [.culvertXts, .culvertTag, .loadGcm, .aqueduct, .astrolabe, .kdf, .meridianGcm]
  (all.zipIdx.filter fun x => m.getLsbD x.2).map (·.1)

def lifetimeOf : Nat → Option Lifetime
  | 0 => some .unlimited
  | 1 => some .counted
  | 2 => some .expire
  | _ => none

/-- Bytes of a key by KLEN code. -/
def klenBytes (k : Nat) : Nat := 32 + 16 * k

/-- OWNER is permitted for the slot, and the slot is not one that R247 marks "not used" (R247, R248). -/
def ownerPermitted (s : State) (i : SlotId) (owner : Nat) : Bool :=
  if i.val = 2 ∨ i.val = 6 ∨ i.val = 7 ∨ (24 ≤ i.val ∧ i.val ≤ 28) then false
  else if i.val < 8 then owner == 0xE
  else if i.val < 24 then decide (owner < 8) || owner == 0xE
  else if i.val < 32 then owner == 8
  else match fin? 8 owner with
    | some n => decide (s.reach[n].keyFirst ≤ i.val) && decide (i.val < s.reach[n].keyFirst + s.reach[n].keyCount)
    | none => false

/-- LIFETIME and KLEN are codes in use, and a COUNTED slot has uses (R251). -/
def attributesOk (lifetime klen : BitVec 2) (uses : Word) : Bool :=
  lifetime != 3 && klen != 3 && !(lifetime == 1 && uses == 0)

/-! ### Commands (R249 to R251) -/

/-- A command ends with a status from the next EPH_CMD_DONE on; a refused one changes no slot. -/
def ephRun (what : String) (bad : Option Nat) (target : Option SlotId) (f : State → State) (s : State) : State :=
  match bad with
  | some st => refuse what st (ephCommand (s.onEph fun e => { e with busy := true, outcome := st, target := none }))
  | none => (f s).onEph fun e => { e with busy := true, outcome := Code.done, target }

/-- Judge a command: refused as a whole while one runs or the security island does not (R249). -/
def ephJudge (what : String) (bad : Option Nat) (target : Option SlotId) (f : State → State) (s : State) : State :=
  if s.eph.busy || !securityUp s then refuse what Code.badState s else ephRun what bad target f s

/-- EPH_CMD_ATTR, EPH_CMD_USES, EPH_CTX_w and EPH_KEY_w as written before a command. -/
def ephRegs (engines : BitVec 7) (lifetime klen : BitVec 2) (uses : Word) (ctx key : Bytes) (s : State) : State :=
  if s.eph.busy || !securityUp s then s
  else s.onEph fun e =>
    { e with engines, lifetime, klen, usesReg := uses, ctxLen := ctx.length % 128, ctx := padTo 0 128 ctx, key := padTo 0 64 key }

/-- First Almanac word of the root that a slot takes, and none for the zero root of TEST (R239, R310). -/
def rootWord (s : State) (i : SlotId) : Option Nat :=
  if i = 1 then some 0x092
  else match s.mer.lc with
    | .dev => some 0x080
    | .prod => some 0x086
    | .rma => some 0x08C
    | _ => none

/-- A root over the private path of R249. -/
def rootBytes (s : State) (i : SlotId) : Bytes :=
  match rootWord s i with
  | some w => (List.range 6).flatMap fun k => leBytes 8 (s.alm.used (w + k)).toNat
  | none => zeros 48

/-- Why LOAD_ROOT is refused (R250, R251). -/
def loadRootBad (i : SlotId) (s : State) : Option Nat :=
  if 1 < i.val then some Code.badDescriptor
  else if s.eph.slots[i].state ≠ .invalid then some Code.badState
  else if s.mer.lcMarginal || s.mer.rootsStopped then some Code.almMarginal
  else if s.alm.part 3 = .lockedInvalid then some Code.almLockedInvalid
  else if s.eph.tamper then some Code.badState
  else if s.mer.lc = .blank ∨ s.mer.lc = .scrap then some Code.badState
  else none

/-- LOAD_ROOT's effect. -/
def loadRootNow (i : SlotId) (s : State) : State := writeSlot i (rootBytes s i) 1 none 0xE [.kdf] .unlimited 0 s

/-- Why a parent or source is refused: not VALID, without KDF for a source, or at DEPTH 7 (R251). -/
def parentBad (source : Bool) (q : Slot) : Bool :=
  q.state != .valid || (source && !q.engines.contains .kdf) || decide (7 ≤ q.depth)

/-- Why WRITE is refused (R250, R251). -/
def ephWriteBad (slot parent : SlotId) (owner : Nat) (lifetime klen : BitVec 2) (uses : Word) (s : State) : Option Nat :=
  if s.eph.slots[slot].state = .valid then some Code.badState
  else if parent ≠ slot ∧ parentBad false s.eph.slots[parent] then some Code.badState
  else if ownerPermitted s slot owner && attributesOk lifetime klen uses then none
  else some Code.badDescriptor

/-- Labels with an id: name and output bytes (R253). -/
def deriveLabel : Nat → Option (String × Nat)
  | 1 => some ("GX24 IDENTITY", 48)
  | 2 => some ("GX24 ALIAS", 48)
  | 3 => some ("GX24 MEM-XTS-DATA", 32)
  | 4 => some ("GX24 MEM-XTS-TWEAK", 32)
  | 5 => some ("GX24 WEIGHT-TAG", 32)
  | l => (astLabel l).map fun x => (x.1, x.2.1)

/-- Why DERIVE is refused (R250, R251). -/
def deriveBad (slot source : SlotId) (owner : Nat) (label : BitVec 4) (lifetime klen : BitVec 2) (uses : Word) (s : State) :
    Option Nat :=
  if s.eph.slots[slot].state = .valid ∨ s.eph.tamper then some Code.badState
  else if parentBad true s.eph.slots[source] then some Code.badState
  else if ownerPermitted s slot owner && attributesOk lifetime klen uses && (deriveLabel label.toNat).isSome then none
  else some Code.badDescriptor

/-- The key that a label gives from a source slot and a context (R252). -/
def derivedKey (s : State) (source : SlotId) (label : Nat) (ctx : Bytes) : Bytes :=
  match deriveLabel label with
  | some (name, n) => kdf (slotKey s source) name ctx n
  | none => []

/-- A write of EPH_CMD by OP code, with the attributes, uses, context and key that stand in the other registers; any code but
the six ends with BAD_DESCRIPTOR (R249, R261). -/
def ephCmd (op : Nat) (slot parent : SlotId) (owner : Nat) (label : BitVec 4) (s : State) : State :=
  let e := s.eph
  let fill : Bytes → Option SlotId → State → State := fun key from_ =>
    writeSlot slot key e.klen.toNat from_ owner (enginesOf e.engines) ((lifetimeOf e.lifetime.toNat).getD .unlimited)
      (if e.lifetime = 1 then e.usesReg.toNat else 0)
  match op with
  | 1 => ephJudge "LOAD_ROOT" (loadRootBad slot s) (some slot) (loadRootNow slot) s
  | 2 => ephJudge "WRITE" (ephWriteBad slot parent owner e.lifetime e.klen e.usesReg s) (some slot)
      (fill (e.key.take (klenBytes e.klen.toNat)) (if parent = slot then none else some parent)) s
  | 3 => ephJudge "DERIVE" (deriveBad slot parent owner label e.lifetime e.klen e.usesReg s) (some slot)
      (fill (derivedKey s parent label.toNat (e.ctx.take e.ctxLen)) (some parent)) s
  | 4 => ephJudge "INVALIDATE" none (some slot) (invalidateSlot slot) s
  | 5 => ephJudge "INVALIDATE_OWNER" none none (invalidateOwnerSlots owner) s
  | 6 => ephJudge "EXPIRE_OWNER" none none (expireOwnerSlots owner) s
  | _ => ephJudge "EPH_CMD" (some Code.badDescriptor) none id s

def execLoadRoot (slot : SlotId) (s : State) : Out := .next (ephCmd 1 slot 0 0 0 s)

/-- WRITE: a key in clear with its attributes (R249). -/
def execEphWrite (slot parent : SlotId) (owner : Nat) (engines : BitVec 7) (lifetime klen : BitVec 2) (uses : Word) (key : Bytes)
    (s : State) : Out :=
  .next (ephCmd 2 slot parent owner 0 (ephRegs engines lifetime klen uses [] key s))

/-- DERIVE: the new slot's parent is the source (R249). -/
def execDerive (slot source : SlotId) (owner : Nat) (label : BitVec 4) (engines : BitVec 7) (lifetime klen : BitVec 2)
    (uses : Word) (ctx : Bytes) (s : State) : Out :=
  .next (ephCmd 3 slot source owner label (ephRegs engines lifetime klen uses ctx [] s))

def execInvalidate (slot : SlotId) (s : State) : Out := .next (ephCmd 4 slot 0 0 0 s)

def execInvalidateOwner (owner : Nat) (s : State) : Out := .next (ephCmd 5 0 0 owner 0 s)

def execExpireOwner (owner : Nat) (s : State) : Out := .next (ephCmd 6 0 0 owner 0 s)

/-- EPH_CMD_DONE: the command ends with its status; key and context registers are zeroed (R249). -/
def execEphCmdDone (s : State) : Out :=
  if s.eph.busy then
    .next (s.onEph fun e => { e with busy := false, status := e.outcome, target := none, key := zeros 64, ctx := zeros 128 })
  else .next (refuse "EPH_CMD_DONE" Code.badState s)

/-! ### Uses and reseeding -/

/-- KEY_USE: an engine's use is judged and, when granted, counted (R256, R257). -/
def execKeyUse (slot : SlotId) (engine : Engine) (owner : Nat) (s : State) : Out :=
  if securityUp s then
    let (st, _, t) := useKey slot engine owner s
    if st = Code.done then .next t else .next (refuse "KEY_USE" st t)
  else .next (refuse "KEY_USE" Code.badState s)

/-- DRBG_RESEED: CTR_DRBG is seeded, or a health test fails (R255). -/
def execDrbgReseed (healthy : Bool) (s : State) : Out :=
  if securityUp s then
    if healthy then .next (s.onEph fun e => { e with drbgOk := true, drbgRequests := 0 })
    else .next (alert Code.drbgFail AlertUnit.ephemeris 60 0xFF 0xFFFF 0 (s.onEph fun e => { e with drbgOk := false }))
  else .next (refuse "DRBG_RESEED" Code.badState s)

end Sys2Proof.Machine
end

