-- ==== Sys2Proof/Machine/AttestOps.lean ====
section
/-! DEFINITION. Shared operations of attestation (R279 to R286): keys evaluated into Astrolabe, hybrid signatures, the
certificate chains, the native report and the token format. -/

namespace Sys2Proof.Machine

/-! ### Keys and signatures (R254, R279, R282) -/

/-- Evaluate a key pair under a label: its public key (R254). P-384 entries stand at line 0, ML-DSA entries at line 3. -/
def evalKey (label : Nat) (s : State) : Bytes × State :=
  let op : AstOp := if label % 2 = 0 then .p384Keygen else .mldsaKeygen
  let (_, q, s) := astRun op 0xE (if label % 2 = 0 then 0 else 3) (some label) (if label < 8 then 3 else 4) [] s
  (q, s)

/-- The ML-DSA part of a signature: MLDSA_SIGN, issued once more after BN_RETRY_LIMIT (R266). -/
def mldsaPart (pk m : Bytes) (s : State) : Bytes × State :=
  let (st, σ, s) := astRun .mldsaSign 0xE 3 none 0 (mldsaMu pk m) s
  if st = Code.bnRetryLimit then
    let (_, σ, s) := astRun .mldsaSign 0xE 3 none 0 (mldsaMu pk m) s
    (σ, s)
  else (σ, s)

/-- ECDSA with the key pair of a label over a message (R282). -/
def ecdsaPart (label : Nat) (m : Bytes) (s : State) : Bytes × State :=
  let (_, s) := evalKey label s
  let (_, sig, s) := astRun .p384Sign 0xE 0 none 0 (sha384 m) s
  (sig, s)

/-- ML-DSA with the key pair of a label over a message (R282). -/
def pqPart (label : Nat) (m : Bytes) (s : State) : Bytes × State :=
  let (pk, s) := evalKey label s
  mldsaPart pk m s

/-- A hybrid signature with the attestation key, for purpose `p` (R282). -/
def hybridSign (p : Nat) (m : Bytes) (s : State) : Bytes × State :=
  let (a, s) := ecdsaPart 8 (hybridMsg p m) s
  let (b, s) := pqPart 9 (hybridMsg p m) s
  (a ++ b, s)

/-! ### Certificate chains (R280, R330) -/

/-- Certificates of the identity area: each after its 4-byte length. -/
def parseCerts : Nat → Bytes → List Bytes
  | 0, _ => []
  | n + 1, b =>
    let len := leAt b 0 4
    (b.drop 4).take len :: parseCerts n (b.drop (4 + len))

/-- The three certificates of a chain that the Boot Store's identity area of 64 KiB holds: the classical chain first. -/
def storedCerts (s : State) (pq : Bool) : List Bytes := ((parseCerts 6 (s.stc.identity.take 0x10000)).drop (if pq then 3 else 0)).take 3

/-- A chain as served, root first. -/
def servedChain (s : State) (pq : Bool) : List Bytes :=
  let held := if pq then s.mer.pqMismatch else s.mer.chainMismatch
  (storedCerts s pq).take (if held then 2 else 3) ++ [if pq then s.mer.aliasPq else s.mer.aliasCert]

/-- The 48 bytes of the first certificate's hash, then the chain, as SPDM serves it: length, two reserved bytes, root hash
(PRESUMED: the standard's form). -/
def spdmChain (s : State) : Bytes :=
  let c := servedChain s false
  let body := sha384 (c.headD []) ++ c.flatten
  leBytes 2 (body.length + 4) ++ zeros 2 ++ body

/-! DER (X.690): an element is its tag, the length of its content and the content. -/

def derLength (n : Nat) : Bytes :=
  if n < 128 then beBytes 1 n
  else if n < 256 then 0x81 :: beBytes 1 n
  else if n < 65536 then 0x82 :: beBytes 2 n
  else 0x83 :: beBytes 3 n

def der (tag : Byte) (content : Bytes) : Bytes := tag :: derLength content.length ++ content

/-- Drop leading zero bytes. -/
def dropZeros : Bytes → Bytes
  | [] => []
  | b :: l => if b = 0 then dropZeros l else b :: l

/-- A non-negative INTEGER, given big-endian. -/
def derInteger (d : Bytes) : Bytes :=
  let m := dropZeros d
  der 0x02 (if m.isEmpty ∨ 0x80 ≤ m.headD 0 then 0x00 :: m else m)

/-- A BIT STRING of whole bytes. -/
def derBits (d : Bytes) : Bytes := der 0x03 (0x00 :: d)

/-- Signature algorithms: ecdsa-with-SHA384 and ML-DSA-87 (2.16.840.1.101.3.4.3.19). -/
def sigAlgorithm (pq : Bool) : Bytes :=
  der 0x30 (der 0x06 (if pq then [0x60, 0x86, 0x48, 0x01, 0x65, 0x03, 0x04, 0x03, 0x13]
    else [0x2A, 0x86, 0x48, 0xCE, 0x3D, 0x04, 0x03, 0x03]))

/-- A public key with its algorithm: an uncompressed point of secp384r1, or an ML-DSA-87 key. -/
def derKey (pq : Bool) (key : Bytes) : Bytes :=
  if pq then der 0x30 (sigAlgorithm true ++ derBits key)
  else der 0x30 (der 0x30 (der 0x06 [0x2A, 0x86, 0x48, 0xCE, 0x3D, 0x02, 0x01] ++ der 0x06 [0x2B, 0x81, 0x04, 0x00, 0x22])
    ++ derBits (0x04 :: key))

/-- One TcbInfo that holds one SHA-384 fwid. -/
def derTcbInfo (fwid : Bytes) : Bytes :=
  der 0x30 (der 0xA6 (der 0x30 (der 0x06 [0x60, 0x86, 0x48, 0x01, 0x65, 0x03, 0x04, 0x02, 0x02] ++ der 0x04 fwid)))

/-- The MultiTcbInfo extension, 2.23.133.5.4.5, with one TcbInfo for each of MER_MEAS_0 to 9. -/
def multiTcbInfo (s : State) : Bytes :=
  der 0x30 (der 0x06 [0x67, 0x81, 0x05, 0x05, 0x04, 0x05]
    ++ der 0x04 (der 0x30 ((s.meas.toList.take 10).flatMap fun m => derTcbInfo m.value)))

/-- What is signed of an Alias certificate (R280): the issuer is the DeviceID subject, the serial number the first 20 bytes of
its key's digest with the top bit cleared, notBefore that of the DeviceID certificate and notAfter 99991231235959Z. The subject
and the other extensions are open (DESIGN CHOICE, assumption 106). -/
def aliasTbs (s : State) (pq : Bool) (key : Bytes) : Bytes :=
  let device := (storedCerts s pq).getD 2 []
  let digest := (sha384 key).take 20
  let serial := (digest.headD 0 &&& 0x7F) :: digest.drop 1
  der 0x30 (der 0xA0 (der 0x02 [2]) ++ derInteger serial ++ sigAlgorithm pq ++ Config.certificateSubject device
    ++ der 0x30 (Config.certificateNotBefore device ++ der 0x18 (ascii "99991231235959Z"))
    ++ Config.aliasSubject pq key ++ derKey pq key
    ++ der 0xA3 (der 0x30 (Config.aliasExtensions pq device key ++ multiTcbInfo s)))

/-- A certificate: what is signed, the algorithm, and the signature, r and s as INTEGERs in ECDSA. -/
def certificate (pq : Bool) (tbs sig : Bytes) : Bytes :=
  der 0x30 (tbs ++ sigAlgorithm pq
    ++ derBits (if pq then sig else der 0x30 (derInteger (sig.take 48) ++ derInteger (sig.drop 48))))

/-- Elements that stand back to back; none where they do not fill the bytes. -/
def derSplit : Nat → Bytes → Option (List Bytes)
  | 0, b => if b.isEmpty then some [] else none
  | n + 1, b =>
    if b.isEmpty then some []
    else
      let k := (b.getD 1 0).toNat
      let (head, len) := if k < 128 then (2, k) else (2 + k % 128, beNat (slice b 2 (k % 128)))
      if k = 128 ∨ 131 < k ∨ b.length < head + len then none
      else (derSplit n (b.drop (head + len))).map (b.take (head + len) :: ·)

/-- Each certificate after the first is signed by its predecessor. -/
def chainSigned : List Bytes → Bool
  | a :: b :: l => Config.signedBy b (Config.certificateKey a) && chainSigned (b :: l)
  | _ => true

/-! ### Step 8 (R224, R236, R279, R280) -/

/-- The roots and the seeds of the identity and attestation keys (R247, R253). -/
def deriveSeeds (s : State) : State :=
  let s := loadRootNow 1 (loadRootNow 0 s)
  let e : List Engine := [.kdf, .astrolabe]
  let s := writeSlot 3 (derivedKey s 0 1 s.meas[0].value) 1 (some 0) 0xE e .unlimited 0 s
  writeSlot 4 (derivedKey s 3 2 (lcByte s.mer.lc :: bootMeasurement s)) 1 (some 3) 0xE e .unlimited 0 s

/-- Keys, DEVICE_ID, START_ID and the two Alias certificates signed with the identity key. -/
def buildIdentity (s : State) : State :=
  let (aq, s) := evalKey 8 s
  let (apk, s) := evalKey 9 s
  let (iq, s) := evalKey 6 s
  let (ipk, s) := evalKey 7 s
  let t1 := aliasTbs s false aq
  let t2 := aliasTbs s true apk
  let (sig1, s) := ecdsaPart 6 t1 s
  let (sig2, s) := pqPart 7 t2 s
  let (id, s) := draw 32 s
  let bad1 := Config.certificateKey ((storedCerts s false).getD 2 []) != iq
  let bad2 := Config.certificateKey ((storedCerts s true).getD 2 []) != ipk
  let s := s.onMer fun m =>
    { m with
      deviceId := sha384 iq, startId := id, aliasCert := certificate false t1 sig1, aliasPq := certificate true t2 sig2
      chainMismatch := bad1, pqMismatch := bad2, rootsOk := true }
  if bad1 || bad2 then alert Code.chainMismatch AlertUnit.meridian 60 0xFF 0xFFFF 0 s else s

/-! ### The native report (R283 to R285) -/

/-- A barge has passed all its slices within the last 16,200 s of security-island time. -/
def freshPass (s : State) (b : BargeId) : Bool :=
  let x := s.col.bargeInfo[b]
  x.passAt.isSome && decide (secPs s + windowPs ≤ x.passSec + 16200 * secondPs)

/-- HEALTH. -/
def reportHealth (s : State) : Nat :=
  let n : Role → Nat := fun r => (s.barge.toList.filter fun g => g.role == r).length
  let rotation := (idxs 34).all fun b => !(s.barge[b].role == .active || s.barge[b].role == .spare) || freshPass s b
  sparesShown s + fld (n .failed) 2 + fld (n .disabled) 8 + fld (b2n rotation) 14

/-- ALM_FLAGS. -/
def reportFlags (s : State) : Nat :=
  let other := s.alm.marginalWords.any fun w => decide (3 ≤ w) && !(decide (0x080 ≤ w) && decide (w < 0x0A0))
  b2n s.alm.everLcMarginal + fld (b2n s.alm.everRootsMarginal) 1 + fld (b2n other) 2 + fld (b2n s.mer.lcPending) 3

/-- Bits of a reach's isolation fields: its own bit of each group, none for the block alone (R283). -/
def isoMask (reach : Option ReachId) : Nat := match reach with
  | some n => 2 ^ n.val
  | none => 0

/-- Bytes 152 to 159. -/
def reportIso (s : State) (reach : Option ReachId) : Bytes :=
  let st := (isoStatus s).toNat
  let hi := (isoHistory s).toNat
  let m := isoMask reach
  leBytes 4 (st - fld (bits st 8 8) 8 + fld (bits st 8 8 &&& m) 8) ++ leBytes 4 ((bits hi 0 8 &&& m) + fld (bits hi 8 8 &&& m) 8)

/-- Bytes 164 to 239: a reach's fields, or CLAIMS alone. -/
def reportReach (s : State) (reach : Option ReachId) : Bytes :=
  let claims := leBytes 4 2
  match reach with
  | some n =>
    leBytes 4 (reachState s n).toNat ++ leBytes 4 (reachLayout s n).toNat ++ leBytes 4 (reachSlots s n).toNat
      ++ leBytes 4 (reachAqd s n).toNat ++ leBytes 4 s.reach[n].memPages ++ leBytes 4 s.reach[n].loadGen ++ claims
      ++ padTo 0 48 s.reach[n].packageDigest
  | none => zeros 24 ++ claims ++ zeros 48

/-- Bytes 0 to 1,023 (R284). -/
def reportBody (s : State) (reach : Option ReachId) (nonce : Bytes) : Bytes :=
  let code := match reach with
    | some n => n.val
    | none => 0xFF
  let locks := total ([1, 2, 3, 4, 5].map fun k => if s.alm.part k = .locked then 2 ^ k else 0)
  padTo 0 1024 ([0x47, 0x58, 0x41, 0x52] ++ leBytes 2 1 ++ leBytes 1 code ++ zeros 1 ++ leBytes 4 0x474F5258 ++ leBytes 4 0x00020400
    ++ leBytes 4 (variantWord s).toNat ++ leBytes 4 5747 ++ zeros 8 ++ padTo 0 32 nonce ++ padTo 0 48 s.mer.deviceId
    ++ padTo 0 32 s.mer.startId ++ leBytes 1 (if s.mer.lcMarginal then 0 else lcCode s.mer.lc) ++ leBytes 1 (reportFlags s)
    ++ leBytes 2 s.alm.marginalWords.length ++ leBytes 4 locks ++ reportIso s reach ++ leBytes 4 (reportHealth s)
    ++ reportReach s reach ++ (List.range 5).flatMap (fun i => padTo 0 48 (s.mer.fwDigest.getD i []))
    ++ (s.meas.toList.take 10).flatMap (fun m => m.value) ++ (s.meas.toList.take 10).flatMap (fun m => leBytes 2 m.count))

/-- A native report with its signature. -/
def nativeReport (reach : Option ReachId) (nonce : Bytes) (s : State) : Bytes × State :=
  let body := reportBody s reach nonce
  let (sig, s) := hybridSign 1 body s
  (body ++ sig, s)

/-! ### The token format (R286) -/

/-- Head of a CBOR item (RFC 8949). -/
def cborHead (major n : Nat) : Bytes :=
  if n < 24 then leBytes 1 (32 * major + n)
  else if n < 256 then leBytes 1 (32 * major + 24) ++ leBytes 1 n
  else if n < 65536 then leBytes 1 (32 * major + 25) ++ beBytes 2 n
  else leBytes 1 (32 * major + 26) ++ beBytes 4 n

def cborBytes (b : Bytes) : Bytes := cborHead 2 b.length ++ b

/-- COSE_Sign1 (RFC 9052): tag 18 over protected header, empty unprotected header, payload and signature; and what is signed. -/
def coseSign1 (prot payload sig : Bytes) : Bytes :=
  cborHead 6 18 ++ cborHead 4 4 ++ cborBytes prot ++ cborHead 5 0 ++ cborBytes payload ++ cborBytes sig

def coseToSign (prot payload : Bytes) : Bytes :=
  cborHead 4 4 ++ cborHead 3 10 ++ ascii "Signature1" ++ cborBytes prot ++ cborBytes [] ++ cborBytes payload

/-- A protected header that holds alg alone, a negative value −1 − n. -/
def coseAlg (n : Nat) : Bytes := cborHead 5 1 ++ cborHead 0 1 ++ cborHead 1 n

/-- The claims map, keys in the order of their encodings. -/
def tokenClaims (s : State) (reach : Option ReachId) (nonce : Bytes) : Bytes :=
  let closed := match reach with
    | some n => s.reach[n].debug == .closed
    | none => true
  cborHead 5 5 ++ cborHead 0 10 ++ cborBytes (padTo 0 32 nonce) ++ cborHead 0 256
    ++ cborBytes ((1 : Byte) :: (padTo 0 48 s.mer.deviceId).take 32) ++ cborHead 0 263 ++ cborHead 0 (b2n closed)
    ++ cborHead 0 268 ++ cborBytes (padTo 0 32 s.mer.startId) ++ cborHead 1 65600 ++ cborBytes (reportBody s reach nonce)

/-- The token: ES384 inside, ML-DSA-87 outside. -/
def token (reach : Option ReachId) (nonce : Bytes) (s : State) : Bytes × State :=
  let claims := tokenClaims s reach nonce
  let (sig, s) := ecdsaPart 8 (coseToSign (coseAlg 34) claims) s
  let inner := coseSign1 (coseAlg 34) claims sig
  let (sig, s) := pqPart 9 (coseToSign (coseAlg 49) inner) s
  (coseSign1 (coseAlg 49) inner sig, s)

end Sys2Proof.Machine
end

