-- ==== Sys2Proof/Machine/Words.lean ====
section
/-! DEFINITION. The 64-bit words of passage-program instructions (R110, R113, R115, R117, R119): their encoding, and the
decoding in which an unlisted opcode, an invalid function code and a reserved field that is not zero have no instruction. -/

namespace Sys2Proof.Machine

/-! ### Function codes -/

def tgtCode : SigTgt → Nat
  | .self => 0
  | .logical => 1

def tgtOf (k : Nat) : Option SigTgt := ([.self, .logical] : List SigTgt)[k]?

def sfnCode : SFn → Nat
  | .add => 0
  | .sub => 1
  | .mul => 2
  | .minu => 3
  | .maxu => 4
  | .and => 5
  | .or => 6
  | .xor => 7
  | .shl => 8
  | .shr => 9
  | .cdiv32 => 10
  | .sltu => 11

def sfnOf (k : Nat) : Option SFn :=
  ([.add, .sub, .mul, .minu, .maxu, .and, .or, .xor, .shl, .shr, .cdiv32, .sltu] : List SFn)[k]?

def vfnCode : VFn → Nat
  | .add => 0
  | .sub => 1
  | .mul => 2
  | .fma => 3
  | .min => 4
  | .max => 5
  | .abs => 6
  | .neg => 7
  | .rcp => 8
  | .rsqrt => 9
  | .exp2 => 10
  | .log2 => 11
  | .sinpi => 12
  | .cospi => 13
  | .copy => 14

def vfnOf (k : Nat) : Option VFn :=
  ([.add, .sub, .mul, .fma, .min, .max, .abs, .neg, .rcp, .rsqrt, .exp2, .log2, .sinpi, .cospi, .copy] : List VFn)[k]?

def condCode : BrCond → Nat
  | .eq => 0
  | .ne => 1
  | .ltu => 2
  | .geu => 3

def condOf (k : Nat) : Option BrCond := ([.eq, .ne, .ltu, .geu] : List BrCond)[k]?

def kindCode : RedKind → Nat
  | .sum => 0
  | .max => 1
  | .min => 2

def kindOf (k : Nat) : Option RedKind := ([.sum, .max, .min] : List RedKind)[k]?

/-! ### Words -/

/-- The word of a passage-program instruction; none for the block's other commands. -/
def encodeWord (i : Instr) : Option Nat :=
  match i with
  | .nop _ => some (0x00 * 2 ^ 56)
  | .wait _ ta ca tb cb tc cc =>
    some (0x01 * 2 ^ 56 + ta.val * 2 ^ 52 + ca.toNat * 2 ^ 40 + tb.val * 2 ^ 36 + cb.toNat * 2 ^ 24 + tc.val * 2 ^ 20
      + cc.toNat * 2 ^ 8)
  | .signal _ tgt lb ch amt cv cc =>
    some (0x02 * 2 ^ 56 + tgtCode tgt * 2 ^ 54 + lb.val * 2 ^ 49 + ch.val * 2 ^ 45 + amt.toNat * 2 ^ 33 + b2n cv * 2 ^ 32
      + cc.val * 2 ^ 28)
  | .cgive _ lb ch amt => some (0x03 * 2 ^ 56 + lb.val * 2 ^ 49 + ch.val * 2 ^ 45 + amt.toNat * 2 ^ 33)
  | .clim _ ch lim => some (0x04 * 2 ^ 56 + ch.val * 2 ^ 52 + lim.toNat * 2 ^ 40)
  | .stepdone _ => some (0x05 * 2 ^ 56)
  | .fence _ => some (0x06 * 2 ^ 56)
  | .li _ d imm => some (0x08 * 2 ^ 56 + d.val * 2 ^ 51 + imm.toNat)
  | .salu _ d ra rb fn => some (0x09 * 2 ^ 56 + d.val * 2 ^ 51 + ra.val * 2 ^ 46 + rb.val * 2 ^ 41 + sfnCode fn * 2 ^ 37)
  | .sld _ d off => some (0x0A * 2 ^ 56 + d.val * 2 ^ 51 + off.toNat)
  | .sst _ ra addr => some (0x0B * 2 ^ 56 + ra.val * 2 ^ 51 + addr.toNat)
  | .tdset _ desc dim ra => some (0x0C * 2 ^ 56 + desc.val * 2 ^ 48 + dim.val * 2 ^ 46 + ra.val * 2 ^ 41)
  | .loop _ ra len => some (0x10 * 2 ^ 56 + ra.val * 2 ^ 51 + len.toNat)
  | .br _ ra rb cond off => some (0x11 * 2 ^ 56 + ra.val * 2 ^ 51 + rb.val * 2 ^ 46 + condCode cond * 2 ^ 43 + off.toNat)
  | .mma _ dst srcA srcB mm1 nm1 kreg depth part =>
    some (0x40 * 2 ^ 56 + dst.val * 2 ^ 48 + srcA.val * 2 ^ 40 + srcB.val * 2 ^ 32 + mm1.val * 2 ^ 26 + nm1.val * 2 ^ 20
      + kreg.val * 2 ^ 15 + depth.val * 2 ^ 12 + part.val * 2 ^ 7)
  | .vop _ fn vd va vb vc lm1 =>
    some (0x80 * 2 ^ 56 + vfnCode fn * 2 ^ 50 + vd.val * 2 ^ 46 + va.val * 2 ^ 42 + vb.val * 2 ^ 38 + vc.val * 2 ^ 34
      + lm1.val * 2 ^ 27)
  | .vld _ desc vd oreg lm1 => some (0x81 * 2 ^ 56 + desc.val * 2 ^ 48 + vd.val * 2 ^ 44 + oreg.val * 2 ^ 39 + lm1.val * 2 ^ 32)
  | .vst _ desc va oreg lm1 => some (0x82 * 2 ^ 56 + desc.val * 2 ^ 48 + va.val * 2 ^ 44 + oreg.val * 2 ^ 39 + lm1.val * 2 ^ 32)
  | .vqst _ desc va oreg => some (0x83 * 2 ^ 56 + desc.val * 2 ^ 48 + va.val * 2 ^ 44 + oreg.val * 2 ^ 39)
  | .vred _ desc vd kind nreg depth part pdesc =>
    some (0x84 * 2 ^ 56 + desc.val * 2 ^ 48 + vd.val * 2 ^ 44 + kindCode kind * 2 ^ 42 + nreg.val * 2 ^ 37
      + depth.val * 2 ^ 34 + part.val * 2 ^ 29 + pdesc.val * 2 ^ 21)
  | .vjoin _ dst src nreg depth =>
    some (0x85 * 2 ^ 56 + dst.val * 2 ^ 48 + src.val * 2 ^ 40 + nreg.val * 2 ^ 35 + depth.val * 2 ^ 32)
  | .vbc _ vd va lane => some (0x86 * 2 ^ 56 + vd.val * 2 ^ 46 + va.val * 2 ^ 42 + lane.val * 2 ^ 35)
  | .vspl _ vd ra => some (0x87 * 2 ^ 56 + vd.val * 2 ^ 46 + ra.val * 2 ^ 41)
  | .vrng _ vd seed tok draw domain lm1 =>
    some (0x88 * 2 ^ 56 + vd.val * 2 ^ 46 + seed.val * 2 ^ 41 + tok.val * 2 ^ 36 + draw.val * 2 ^ 31
      + domain.toNat * 2 ^ 23 + lm1.val * 2 ^ 16)
  | .vsel _ pdesc idesc nreg va d greedy =>
    some (0x89 * 2 ^ 56 + pdesc.val * 2 ^ 48 + idesc.val * 2 ^ 40 + nreg.val * 2 ^ 35 + va.val * 2 ^ 31 + d.val * 2 ^ 26
      + b2n greedy * 2 ^ 25)
  | .mld _ dst src tv tch cv cch =>
    some (0xC0 * 2 ^ 56 + dst.val * 2 ^ 48 + src.val * 2 ^ 40 + b2n tv * 2 ^ 39 + tch.val * 2 ^ 35 + b2n cv * 2 ^ 34
      + cch.val * 2 ^ 30)
  | .mst _ dst src tv tch cv cch =>
    some (0xC1 * 2 ^ 56 + dst.val * 2 ^ 48 + src.val * 2 ^ 40 + b2n tv * 2 ^ 39 + tch.val * 2 ^ 35 + b2n cv * 2 ^ 34
      + cch.val * 2 ^ 30)
  | .mxfr _ dst src lb tv tch cv cch =>
    some (0xC2 * 2 ^ 56 + dst.val * 2 ^ 48 + src.val * 2 ^ 40 + lb.val * 2 ^ 35 + b2n tv * 2 ^ 34 + tch.val * 2 ^ 30
      + b2n cv * 2 ^ 29 + cch.val * 2 ^ 25)
  | .mgth _ dst src p16 tv tch =>
    some (0xC3 * 2 ^ 56 + dst.val * 2 ^ 48 + src.val * 2 ^ 40 + b2n p16 * 2 ^ 39 + b2n tv * 2 ^ 31 + tch.val * 2 ^ 27)
  | _ => none

/-- The barge of a passage-program instruction; none for the block's other commands. -/
def barge? (i : Instr) : Option BargeId :=
  match i with
  | .nop b => some b
  | .wait b _ _ _ _ _ _ => some b
  | .signal b _ _ _ _ _ _ => some b
  | .cgive b _ _ _ => some b
  | .clim b _ _ => some b
  | .stepdone b => some b
  | .fence b => some b
  | .li b _ _ => some b
  | .salu b _ _ _ _ => some b
  | .sld b _ _ => some b
  | .sst b _ _ => some b
  | .tdset b _ _ _ => some b
  | .loop b _ _ => some b
  | .br b _ _ _ _ => some b
  | .mma b _ _ _ _ _ _ _ _ => some b
  | .vop b _ _ _ _ _ _ => some b
  | .vld b _ _ _ _ => some b
  | .vst b _ _ _ _ => some b
  | .vqst b _ _ _ => some b
  | .vred b _ _ _ _ _ _ _ => some b
  | .vjoin b _ _ _ _ => some b
  | .vbc b _ _ _ => some b
  | .vspl b _ _ => some b
  | .vrng b _ _ _ _ _ _ => some b
  | .vsel b _ _ _ _ _ _ => some b
  | .mld b _ _ _ _ _ _ => some b
  | .mst b _ _ _ _ _ _ => some b
  | .mxfr b _ _ _ _ _ _ _ => some b
  | .mgth b _ _ _ _ _ => some b
  | _ => none

/-- The instruction whose fields a word spells, reserved fields unread. -/
def wordFields (b : BargeId) (w : Nat) : Option Instr :=
  match w / 2 ^ 56 with
  | 0x00 => some (.nop b)
  | 0x01 => some (.wait b (Fin.ofNat 16 (w / 2 ^ 52)) (BitVec.ofNat 12 (w / 2 ^ 40)) (Fin.ofNat 16 (w / 2 ^ 36))
      (BitVec.ofNat 12 (w / 2 ^ 24)) (Fin.ofNat 16 (w / 2 ^ 20)) (BitVec.ofNat 12 (w / 2 ^ 8)))
  | 0x02 => (tgtOf (bits w 54 2)).map fun tgt => .signal b tgt (Fin.ofNat 32 (w / 2 ^ 49)) (Fin.ofNat 16 (w / 2 ^ 45))
      (BitVec.ofNat 12 (w / 2 ^ 33)) (bit w 32) (Fin.ofNat 16 (w / 2 ^ 28))
  | 0x03 => some (.cgive b (Fin.ofNat 32 (w / 2 ^ 49)) (Fin.ofNat 16 (w / 2 ^ 45)) (BitVec.ofNat 12 (w / 2 ^ 33)))
  | 0x04 => some (.clim b (Fin.ofNat 16 (w / 2 ^ 52)) (BitVec.ofNat 12 (w / 2 ^ 40)))
  | 0x05 => some (.stepdone b)
  | 0x06 => some (.fence b)
  | 0x08 => some (.li b (Fin.ofNat 32 (w / 2 ^ 51)) (BitVec.ofNat 32 w))
  | 0x09 => (sfnOf (bits w 37 4)).map fun fn => .salu b (Fin.ofNat 32 (w / 2 ^ 51)) (Fin.ofNat 32 (w / 2 ^ 46))
      (Fin.ofNat 32 (w / 2 ^ 41)) fn
  | 0x0A => some (.sld b (Fin.ofNat 32 (w / 2 ^ 51)) (BitVec.ofNat 14 w))
  | 0x0B => some (.sst b (Fin.ofNat 32 (w / 2 ^ 51)) (BitVec.ofNat 21 w))
  | 0x0C => some (.tdset b (Fin.ofNat 256 (w / 2 ^ 48)) (Fin.ofNat 4 (w / 2 ^ 46)) (Fin.ofNat 32 (w / 2 ^ 41)))
  | 0x10 => some (.loop b (Fin.ofNat 32 (w / 2 ^ 51)) (BitVec.ofNat 16 w))
  | 0x11 => (condOf (bits w 43 3)).map fun cond => .br b (Fin.ofNat 32 (w / 2 ^ 51)) (Fin.ofNat 32 (w / 2 ^ 46)) cond
      (BitVec.ofNat 16 w)
  | 0x40 => some (.mma b (Fin.ofNat 256 (w / 2 ^ 48)) (Fin.ofNat 256 (w / 2 ^ 40)) (Fin.ofNat 256 (w / 2 ^ 32))
      (Fin.ofNat 64 (w / 2 ^ 26)) (Fin.ofNat 64 (w / 2 ^ 20)) (Fin.ofNat 32 (w / 2 ^ 15)) (Fin.ofNat 8 (w / 2 ^ 12))
      (Fin.ofNat 32 (w / 2 ^ 7)))
  | 0x80 => (vfnOf (bits w 50 6)).map fun fn => .vop b fn (Fin.ofNat 16 (w / 2 ^ 46)) (Fin.ofNat 16 (w / 2 ^ 42))
      (Fin.ofNat 16 (w / 2 ^ 38)) (Fin.ofNat 16 (w / 2 ^ 34)) (Fin.ofNat 128 (w / 2 ^ 27))
  | 0x81 => some (.vld b (Fin.ofNat 256 (w / 2 ^ 48)) (Fin.ofNat 16 (w / 2 ^ 44)) (Fin.ofNat 32 (w / 2 ^ 39))
      (Fin.ofNat 128 (w / 2 ^ 32)))
  | 0x82 => some (.vst b (Fin.ofNat 256 (w / 2 ^ 48)) (Fin.ofNat 16 (w / 2 ^ 44)) (Fin.ofNat 32 (w / 2 ^ 39))
      (Fin.ofNat 128 (w / 2 ^ 32)))
  | 0x83 => some (.vqst b (Fin.ofNat 256 (w / 2 ^ 48)) (Fin.ofNat 16 (w / 2 ^ 44)) (Fin.ofNat 32 (w / 2 ^ 39)))
  | 0x84 =>
    (kindOf (bits w 42 2)).map fun kind => .vred b (Fin.ofNat 256 (w / 2 ^ 48)) (Fin.ofNat 16 (w / 2 ^ 44)) kind
      (Fin.ofNat 32 (w / 2 ^ 37)) (Fin.ofNat 8 (w / 2 ^ 34)) (Fin.ofNat 32 (w / 2 ^ 29)) (Fin.ofNat 256 (w / 2 ^ 21))
  | 0x85 => some (.vjoin b (Fin.ofNat 256 (w / 2 ^ 48)) (Fin.ofNat 256 (w / 2 ^ 40)) (Fin.ofNat 32 (w / 2 ^ 35))
      (Fin.ofNat 8 (w / 2 ^ 32)))
  | 0x86 => some (.vbc b (Fin.ofNat 16 (w / 2 ^ 46)) (Fin.ofNat 16 (w / 2 ^ 42)) (Fin.ofNat 128 (w / 2 ^ 35)))
  | 0x87 => some (.vspl b (Fin.ofNat 16 (w / 2 ^ 46)) (Fin.ofNat 32 (w / 2 ^ 41)))
  | 0x88 => some (.vrng b (Fin.ofNat 16 (w / 2 ^ 46)) (Fin.ofNat 32 (w / 2 ^ 41)) (Fin.ofNat 32 (w / 2 ^ 36))
      (Fin.ofNat 32 (w / 2 ^ 31)) (BitVec.ofNat 8 (w / 2 ^ 23)) (Fin.ofNat 128 (w / 2 ^ 16)))
  | 0x89 => some (.vsel b (Fin.ofNat 256 (w / 2 ^ 48)) (Fin.ofNat 256 (w / 2 ^ 40)) (Fin.ofNat 32 (w / 2 ^ 35))
      (Fin.ofNat 16 (w / 2 ^ 31)) (Fin.ofNat 32 (w / 2 ^ 26)) (bit w 25))
  | 0xC0 => some (.mld b (Fin.ofNat 256 (w / 2 ^ 48)) (Fin.ofNat 256 (w / 2 ^ 40)) (bit w 39) (Fin.ofNat 16 (w / 2 ^ 35))
      (bit w 34) (Fin.ofNat 16 (w / 2 ^ 30)))
  | 0xC1 => some (.mst b (Fin.ofNat 256 (w / 2 ^ 48)) (Fin.ofNat 256 (w / 2 ^ 40)) (bit w 39) (Fin.ofNat 16 (w / 2 ^ 35))
      (bit w 34) (Fin.ofNat 16 (w / 2 ^ 30)))
  | 0xC2 => some (.mxfr b (Fin.ofNat 256 (w / 2 ^ 48)) (Fin.ofNat 256 (w / 2 ^ 40)) (Fin.ofNat 32 (w / 2 ^ 35)) (bit w 34)
      (Fin.ofNat 16 (w / 2 ^ 30)) (bit w 29) (Fin.ofNat 16 (w / 2 ^ 25)))
  | 0xC3 => some (.mgth b (Fin.ofNat 256 (w / 2 ^ 48)) (Fin.ofNat 256 (w / 2 ^ 40)) (bit w 39) (bit w 31) (Fin.ofNat 16
      (w / 2 ^ 27)))
  | _ => none

/-- The instruction a program word spells on a barge; none where the word is not exactly an instruction's (R110). -/
def decodeWord (b : BargeId) (w : Nat) : Option Instr :=
  (wordFields b w).bind fun i => if encodeWord i = some w then some i else none

end Sys2Proof.Machine
end

