-- ==== Sys2Proof/Machine/PassageOps.lean ====
section
/-! DEFINITION. Shared operations of passage programs: issuing an instruction, loops and the program counter (R92, R113), tokens
and credits (R94, R95), and moves over a tensor, through Basin at once and through memory as requests (R112, R119, R140, R153). -/

namespace Sys2Proof.Machine

/-! ### Issuing (R92, R93) -/

/-- The sequencer of a barge can issue: it runs a program, nothing holds it, and its clock runs. -/
def canIssue (s : State) (b : BargeId) : Bool :=
  let g := s.barge[b]
  (g.role == .active || g.role == .twilight) && g.run != .idle && g.mcodeLoaded && g.held.isNone && !g.dredging && bargeRuns s b

/-- The word at a barge's program counter (R108, R110). -/
def nextWord (g : Barge) : Nat := leNat (memBytes g.spad (progBase + 8 * g.pc) 8)

/-- The instruction is the one whose word stands at the program counter of its barge (R92, R110). -/
def isNext (s : State) (b : BargeId) (i : Instr) : Bool :=
  decide (s.barge[b].pc < 12288) && encodeWord i == some (nextWord s.barge[b])

/-- The sequencer fetches its next instruction, decodes it and dispatches it; an instruction that its barge does not run now is
no input of it (R10). A word that cannot be read is a fault (R90). -/
def issue (what : String) (i : Instr) (b : BargeId) (f : State → State) (s : State) : Out :=
  if canIssue s b && isNext s b i then
    let (ok, s) := readSpad b (progBase + 8 * s.barge[b].pc) 8 s
    .next (if ok then f s else s)
  else .next (refuse what Code.badState s)

/-- Return of the loops whose body ends at the program counter. -/
def settle : Nat → Barge → Barge
  | 0, g => g
  | f + 1, g =>
    match g.loops with
    | [] => g
    | l :: ls =>
      if g.pc = l.stop then
        if 1 < l.left then { g with pc := l.first, loops := { l with left := l.left - 1 } :: ls }
        else settle f { g with loops := ls }
      else g

/-- The program goes on at an index. -/
def Barge.goto (g : Barge) (pc : Nat) : Barge := settle g.loops.length { g with pc }

/-- The next instruction. -/
def Barge.advance (g : Barge) : Barge := g.goto (g.pc + 1)

def advance (b : BargeId) (s : State) : State := s.onBarge b Barge.advance

/-- Write a scalar register; S0 ignores writes (R109). -/
def Barge.setS (g : Barge) (d : SReg) (w : Word) : Barge := if d = 0 then g else { g with sregs := put g.sregs d w }

/-- Hold an instruction at dispatch. -/
def hold (b : BargeId) (h : Held) (s : State) : State := s.onBarge b fun g => { g with held := some h }

/-- Dispatch of a matrix or a vector instruction is counted (R406). -/
def dispatched (b : BargeId) (i : Instr) (s : State) : State :=
  let n := s.barge[b].reach
  match i with
  | .mma .. => chrEvent b.val 1 n 1 s
  | .vld .. => chrEvent b.val 3 n 1 s
  | .vst .. => chrEvent b.val 3 n 1 s
  | .vqst .. => chrEvent b.val 3 n 1 s
  | .vred .. => chrEvent b.val 3 n 1 s
  | .vjoin .. => chrEvent b.val 3 n 1 s
  | .vsel .. => chrEvent b.val 3 n 1 s
  | .vop .. => chrEvent b.val 3 n 1 s
  | .vbc .. => chrEvent b.val 3 n 1 s
  | .vspl .. => chrEvent b.val 3 n 1 s
  | .vrng .. => chrEvent b.val 3 n 1 s
  | _ => s

/-- Finish an instruction: its effect and the next index, or the ADDRESS_RANGE fault of R112. -/
def finish (b : BargeId) (t : Option State) (s : State) : State :=
  match t with
  | some t => advance b t
  | none => bargeFault b .addressRange s

/-- An instruction whose operands the load check of R128 keeps out of every program. -/
def badOperand (what : String) (s : State) : State := refuse what Code.badDescriptor s

/-! ### Tokens and credits (R94, R95) -/

/-- Every counter that a wait names holds its count. -/
def waitMet (g : Barge) (needs : List (Fin 16 × Nat)) : Bool := needs.all fun x => decide (x.2 ≤ g.tokens[x.1])

/-- Counts of a wait by counter: a count of 0 is omitted, counts that name one counter add up. -/
def mergeNeeds : List (Fin 16 × Nat) → List (Fin 16 × Nat)
  | [] => []
  | x :: l =>
    let r := mergeNeeds l
    if x.2 = 0 then r
    else if r.any (fun y => y.1 == x.1) then r.map fun y => if y.1 = x.1 then (y.1, y.2 + x.2) else y
    else x :: r

/-- A wait fires: each named counter is decremented by its count. -/
def fireWait (needs : List (Fin 16 × Nat)) (g : Barge) : Barge :=
  let t := needs.foldl (fun t x => upd t x.1 (· - x.2)) g.tokens
  Barge.advance { g with tokens := t, held := none }

/-- Tokens arrive at a barge: overflow is a fault; a wait that is met fires. -/
def addToken (b : BargeId) (ch : Fin 16) (n : Nat) (s : State) : State :=
  if 4095 < s.barge[b].tokens[ch] + n then bargeFault b .tokenOverflow s
  else
    s.onBarge b fun g =>
      let g := { g with tokens := upd g.tokens ch (· + n) }
      match g.held with
      | some (.wait needs) => if waitMet g needs then fireWait needs g else g
      | _ => g

/-- Send with a credit when one is named: without a credit the instruction is held. -/
def withCredit (b : BargeId) (i : Instr) (cv : Bool) (cc : Fin 16) (f : State → State) (s : State) : State :=
  if cv then
    if s.barge[b].credits[cc] = 0 then hold b (.credit cc i) s
    else f (s.onBarge b fun g => { g with credits := upd g.credits cc (· - 1) })
  else f s

/-- The barge behind a logical index that a program names; none at or above S3 (R114). -/
def target (s : State) (b : BargeId) (lb : Nat) : Option BargeId :=
  let g := s.barge[b]
  if lb < g.sregs[3].toNat then (svcOfBarge g).bind fun r => bargeAt s r lb else none

/-- The step-done token is sent and the program ends (R113). -/
def stepDone (b : BargeId) (s : State) : State :=
  let g := s.barge[b]
  let s := s.onBarge b fun g => { g with run := .idle, held := none }
  match svcOfBarge g with
  | some r => { s with flight := s.flight ++ [.stepDone b r] }
  | none => s

/-! ### Moves (R119) -/

/-- Indices of every row of a tensor. -/
def rowsOf (d : Desc) : List (Nat × Nat × Nat) :=
  (List.range d.dim3).flatMap fun i3 => (List.range d.dim2).flatMap fun i2 => (List.range d.dim1).map fun i1 => (i1, i2, i3)

/-- The stored elements of a tensor's rows start and end on a byte, and its metadata too. -/
def byteRows (src dst : Desc) : Bool :=
  let w := fmtBits src.fmt
  let half := fun (k : Nat) => if src.sp then k / 2 else k
  w * half src.org0 % 8 == 0 && w * half dst.org0 % 8 == 0 && w * half src.dim0 % 8 == 0 && src.onBlock 8 && dst.onBlock 8

/-- Pieces of one row of a tensor of byte rows: its element, scale and metadata planes. -/
def rowPieces (src dst : Desc) (i : Nat × Nat × Nat) : List MovePiece :=
  let w := fmtBits src.fmt
  let half := fun (k : Nat) => if src.sp then k / 2 else k
  let rs := rowIndex src i.1 i.2.1 i.2.2
  let rd := rowIndex dst i.1 i.2.1 i.2.2
  [(rowAddr src i.1 i.2.1 i.2.2 + w * half src.org0 / 8, w * half src.dim0 / 8, rowAddr dst i.1 i.2.1 i.2.2 + w * half dst.org0 / 8)]
    ++ (if src.bs then
        [(src.scaleBase + rs * (src.dim0 / 32) + src.org0 / 32, src.dim0 / 32, dst.scaleBase + rd * (dst.dim0 / 32) + dst.org0 / 32)]
      else [])
    ++ (if src.sp then
        [(src.metaBase + rs * (src.dim0 / 8) + src.org0 / 8, src.dim0 / 8, dst.metaBase + rd * (dst.dim0 / 8) + dst.org0 / 8)]
      else [])

/-- Pieces of a whole tensor of byte rows under the dimensions of the source. -/
def tensorPieces (src dst : Desc) : List MovePiece := (rowsOf src).flatMap (rowPieces src dst)

/-- Source and destination agree in FMT, BS and SP (R119). -/
def movesAgree (src dst : Desc) : Bool := src.fmt == dst.fmt && src.bs == dst.bs && src.sp == dst.sp

/-- A tensor that a move can carry: the two agree, and neither origin lies inside a block or a group (R56, R73, R119). -/
def moveOk (src dst : Desc) : Bool := movesAgree src dst && src.onBlock 4 && dst.onBlock 4

/-- The pieces of the patches that fit the frame, the patches across and then down from the origin, one row of the destination
each, a pixel's channels after those of the pixel before it (R119; assumption 89). -/
def patchPieces (src dst : Desc) (p : Nat) : List MovePiece :=
  let across := (src.dim1 - src.org1) / p
  let down := (src.dim2 - src.org2) / p
  (List.range (min dst.dim1 (across * down))).flatMap fun j =>
    (List.range p).flatMap fun y => (List.range p).map fun x =>
      (rowAddr src (j % across * p + x) (j / across * p + y) 0 + src.org0, src.dim0,
        rowAddr dst j 0 0 + dst.org0 + (y * p + x) * src.dim0)

def patchOf (p16 : Bool) : Nat := if p16 then 16 else 14

/-! ### Operands of an instruction (R92, R112) -/

/-- Range of the leaves of the part that a slot names (R116). -/
def leafPart (depth slot n : Nat) : Option (Nat × Nat) := (parts depth 0 n)[if depth = 0 then 0 else slot]?

/-- First K position of the leaves of a part and the position after the last. -/
def spanK (narrow : Bool) (k : Nat) (x : Nat × Nat) : Nat × Nat :=
  if narrow then (32 * x.1, min (32 * (x.1 + x.2)) k) else (x.1, x.1 + x.2)

/-- Leaves of a reduction of length K (R68, R115). -/
def leafCount (narrow : Bool) (k : Nat) : Nat := if narrow then (k + 31) / 32 else k

/-- Ranges of a whole tensor under the dimensions of `src`. -/
def tensorRanges (d src : Desc) : List Range := (rowsOf src).flatMap fun i => rowRanges d i.1 i.2.1 i.2.2 d.org0 src.dim0

/-- Descriptors that an instruction names. -/
def descsOf : Instr → List DescId
  | .mma _ dst srcA srcB _ _ _ _ _ => [dst, srcA, srcB]
  | .vld _ desc _ _ _ => [desc]
  | .vst _ desc _ _ _ => [desc]
  | .vqst _ desc _ _ => [desc]
  | .vred _ desc _ _ _ depth _ pdesc => if depth = 0 then [desc] else [desc, pdesc]
  | .vjoin _ dst src _ _ => [dst, src]
  | .vsel _ pdesc idesc _ _ _ _ => [pdesc, idesc]
  | .mld _ dst src _ _ _ _ => [dst, src]
  | .mst _ dst src _ _ _ _ => [dst, src]
  | .mxfr _ _ src _ _ _ _ _ => [src]
  | .mgth _ dst src _ _ _ => [dst, src]
  | _ => []

/-- Ranges of the tensors that an instruction reads, through a barge's descriptors and registers. A move from a memory region to
the scratchpad reads them itself. -/
def tensorsRead (g : Barge) (i : Instr) : List Range :=
  let desc := readDesc g
  match i with
  | .mma _ _ srcA srcB mm1 nm1 kreg depth part =>
    let x := desc srcA
    let y := desc srcB
    let k := g.sregs[kreg].toNat
    match leafPart depth.val part.val (leafCount (isNarrow x.fmt) k) with
    | none => []
    | some p =>
      let (lo, hi) := spanK (isNarrow x.fmt) k p
      ((List.range (mm1.val + 1)).flatMap fun i => rowRanges x i 0 0 (x.org0 + lo) (hi - lo))
        ++ (List.range (nm1.val + 1)).flatMap fun i => rowRanges y i 0 0 (y.org0 + lo) (hi - lo)
  | .vld _ d _ oreg lm1 => rowRanges (desc d) 0 0 0 ((desc d).org0 + g.sregs[oreg].toNat) (lm1.val + 1)
  | .vred _ d _ _ nreg depth part _ =>
    match leafPart depth.val part.val g.sregs[nreg].toNat with
    | none => []
    | some p => rowRanges (desc d) 0 0 0 ((desc d).org0 + p.1) p.2
  | .vjoin _ _ src nreg depth =>
    let x := desc src
    let cnt := (parts depth.val 0 g.sregs[nreg].toNat).length
    (List.range x.dim2).flatMap fun i2 => (List.range x.dim1).flatMap fun i1 => (List.range cnt).flatMap fun j =>
      rowRanges x i1 i2 j x.org0 x.dim0
  | .vsel _ p i nreg _ _ _ =>
    let n := g.sregs[nreg].toNat
    if (desc p).dim0 < n ∨ (desc i).dim0 < n then []
    else rowRanges (desc p) 0 0 0 (desc p).org0 n ++ rowRanges (desc i) 0 0 0 (desc i).org0 n
  | .mld _ dst src _ _ _ _ =>
    if (desc src).space = 2 ∧ byteRows (desc src) (desc dst) then [] else tensorRanges (desc src) (desc src)
  | .mst _ _ src _ _ _ _ => tensorRanges (desc src) (desc src)
  | .mxfr _ _ src _ _ _ _ _ => tensorRanges (desc src) (desc src)
  | .mgth _ dst src p16 _ _ =>
    if (desc src).space = 2 ∧ (desc dst).space = 0 then []
    else (patchPieces (desc src) (desc dst) (patchOf p16)).map fun p => (desc src).range (p.1, p.2.1)
  | _ => []

/-- Ranges that an instruction writes. -/
def rangesWritten (g : Barge) (i : Instr) : List Range :=
  let desc := readDesc g
  match i with
  | .sst _ _ addr => [{ space := 0, region := 0, start := addr.toNat, len := 4 }]
  | .mma _ dst _ _ mm1 nm1 _ depth part =>
    let d := desc dst
    (List.range (mm1.val + 1)).flatMap fun m => rowRanges d m 0 (if depth = 0 then 0 else part.val) d.org0 (nm1.val + 1)
  | .vst _ d _ oreg lm1 => rowRanges (desc d) 0 0 0 ((desc d).org0 + g.sregs[oreg].toNat) (lm1.val + 1)
  | .vqst _ d _ oreg => rowRanges (desc d) 0 0 0 ((desc d).org0 + g.sregs[oreg].toNat) 128
  | .vred _ _ _ _ _ depth part p => if depth = 0 then [] else rowRanges (desc p) 0 0 part.val (desc p).org0 1
  | .vjoin _ dst src _ _ =>
    (List.range (desc src).dim2).flatMap fun i2 => (List.range (desc src).dim1).flatMap fun i1 =>
      rowRanges (desc dst) i1 i2 0 (desc dst).org0 (desc src).dim0
  | .mld _ dst src _ _ _ _ => tensorRanges (desc dst) (desc src)
  | .mst _ dst src _ _ _ _ => tensorRanges (desc dst) (desc src)
  | .mgth _ dst src p16 _ _ => (patchPieces (desc src) (desc dst) (patchOf p16)).map fun p => (desc dst).range (p.2.2, p.2.1)
  | _ => []

/-- The words that a write covers in part, which are read and merged (R90). -/
def mergedWords (x : Range) : List Range :=
  if x.len = 0 then []
  else (if x.start % 8 = 0 then [] else [{ x with len := 1 }])
    ++ (if (x.start + x.len) % 8 = 0 then [] else [{ x with start := x.start + x.len - 1, len := 1 }])

/-- Ranges that an instruction reads: its descriptors, its tensors and what its writes merge. -/
def rangesRead (g : Barge) (i : Instr) : List Range :=
  ((descsOf i).map fun d => { space := 0, region := 0, start := descBase + 64 * d.val, len := 64 }) ++ tensorsRead g i

/-- An earlier load that is not complete writes part of a range of the scratchpad. -/
def clashes (g : Barge) (x : Range) : Bool :=
  x.space == 0 && g.moves.any fun m => m.writes.any fun w => decide (w.1 < x.start + x.len) && decide (x.start < w.1 + w.2)

/-- Begin to read the operands of an instruction that lie in memory regions (R112); it is held until they have come. -/
def fetchOperands (b : BargeId) (i : Instr) (rs : List Range) (s : State) : State :=
  match svcOfBarge s.barge[b] with
  | none => s
  | some r =>
    let id := s.barge[b].nextMove
    let ps : Nat → List MovePiece := fun k =>
      (rs.filter fun x => x.region == k).map fun x => (x.start, x.len, operandKey k x.start)
    let reqs : Nat → List MemReq := fun id => ((rs.map (·.region)).eraseDups).flatMap fun k =>
      match regionOf s r k with
      | some rg => regionReads (.operand b id) k rg (ps k)
      | none => []
    hold b (.operands id i) (startMove b r reqs [] none s)

/-- The units of the share that refuse an instruction's accesses (R135). -/
def refusedUnits (s : State) (g : Barge) (rs : List Range) : List Nat :=
  match svcOfBarge g with
  | some r => (rs.flatMap fun x => if x.space = 1 then refusingUnits s r x.start x.len else []).eraseDups
  | none => []

/-- Dispatch an instruction that reads or writes through descriptors (R92, R112): it waits for earlier loads of the ranges it
uses; an access outside its space, or a write to a weight region, is a fault; operands in memory regions are read first; units that refuse it give
nothing and take nothing (R135; assumption 90). `f` is done with the barge as it stands then, its operands included. -/
def access (b : BargeId) (i : Instr) (f : Barge → State → State) (s : State) : State :=
  let g := s.barge[b]
  let rs := tensorsRead g i
  let ws := rangesWritten g i
  let mem := rs.filter (·.space == 2)
  if (rs ++ ws).any (clashes g) then hold b (.order i) s
  else if !(rs.all (rangeOk s g false) && ws.all (rangeOk s g true)) then bargeFault b .addressRange s
  else if !mem.isEmpty && !g.operandsIn then fetchOperands b i mem s
  else
    let s := dispatched b i (s.onBarge b fun g => { g with operands := [], operandsIn := false })
    match refusedUnits s g (rs ++ ws) with
    | [] =>
      let (ok, s) := readRanges b (rangesRead g i ++ ws.flatMap mergedWords) s
      if ok then f g s else s
    | us => advance b (forAll us (fun u => chrBasin u 4 1) s)

/-! ### Rows as fields -/

/-- A plane of a row that a move carries: width of its fields, start of the row and first field in the source, the same in the
destination, and how many fields. -/
abbrev Plane := Nat × (Nat × Nat) × (Nat × Nat) × Nat

/-- Element, scale and metadata planes of a row (R56, R59, R73). -/
def rowPlanes (src dst : Desc) (i : Nat × Nat × Nat) : List Plane :=
  let half := fun (k : Nat) => if src.sp then k / 2 else k
  let rs := rowIndex src i.1 i.2.1 i.2.2
  let rd := rowIndex dst i.1 i.2.1 i.2.2
  [(fmtBits src.fmt, (rowAddr src i.1 i.2.1 i.2.2, half src.org0), (rowAddr dst i.1 i.2.1 i.2.2, half dst.org0), half src.dim0)]
    ++ (if src.bs then
        [(8, (src.scaleBase + rs * (src.dim0 / 32), src.org0 / 32), (dst.scaleBase + rd * (dst.dim0 / 32), dst.org0 / 32),
          src.dim0 / 32)]
      else [])
    ++ (if src.sp then
        [(4, (src.metaBase + rs * (src.dim0 / 8), src.org0 / 4), (dst.metaBase + rd * (dst.dim0 / 8), dst.org0 / 4), src.dim0 / 4)]
      else [])

/-- The bytes that a plane's fields make in the destination, with what stands beside them. -/
def planeChunk (g : Barge) (dest : BargeId) (src dst : Desc) (x : Plane) (s : State) : (Nat × Bytes) × State :=
  let (w, (ra, ka), (rb, kb), n) := x
  let (a, len) := rowSpan w ra ka n
  let (o, size) := rowSpan w rb kb n
  let codes := unpackBits w n (w * ka % 8) (leNat (spaceGet s g src.space src.region a len))
  let (old, s) := spaceOld s dest dst.space dst.region o size
  ((o, leBytes size (packBits w (w * kb % 8) codes (leNat old))), s)

/-- Chunks of a tensor under the dimensions of the source: destination address and bytes. -/
def tensorChunks (g : Barge) (dest : BargeId) (src dst : Desc) (s : State) : List (Nat × Bytes) × State :=
  ((rowsOf src).flatMap (rowPlanes src dst)).foldl (fun (acc : List (Nat × Bytes) × State) x =>
    let (c, s) := planeChunk g dest src dst x acc.2
    (acc.1 ++ [c], s)) ([], s)

/-- Lines of 128 bytes that a move transfers through Basin (R406). -/
def linesMoved (b : BargeId) (rs : List Range) (s : State) : State :=
  let ps : List MovePiece := rs.map fun x => (x.start, x.len, 0)
  chrEvent b.val 4 s.barge[b].reach (linesTouched 128 (ps.flatMap fun p => cutLines 128 (p.2.1 / 128 + 2) p)).length s

/-! ### Ends of moves -/

/-- The token of a completed move. -/
def postToken (b : BargeId) (tok : Option (Fin 16)) (s : State) : State :=
  match tok with
  | some ch => addToken b ch 1 s
  | none => s

/-- Hold an instruction that lacks the credit it names. -/
def needCredit (b : BargeId) (i : Instr) (cv : Bool) (cc : Fin 16) (f : State → State) (s : State) : State :=
  if cv && s.barge[b].credits[cc] == 0 then hold b (.credit cc i) s else f s

/-- Consume the credit that an instruction names. -/
def spendCredit (b : BargeId) (cv : Bool) (cc : Fin 16) (s : State) : State :=
  if cv then s.onBarge b fun g => { g with credits := upd g.credits cc (· - 1) } else s

/-- A move of pieces from a memory region into the scratchpad: its reads enter the queues. -/
def loadPieces (b : BargeId) (src : Desc) (ps : List MovePiece) (tok : Option (Fin 16)) (s : State) : State :=
  match (svcOfBarge s.barge[b]).bind fun r => (regionOf s r src.region).map fun rg => (r, rg) with
  | none => bargeFault b .addressRange s
  | some (r, rg) =>
    if !((ps.map fun p => src.range (p.1, p.2.1)).all (rangeOk s s.barge[b] false)) then bargeFault b .addressRange s
    else if ps.isEmpty then postToken b tok (advance b s)
    else advance b (startMove b r (fun id => moveReads b id src.region rg ps) (ps.map fun p => (p.2.2, p.2.1)) tok s)

/-- Chunks go to a space of the barge: to memory as requests, elsewhere at once. -/
def storeChunks (b : BargeId) (dst : Desc) (cs : List (Nat × Bytes)) (tok : Option (Fin 16)) (s : State) : State :=
  if dst.space = 2 ∧ !cs.isEmpty then advance b (storeMem b dst.region cs tok s)
  else postToken b tok (advance b (forAll cs (fun c s => spacePut s b dst.space dst.region c.1 c.2) s))

/-- A move of a tensor between the spaces of one barge (R119). -/
def moveTensor (b : BargeId) (g : Barge) (src dst : Desc) (tok : Option (Fin 16)) (s : State) : State :=
  if src.space = 2 ∧ dst.space = 0 ∧ byteRows src dst then loadPieces b src (tensorPieces src dst) tok s
  else
    let (cs, s) := tensorChunks g b src dst s
    storeChunks b dst cs tok
      (if src.space = 2 ∨ dst.space = 2 then s else linesMoved b (if src.space = 0 then tensorRanges dst src else tensorRanges src src) s)

/-- A move of pieces between the spaces of one barge. -/
def movePieces (b : BargeId) (g : Barge) (src dst : Desc) (ps : List MovePiece) (tok : Option (Fin 16)) (s : State) : State :=
  if src.space = 2 ∧ dst.space = 0 then loadPieces b src ps tok s
  else
    storeChunks b dst (ps.map fun p => (p.2.2, spaceGet s g src.space src.region p.1 p.2.1)) tok
      (if src.space = 2 ∨ dst.space = 2 then s
      else linesMoved b (if src.space = 0 then ps.map fun p => dst.range (p.2.2, p.2.1) else ps.map fun p => src.range (p.1, p.2.1)) s)

/-! ### Crossings to a barge (R21, R23, R24) -/

/-- The crossings of a barge deliver: its clock runs and it is not being Dredged. -/
def receives (s : State) (b : BargeId) : Bool := bargeRuns s b && !s.barge[b].dredging

/-- Source and destination of an entry that travels through Basin; one pair keeps its order (R23). -/
def Msg.route : Msg → Option (Option BargeId × BargeId)
  | .token a b _ _ => some (some a, b)
  | .credit a b _ _ => some (some a, b)
  | .fill a b _ _ _ => some (a, b)
  | _ => none

/-- A barge has an entry in a crossing, to it or from it. -/
def Msg.touches (b : BargeId) : Msg → Bool
  | .stepDone c _ => c == b
  | .refusal c _ => c == b
  | m => m.dest == some b || (match m.route with
    | some (c, _) => c == some b
    | none => false)

/-- The oldest entry that a function picks, no entry of its route written before it. -/
def takeOldest {β : Type} (f : Msg → Option β) : List (Option (Option BargeId × BargeId)) → List Msg → Option (β × List Msg)
  | _, [] => none
  | seen, m :: l =>
    match f m with
    | some y =>
      if m.route ∈ seen then (takeOldest f seen l).map fun r => (r.1, m :: r.2) else some (y, l)
    | none => (takeOldest f (m.route :: seen) l).map fun r => (r.1, m :: r.2)

/-- Data arrive in a barge's scratchpad, or among the operands it reads. A write of part of a word reads it first (R90). -/
def putFill (b : BargeId) (data : List (Nat × Bytes)) (operand : Bool) (s : State) : State :=
  if operand then s.onBarge b fun g => { g with operands := data.foldl (fun m c => memPut m c.1 c.2) g.operands }
  else
    let (ok, s) := readRanges b (data.flatMap fun c => mergedWords { space := 0, region := 0, start := c.1, len := c.2.length }) s
    if ok then s.onBarge b fun g => data.foldl (fun g c => g.write c.1 c.2) g else s

/-- Data leave for a barge: they arrive when its crossing delivers, after what the same source sent before (R23, R24). -/
def sendFill (src : Option BargeId) (b : BargeId) (data : List (Nat × Bytes)) (s : State) : State :=
  if receives s b && s.flight.all (fun m => m.route != some (src, b)) then putFill b data false s
  else { s with flight := s.flight ++ [.fill src b data none false] }

end Sys2Proof.Machine
end

