-- ==== Sys2Proof/Machine/Passage.lean ====
section
/-! DEFINITION. Meanings of the passage-program instructions (R113 to R119) and of the arrival of tokens and credits (R94, R95).
Each `do…` is what the instruction does when the sequencer dispatches it; `reissue` dispatches a held one again. -/

namespace Sys2Proof.Machine

/-! ### Control and synchronisation (R113, R114) -/

def doWait (b : BargeId) (needs : List (Fin 16 × Nat)) (s : State) : State :=
  let needs := mergeNeeds needs
  if waitMet s.barge[b] needs then s.onBarge b (fireWait needs) else hold b (.wait needs) s

def doSignal (b : BargeId) (tgt : SigTgt) (lb : Fin 32) (ch : Fin 16) (amt : BitVec 12) (cv : Bool) (cc : Fin 16)
    (s : State) : State :=
  let i : Instr := .signal b tgt lb ch amt cv cc
  match tgt with
  | .self => withCredit b i cv cc (fun s => addToken b ch amt.toNat (advance b s)) s
  | .logical =>
    match target s b lb.val with
    | none => bargeFault b .addressRange s
    | some d =>
      withCredit b i cv cc (fun s => advance b { s with flight := s.flight ++ [.token b d ch amt.toNat] }) s

def doCgive (b : BargeId) (lb : Fin 32) (ch : Fin 16) (amt : BitVec 12) (s : State) : State :=
  match target s b lb.val with
  | none => bargeFault b .addressRange s
  | some d => advance b { s with flight := s.flight ++ [.credit b d ch amt.toNat] }

def doClim (b : BargeId) (ch : Fin 16) (lim : BitVec 12) (s : State) : State :=
  advance b (s.onBarge b fun g => { g with limits := put g.limits ch lim.toNat })

def doStepdone (b : BargeId) (s : State) : State :=
  if s.barge[b].moves.isEmpty then stepDone b s else hold b .stepdone s

def doFence (b : BargeId) (s : State) : State :=
  if s.barge[b].moves.isEmpty then advance b s else hold b .fence s

def doLi (b : BargeId) (d : SReg) (imm : Word) (s : State) : State := s.onBarge b fun g => (g.setS d imm).advance

/-- A scalar function (R113). -/
def sfn (fn : SFn) (x y : Word) : Word :=
  match fn with
  | .add => x + y
  | .sub => x - y
  | .mul => x * y
  | .minu => if x.toNat ≤ y.toNat then x else y
  | .maxu => if x.toNat ≤ y.toNat then y else x
  | .and => x &&& y
  | .or => x ||| y
  | .xor => x ^^^ y
  | .shl => x <<< (y.toNat % 32)
  | .shr => x >>> (y.toNat % 32)
  | .cdiv32 => BitVec.ofNat 32 ((x.toNat + 31) / 32)
  | .sltu => if x.toNat < y.toNat then 1 else 0

def doSalu (b : BargeId) (d ra rb : SReg) (fn : SFn) (s : State) : State :=
  s.onBarge b fun g => (g.setS d (sfn fn g.sregs[ra] g.sregs[rb])).advance

def doSld (b : BargeId) (d : SReg) (off : BitVec 14) (s : State) : State :=
  let a := stepBase + 4 * off.toNat % 16384
  let (ok, s) := readSpad b a 4 s
  if ok then s.onBarge b fun g => (g.setS d (BitVec.ofNat 32 (leNat (memBytes g.spad a 4)))).advance else s

def doSst (b : BargeId) (ra : SReg) (addr : BitVec 21) (s : State) : State :=
  if addr.toNat % 4 ≠ 0 then badOperand "SST" s
  else
    access b (.sst b ra addr) (fun _ s => s.onBarge b fun g =>
      (g.write addr.toNat (leBytes 4 g.sregs[ra].toNat)).advance) s

def doTdset (b : BargeId) (desc : DescId) (dim : Fin 4) (ra : SReg) (s : State) : State :=
  let a := descBase + 64 * desc.val + 48 + 2 * dim.val
  let (ok, s) := readSpad b a 2 s
  if ok then s.onBarge b fun g => (g.write a (leBytes 2 g.sregs[ra].toNat)).advance else s

def doLoop (b : BargeId) (ra : SReg) (len : BitVec 16) (s : State) : State :=
  let g := s.barge[b]
  let n := g.sregs[ra].toNat
  if n = 0 ∨ len = 0 then s.onBarge b fun g => g.goto (g.pc + 1 + len.toNat)
  else if 4 ≤ g.loops.length then badOperand "LOOP" s
  else
    s.onBarge b fun g =>
      { g with loops := { first := g.pc + 1, stop := g.pc + 1 + len.toNat, left := n } :: g.loops, pc := g.pc + 1 }

def brHolds (c : BrCond) (x y : Word) : Bool :=
  match c with
  | .eq => x == y
  | .ne => x != y
  | .ltu => decide (x.toNat < y.toNat)
  | .geu => decide (y.toNat ≤ x.toNat)

def doBr (b : BargeId) (ra rb : SReg) (cond : BrCond) (off : BitVec 16) (s : State) : State :=
  s.onBarge b fun g => if brHolds cond g.sregs[ra] g.sregs[rb] then g.goto (g.pc + 1 + off.toNat) else g.advance

/-! ### Matrix (R115, R116) -/

/-- The result tile is written whole, row m along dimension 1 and column n along dimension 0, in slot `slot`. -/
def writeTile (b : BargeId) (d : Desc) (slot : Nat) (rows : List (List Word)) (s : State) : Option State :=
  (rows.mapIdx fun m r => (m, r)).foldlM (fun s x => putWords s b d (rowAddr d x.1 0 slot) d.org0 x.2) s

/-- Roots of a tile: the tree over each output's leaves. -/
def tileRoots (narrow : Bool) (len : Nat) (ra rb : List TileRow) : List (List Word) :=
  ra.map fun x => rb.map fun y => tree (if narrow then narrowLeaves x y len else wideLeaves x y)

/-- The descriptor of a result suits the depth: a part slot, or a plain FP32 tile. -/
def resultOk (d : Desc) (depth part : Nat) : Bool :=
  d.fmt == 0xA && d.space != 3 && (if depth = 0 then !d.part else d.part && d.pdepth == depth && decide (depth ≤ 5)
    && decide (part < 2 ^ depth))

/-- The operands of a matrix instruction suit it (R51, R73, R115). -/
def matrixOk (d x y : Desc) (depth part : Nat) : Bool :=
  pairOk x.fmt y.fmt && !x.sp && !(y.sp && !isNarrow y.fmt) && !x.part && !y.part && x.space != 3 && y.space != 3
    && d.space == 0 && resultOk d depth part && x.onBlock 4 && y.onBlock 4

/-- MMA: the roots of the tile over the leaves of the part go to the result tile. A reduction with no leaf, and one whose
origin lies inside a block or a group, has no stated result (R10; assumption 29). -/
def doMma (b : BargeId) (dst srcA srcB : DescId) (mm1 nm1 : Fin 64) (kreg : SReg) (depth : Fin 8) (part : Fin 32)
    (s : State) : State :=
  let g := s.barge[b]
  let d := readDesc g dst
  let x := readDesc g srcA
  let y := readDesc g srcB
  let slot := if depth = 0 then 0 else part.val
  let k := g.sregs[kreg].toNat
  let narrow := isNarrow x.fmt
  if !matrixOk d x y depth.val part.val then badOperand "MMA" s
  else
    match leafPart depth.val slot (leafCount narrow k) with
    | none => advance b s
    | some (lo, len) =>
      if len = 0 then badOperand "MMA" s
      else if 511 < len then bargeFault b .addressRange s
      else
        let (first, last) := spanK narrow k (lo, len)
        access b (.mma b dst srcA srcB mm1 nm1 kreg depth part) (fun g s =>
          finish b
            ((readTile s g x (mm1.val + 1) first last).bind fun ta =>
              (readTile s g y (nm1.val + 1) first last).bind fun tb => writeTile b d slot (tileRoots narrow len ta tb) s) s) s

/-! ### Vector (R117, R118) -/

/-- Lanes 0 to L − 1 of a vector register. -/
def setLanes (g : Barge) (vd : VReg) (ws : List Word) : Barge :=
  { g with vregs := upd g.vregs vd fun v => vmapIdx (fun i w => ws.getD i.val w) v }

def doVop (b : BargeId) (fn : VFn) (vd va vb vc : VReg) (lm1 : Fin 128) (s : State) : State :=
  s.onBarge b fun g =>
    (setLanes g vd ((List.range (lm1.val + 1)).map fun i =>
      vfn fn (g.vregs[va].toList.getD i 0) (g.vregs[vb].toList.getD i 0) (g.vregs[vc].toList.getD i 0))).advance

/-- VLD. The load of a sparse tensor has no stated result (R10; assumption 29). -/
def doVld (b : BargeId) (desc : DescId) (vd : VReg) (oreg : SReg) (lm1 : Fin 128) (s : State) : State :=
  let d := readDesc s.barge[b] desc
  if d.part || d.sp || d.space == 3 || decide (0xA < d.fmt) then badOperand "VLD" s
  else
    access b (.vld b desc vd oreg lm1) (fun g s =>
      finish b ((loadLanes s g d 0 0 0 (d.org0 + g.sregs[oreg].toNat) (lm1.val + 1)).map fun ws =>
        s.onBarge b fun g => setLanes g vd ws) s) s

/-- Code of a stored lane: every bit of an FP32 element (R55, R61). -/
def storeCode (fmt : Nat) (w : Word) : Nat := if fmt = 0xA then w.toNat else encodeElem fmt false (fdec w)

def doVst (b : BargeId) (desc : DescId) (va : VReg) (oreg : SReg) (lm1 : Fin 128) (s : State) : State :=
  let d := readDesc s.barge[b] desc
  if d.part || d.bs || d.sp || d.space == 3 || decide (0xA < d.fmt) then badOperand "VST" s
  else
    access b (.vst b desc va oreg lm1) (fun g s =>
      finish b (putCodes s b d (rowAddr d 0 0 0) (d.org0 + g.sregs[oreg].toNat)
        ((g.vregs[va].toList.take (lm1.val + 1)).map (storeCode d.fmt))) s) s

/-- VQST. A row whose origin lies inside a block has no stated result (R10; assumption 29). -/
def doVqst (b : BargeId) (desc : DescId) (va : VReg) (oreg : SReg) (s : State) : State :=
  let g := s.barge[b]
  let d := readDesc g desc
  let k := d.org0 + g.sregs[oreg].toNat
  if d.part || !d.bs || d.sp || d.space == 3 || decide (0xA < d.fmt) || g.sregs[oreg].toNat % 32 != 0 || !d.onBlock 1 then
    badOperand "VQST" s
  else
    access b (.vqst b desc va oreg) (fun g s =>
      let blocks := (List.range 4).map fun i => quantBlock d.fmt ((g.vregs[va].toList.drop (32 * i)).take 32)
      finish b
        ((putCodes s b d (rowAddr d 0 0 0) k (blocks.flatMap (·.2))).bind fun s =>
          putFields s b d 8 (d.scaleBase + rowIndex d 0 0 0 * (d.dim0 / 32)) (k / 32) (blocks.map (·.1))) s) s

/-- The root of a reduction (R55, R68, R71). -/
def redRoot (kind : RedKind) (v : List Word) : Word :=
  let r := match kind with
    | .sum => tree v
    | .max => reduceBy fmax v
    | .min => reduceBy fmin v
  if (fdec r).isNan then canonNan else r

/-- VRED. A part with no leaf has no stated root (R10; assumption 29). -/
def doVred (b : BargeId) (desc : DescId) (vd : VReg) (kind : RedKind) (nreg : SReg) (depth : Fin 8) (part : Fin 32)
    (pdesc : DescId) (s : State) : State :=
  let g := s.barge[b]
  let d := readDesc g desc
  let p := readDesc g pdesc
  let slot := if depth = 0 then 0 else part.val
  if d.part || d.sp || d.space == 3 || decide (0xA < d.fmt) || (depth != 0 && !resultOk p depth.val part.val) then
    badOperand "VRED" s
  else
    match leafPart depth.val slot g.sregs[nreg].toNat with
    | none => advance b s
    | some (lo, len) =>
      if len = 0 then badOperand "VRED" s
      else
        access b (.vred b desc vd kind nreg depth part pdesc) (fun g s =>
          finish b ((loadLanes s g d 0 0 0 (d.org0 + lo) len).bind fun ws =>
            if depth = 0 then
              some (s.onBarge b fun g => { g with vregs := put g.vregs vd (tab 128 fun i => if i = 0 then redRoot kind ws else 0) })
            else putWords s b p (rowAddr p 0 0 slot) p.org0 [redRoot kind ws]) s) s

/-- The joined row of one DIM1, DIM2 index: slot j of the source gives result j of every element. -/
def joinRow (s : State) (g : Barge) (src : Desc) (depth n cnt i1 i2 : Nat) : Option (List Word) :=
  ((List.range cnt).mapM fun j => readCodes s g src (rowAddr src i1 i2 j) src.org0 src.dim0).map fun slots =>
    (List.range src.dim0).map fun i => (joinN depth n (slots.map fun r => BitVec.ofNat 32 (r.getD i 0))).1

/-- VJOIN. A reduction with no leaf has no stated root (R10; assumption 29). -/
def doVjoin (b : BargeId) (dst src : DescId) (nreg : SReg) (depth : Fin 8) (s : State) : State :=
  let g := s.barge[b]
  let d := readDesc g dst
  let x := readDesc g src
  let n := g.sregs[nreg].toNat
  if !x.part || x.pdepth != depth.val || x.fmt != 0xA || d.part || d.fmt != 0xA || x.space == 3 || d.space == 3 || n == 0 then
    badOperand "VJOIN" s
  else
    access b (.vjoin b dst src nreg depth) (fun g s =>
      let cnt := (parts depth.val 0 n).length
      let rows := (List.range x.dim2).flatMap fun i2 => (List.range x.dim1).map fun i1 => (i1, i2)
      finish b
        (rows.foldlM (fun t i =>
          (joinRow s g x depth.val n cnt i.1 i.2).bind fun ws => putWords t b d (rowAddr d i.1 i.2 0) d.org0 ws) s) s) s

def doVbc (b : BargeId) (vd va : VReg) (lane : Fin 128) (s : State) : State :=
  s.onBarge b fun g => Barge.advance { g with vregs := put g.vregs vd (Vector.replicate 128 (g.vregs[va].toList.getD lane.val 0)) }

def doVspl (b : BargeId) (vd : VReg) (ra : SReg) (s : State) : State :=
  s.onBarge b fun g => Barge.advance { g with vregs := put g.vregs vd (Vector.replicate 128 g.sregs[ra]) }

def doVrng (b : BargeId) (vd : VReg) (seed tok draw : SReg) (domain : BitVec 8) (lm1 : Fin 128) (s : State) : State :=
  if seed.val % 2 ≠ 0 then badOperand "VRNG" s
  else
    s.onBarge b fun g =>
      (setLanes g vd ((List.range (lm1.val + 1)).map fun i =>
        uniform g.sregs[seed] g.sregs[seed + 1] g.sregs[tok] (g.sregs[draw] + BitVec.ofNat 32 i) domain.toNat)).advance

def doVsel (b : BargeId) (pdesc idesc : DescId) (nreg : SReg) (va : VReg) (d : SReg) (greedy : Bool) (s : State) : State :=
  let g := s.barge[b]
  let p := readDesc g pdesc
  let i := readDesc g idesc
  let n := g.sregs[nreg].toNat
  if p.fmt != 0xA || p.part || i.fmt != 0xA || i.part || p.space == 3 || i.space == 3 then badOperand "VSEL" s
  else if n = 0 ∨ p.dim0 < n ∨ i.dim0 < n then bargeFault b .addressRange s
  else
    access b (.vsel b pdesc idesc nreg va d greedy) (fun g s =>
      finish b
        ((readCodes s g p (rowAddr p 0 0 0) p.org0 n).bind fun ps =>
          (readCodes s g i (rowAddr i 0 0 0) i.org0 n).bind fun is =>
            (selectToken (List.zipWith (fun x y => (BitVec.ofNat 32 x, BitVec.ofNat 32 y)) ps is) (g.vregs[va].toList.headD 0)
              greedy).map fun id => s.onBarge b fun g => g.setS d id) s) s

/-! ### Moves (R119) -/

def tokenOf (tv : Bool) (ch : Fin 16) : Option (Fin 16) := if tv then some ch else none

def doMld (b : BargeId) (dst src : DescId) (tv : Bool) (tch : Fin 16) (cv : Bool) (cch : Fin 16) (s : State) : State :=
  let x := readDesc s.barge[b] src
  let d := readDesc s.barge[b] dst
  let i : Instr := .mld b dst src tv tch cv cch
  if !moveOk x d || !(x.space == 1 || x.space == 2) || d.space != 0 then badOperand "MLD" s
  else needCredit b i cv cch (access b i fun g s => moveTensor b g x d (tokenOf tv tch) (spendCredit b cv cch s)) s

def doMst (b : BargeId) (dst src : DescId) (tv : Bool) (tch : Fin 16) (cv : Bool) (cch : Fin 16) (s : State) : State :=
  let x := readDesc s.barge[b] src
  let d := readDesc s.barge[b] dst
  let i : Instr := .mst b dst src tv tch cv cch
  if !moveOk x d || x.space != 0 || !(d.space == 1 || d.space == 2) then badOperand "MST" s
  else needCredit b i cv cch (access b i fun g s => moveTensor b g x d (tokenOf tv tch) (spendCredit b cv cch s)) s

/-- MXFR: the tensor, then the token, go to the other barge through its crossing. An index at or above S3 is a fault, as for
SIGNAL (R114; assumption 91). -/
def doMxfr (b : BargeId) (dst src : DescId) (lb : Fin 32) (tv : Bool) (tch : Fin 16) (cv : Bool) (cch : Fin 16)
    (s : State) : State :=
  let i : Instr := .mxfr b dst src lb tv tch cv cch
  match target s b lb.val with
  | none => bargeFault b .addressRange s
  | some dest =>
    let x := readDesc s.barge[b] src
    let d := readDesc s.barge[dest] dst
    if !moveOk x d || x.space != 0 || d.space != 0 then badOperand "MXFR" s
    else needCredit b i cv cch (access b i fun g s =>
      let (ok, s) := readSpad dest (descBase + 64 * dst.val) 64 s
      if !ok then s
      else if !(tensorRanges d x).all (rangeOk s s.barge[dest] true) then bargeFault b .addressRange s
      else
        let (cs, s) := tensorChunks g dest x d (spendCredit b cv cch s)
        let s := advance b (sendFill (some b) dest cs (linesMoved b (tensorRanges x x) s))
        if tv then { s with flight := s.flight ++ [.token b dest tch 1] } else s) s

def doMgth (b : BargeId) (dst src : DescId) (p16 : Bool) (tv : Bool) (tch : Fin 16) (s : State) : State :=
  let x := readDesc s.barge[b] src
  let d := readDesc s.barge[b] dst
  if !movesAgree x d || x.fmt != 1 || x.bs || x.sp || x.space == 3 || d.space == 3 then badOperand "MGTH" s
  else access b (.mgth b dst src p16 tv tch) (fun g s => movePieces b g x d (patchPieces x d (patchOf p16)) (tokenOf tv tch) s) s

/-! ### The rows -/

def execNop (b : BargeId) (s : State) : Out := issue "NOP" (.nop b) b (advance b) s

def execWait (b : BargeId) (ta : Fin 16) (ca : BitVec 12) (tb : Fin 16) (cb : BitVec 12) (tc : Fin 16) (cc : BitVec 12)
    (s : State) : Out := issue "WAIT" (.wait b ta ca tb cb tc cc) b (doWait b [(ta, ca.toNat), (tb, cb.toNat), (tc, cc.toNat)]) s

def execSignal (b : BargeId) (tgt : SigTgt) (lb : Fin 32) (ch : Fin 16) (amt : BitVec 12) (cv : Bool) (cc : Fin 16)
    (s : State) : Out := issue "SIGNAL" (.signal b tgt lb ch amt cv cc) b (doSignal b tgt lb ch amt cv cc) s

def execCgive (b : BargeId) (lb : Fin 32) (ch : Fin 16) (amt : BitVec 12) (s : State) : Out :=
  issue "CGIVE" (.cgive b lb ch amt) b (doCgive b lb ch amt) s

def execClim (b : BargeId) (ch : Fin 16) (lim : BitVec 12) (s : State) : Out := issue "CLIM" (.clim b ch lim) b (doClim b ch lim) s

def execStepdone (b : BargeId) (s : State) : Out := issue "STEPDONE" (.stepdone b) b (doStepdone b) s

def execFence (b : BargeId) (s : State) : Out := issue "FENCE" (.fence b) b (doFence b) s

def execLi (b : BargeId) (d : SReg) (imm : Word) (s : State) : Out := issue "LI" (.li b d imm) b (doLi b d imm) s

def execSalu (b : BargeId) (d ra rb : SReg) (fn : SFn) (s : State) : Out := issue "SALU" (.salu b d ra rb fn) b (doSalu b d ra rb fn) s

def execSld (b : BargeId) (d : SReg) (off : BitVec 14) (s : State) : Out := issue "SLD" (.sld b d off) b (doSld b d off) s

def execSst (b : BargeId) (ra : SReg) (addr : BitVec 21) (s : State) : Out := issue "SST" (.sst b ra addr) b (doSst b ra addr) s

def execTdset (b : BargeId) (desc : DescId) (dim : Fin 4) (ra : SReg) (s : State) : Out :=
  issue "TDSET" (.tdset b desc dim ra) b (doTdset b desc dim ra) s

def execLoop (b : BargeId) (ra : SReg) (len : BitVec 16) (s : State) : Out := issue "LOOP" (.loop b ra len) b (doLoop b ra len) s

def execBr (b : BargeId) (ra rb : SReg) (cond : BrCond) (off : BitVec 16) (s : State) : Out :=
  issue "BR" (.br b ra rb cond off) b (doBr b ra rb cond off) s

def execMma (b : BargeId) (dst srcA srcB : DescId) (mm1 nm1 : Fin 64) (kreg : SReg) (depth : Fin 8) (part : Fin 32)
    (s : State) : Out := issue "MMA" (.mma b dst srcA srcB mm1 nm1 kreg depth part) b (doMma b dst srcA srcB mm1 nm1 kreg depth part) s

def execVop (b : BargeId) (fn : VFn) (vd va vb vc : VReg) (lm1 : Fin 128) (s : State) : Out :=
  issue "VOP" (.vop b fn vd va vb vc lm1) b (fun s => doVop b fn vd va vb vc lm1 (dispatched b (.vop b fn vd va vb vc lm1) s)) s

def execVld (b : BargeId) (desc : DescId) (vd : VReg) (oreg : SReg) (lm1 : Fin 128) (s : State) : Out :=
  issue "VLD" (.vld b desc vd oreg lm1) b (doVld b desc vd oreg lm1) s

def execVst (b : BargeId) (desc : DescId) (va : VReg) (oreg : SReg) (lm1 : Fin 128) (s : State) : Out :=
  issue "VST" (.vst b desc va oreg lm1) b (doVst b desc va oreg lm1) s

def execVqst (b : BargeId) (desc : DescId) (va : VReg) (oreg : SReg) (s : State) : Out :=
  issue "VQST" (.vqst b desc va oreg) b (doVqst b desc va oreg) s

def execVred (b : BargeId) (desc : DescId) (vd : VReg) (kind : RedKind) (nreg : SReg) (depth : Fin 8) (part : Fin 32)
    (pdesc : DescId) (s : State) : Out := issue "VRED" (.vred b desc vd kind nreg depth part pdesc) b (doVred b desc vd kind nreg depth part pdesc) s

def execVjoin (b : BargeId) (dst src : DescId) (nreg : SReg) (depth : Fin 8) (s : State) : Out :=
  issue "VJOIN" (.vjoin b dst src nreg depth) b (doVjoin b dst src nreg depth) s

def execVbc (b : BargeId) (vd va : VReg) (lane : Fin 128) (s : State) : Out := issue "VBC" (.vbc b vd va lane) b (fun s => doVbc b vd va lane (dispatched b (.vbc b vd va lane) s)) s

def execVspl (b : BargeId) (vd : VReg) (ra : SReg) (s : State) : Out := issue "VSPL" (.vspl b vd ra) b (fun s => doVspl b vd ra (dispatched b (.vspl b vd ra) s)) s

def execVrng (b : BargeId) (vd : VReg) (seed tok draw : SReg) (domain : BitVec 8) (lm1 : Fin 128) (s : State) : Out :=
  issue "VRNG" (.vrng b vd seed tok draw domain lm1) b (fun s => doVrng b vd seed tok draw domain lm1 (dispatched b (.vrng b vd seed tok draw domain lm1) s)) s

def execVsel (b : BargeId) (pdesc idesc : DescId) (nreg : SReg) (va : VReg) (d : SReg) (greedy : Bool) (s : State) : Out :=
  issue "VSEL" (.vsel b pdesc idesc nreg va d greedy) b (doVsel b pdesc idesc nreg va d greedy) s

def execMld (b : BargeId) (dst src : DescId) (tv : Bool) (tch : Fin 16) (cv : Bool) (cch : Fin 16) (s : State) : Out :=
  issue "MLD" (.mld b dst src tv tch cv cch) b (doMld b dst src tv tch cv cch) s

def execMst (b : BargeId) (dst src : DescId) (tv : Bool) (tch : Fin 16) (cv : Bool) (cch : Fin 16) (s : State) : Out :=
  issue "MST" (.mst b dst src tv tch cv cch) b (doMst b dst src tv tch cv cch) s

def execMxfr (b : BargeId) (dst src : DescId) (lb : Fin 32) (tv : Bool) (tch : Fin 16) (cv : Bool) (cch : Fin 16)
    (s : State) : Out := issue "MXFR" (.mxfr b dst src lb tv tch cv cch) b (doMxfr b dst src lb tv tch cv cch) s

def execMgth (b : BargeId) (dst src : DescId) (p16 : Bool) (tv : Bool) (tch : Fin 16) (s : State) : Out :=
  issue "MGTH" (.mgth b dst src p16 tv tch) b (doMgth b dst src p16 tv tch) s

/-! ### Held instructions and arrivals (R92, R94, R95, R113) -/

/-- Dispatch a held instruction again. -/
def reissue (i : Instr) (s : State) : State :=
  match i with
  | .signal b tgt lb ch amt cv cc => doSignal b tgt lb ch amt cv cc s
  | .sst b ra addr => doSst b ra addr s
  | .mma b dst srcA srcB mm1 nm1 kreg depth part => doMma b dst srcA srcB mm1 nm1 kreg depth part s
  | .vld b desc vd oreg lm1 => doVld b desc vd oreg lm1 s
  | .vst b desc va oreg lm1 => doVst b desc va oreg lm1 s
  | .vqst b desc va oreg => doVqst b desc va oreg s
  | .vred b desc vd kind nreg depth part pdesc => doVred b desc vd kind nreg depth part pdesc s
  | .vjoin b dst src nreg depth => doVjoin b dst src nreg depth s
  | .vsel b pdesc idesc nreg va d greedy => doVsel b pdesc idesc nreg va d greedy s
  | .mld b dst src tv tch cv cch => doMld b dst src tv tch cv cch s
  | .mst b dst src tv tch cv cch => doMst b dst src tv tch cv cch s
  | .mxfr b dst src lb tv tch cv cch => doMxfr b dst src lb tv tch cv cch s
  | .mgth b dst src p16 tv tch => doMgth b dst src p16 tv tch s
  | _ => s

/-- Release what a barge holds when nothing earlier keeps it any more; one that a step abort is to reach runs nothing (R96). -/
def wakeHeld (b : BargeId) (s : State) : State :=
  let g := s.barge[b]
  let free := fun (s : State) => s.onBarge b fun g => { g with held := none }
  if g.dredging then s else
  match g.held with
  | some .fence => if g.moves.isEmpty then advance b (free s) else s
  | some .program => if g.moves.isEmpty then free s else s
  | some .stepdone => if g.moves.isEmpty then stepDone b s else s
  | some (.order i) => reissue i (free s)
  | some (.operands id i) =>
    if g.moves.any fun m => m.id == id then s else reissue i (s.onBarge b fun g => { g with held := none, operandsIn := true })
  | _ => s

/-- One request of a move is complete; the last posts the move's token (R113, R114, R119). -/
def moveDone (b : BargeId) (id : Nat) (s : State) : State :=
  match s.barge[b].moves.find? fun m => m.id == id with
  | none => s
  | some m =>
    let s := chrEvent b.val 4 s.barge[b].reach 1 s
    if 1 < m.left then
      s.onBarge b fun g => { g with moves := g.moves.map fun x => if x.id = id then { x with left := x.left - 1 } else x }
    else
      let s := s.onBarge b fun g => { g with moves := g.moves.filter fun x => x.id != id }
      let s := match m.tok with
        | some ch => addToken b ch 1 s
        | none => s
      wakeHeld b s

/-- Data for a barge arrive and complete a request of their move, when the barge still has it (R119). -/
def takeFill (b : BargeId) (data : List (Nat × Bytes)) (move : Option Nat) (operand : Bool) (s : State) : State :=
  match move with
  | none => putFill b data operand s
  | some id => if s.barge[b].moves.any fun m => m.id == id then moveDone b id (putFill b data operand s) else s

/-- Deliver an entry of data if its barge's crossing delivers and none of its route was written before it (R23, R24). -/
def drainOne (m : Msg) (s : State) : State :=
  match m with
  | .fill _ b data move operand =>
    match (if receives s b then takeOldest (fun x => if x = m then some () else none) [] s.flight else none) with
    | some (_, rest) => takeFill b data move operand { s with flight := rest }
    | none => s
  | _ => s

/-- Entries of data that the crossings can now deliver arrive, oldest first. -/
def drainFills (s : State) : State := forAll s.flight drainOne s

/-- An entry has left a crossing: data behind it arrive, and an entry to KEEP that waited for the crossings is made (R24). -/
def afterCrossing (s : State) : State := settleKeep (drainFills s)

/-- Data of a memory port reach a barge: at once, or when its crossing delivers (R24). -/
def portFill (b : BargeId) (data : List (Nat × Bytes)) (id : Nat) (operand : Bool) (s : State) : State :=
  if s.barge[b].moves.any fun m => m.id == id then
    if receives s b && s.flight.all (fun m => m.route != some (none, b)) then takeFill b data (some id) operand s
    else { s with flight := s.flight ++ [.fill none b data (some id) operand] }
  else s

/-- TOKEN_ARRIVAL: the oldest token to a channel of a barge arrives, after what its source sent before it; none does while the
barge's crossing does not deliver (R23, R24, R94, R114). -/
def execTokenArrival (b : BargeId) (ch : Fin 16) (s : State) : Out :=
  let pick : Msg → Option Nat := fun m => match m with
    | .token _ d c n => if d = b ∧ c = ch then some n else none
    | _ => none
  match (if receives s b then takeOldest pick [] s.flight else none) with
  | some (n, rest) => .next (afterCrossing (addToken b ch n { s with flight := rest }))
  | none => .next (refuse "TOKEN_ARRIVAL" Code.badState s)

/-- Credits reach a channel: above the limit it is a fault; an instruction held for the channel is dispatched (R94, R95). -/
def addCredit (b : BargeId) (ch : Fin 16) (n : Nat) (s : State) : State :=
  let g := s.barge[b]
  if g.limits[ch] < g.credits[ch] + n then bargeFault b .creditOverflow s
  else
    let s := s.onBarge b fun g => { g with credits := upd g.credits ch (· + n) }
    match g.held with
    | some (.credit c i) =>
      if c = ch ∧ 0 < s.barge[b].credits[ch] then reissue i (s.onBarge b fun g => { g with held := none }) else s
    | _ => s

/-- CREDIT_ARRIVAL: the oldest credit to a channel of a barge arrives, as a token does (R23, R24, R94, R95). -/
def execCreditArrival (b : BargeId) (ch : Fin 16) (s : State) : Out :=
  let pick : Msg → Option Nat := fun m => match m with
    | .credit _ d c n => if d = b ∧ c = ch then some n else none
    | _ => none
  match (if receives s b then takeOldest pick [] s.flight else none) with
  | some (n, rest) => .next (afterCrossing (addCredit b ch n { s with flight := rest }))
  | none => .next (refuse "CREDIT_ARRIVAL" Code.badState s)

end Sys2Proof.Machine
end

