-- ==== Sys2Proof/Machine/Lockcycle.lean ====
section
/-! DEFINITION. Meanings of the lock-cycle commands (R103, R104, R183 to R198, R206). -/

namespace Sys2Proof.Machine

/-- The keeper core of a service runs: its island is powered, it is not halted by a Dredge or by Eyepiece (R198, R382). -/
def keeperRuns (s : State) (r : SvcId) : Bool :=
  let k := s.keeper[r]
  s.isl[59].powered && !s.isl[59].inReset && k.core != .halted && !k.dbgHalted

/-- FORM_CYCLE (R183): refill, deadlines, exhausted accounts, placing, mooring of unplaced LOW requests. -/
def execFormCycle (r : SvcId) (kc : Nat) (s : State) : Out :=
  if keeperRuns s r && formGate s r then .next (checkDrained r (formCycle r (tick r kc s)))
  else .next (refuse "FORM_CYCLE" Code.badState s)

/-- A formed cycle of a service can start: its inputs are staged, every barge of its schedule is ready (R99, R104, R206). -/
def canStart (s : State) (r : SvcId) : Bool :=
  keeperRuns s r && (match s.keeper[r].form with
    | some c => !c.started && !c.entries.isEmpty
    | none => false)
  && !stagingOpen s r && s.keeper[r].resuming.isEmpty && !migrationPending s r && decide (0 < liveCount s r)
  && liveCount s r == s.keeper[r].liveSched
  && (match reachOf? r with
    | some n => s.reach[n].state == .sealed || s.reach[n].state == .draining
    | none => s.mer.twilightModel)

/-- STAGING_COMPLETE: the last staging read of a formed cycle is delivered; the cycle starts (R185, R206). -/
def execStagingComplete (r : SvcId) (kc : Nat) (s : State) : Out :=
  if canStart s r then .next (startCycle r (tick r kc s)) else .next (refuse "STAGING_COMPLETE" Code.badState s)

/-- Take the step token in flight to a barge. -/
def takeStepToken (b : BargeId) : List Msg → Option ((Nat × Nat) × List Msg)
  | [] => none
  | m :: l =>
    match m with
    | .stepToken d c e => if d = b then some ((c, e), l) else (takeStepToken b l).map fun r => (r.1, m :: r.2)
    | _ => (takeStepToken b l).map fun r => (r.1, m :: r.2)

/-- A barge accepts a step token of an epoch (R93, R103). -/
def acceptsStep (s : State) (b : BargeId) (epoch : Nat) : Bool :=
  let g := s.barge[b]
  (g.role == .active || g.role == .twilight) && g.mcodeLoaded && g.epoch != 0 && g.epoch == epoch && !g.dredging

/-- The barge enters STEP with the step block of its cycle, read from the share (R120, R134, R185). -/
def enterStep (b : BargeId) (cycle : Nat) (s : State) : State :=
  match svcOfBarge s.barge[b] with
  | none => s
  | some r =>
    let (ok, s) := readShare r (stepBlockOff s r cycle) 16384 s
    if ok then enterProgram b .step (s.onBarge b fun g => { g with cycle }) else s

/-- STEP_TOKEN: a step token reaches its barge, which enters STEP or refuses it (R95, R103, R109, R120); not while a slice
isolates the barge (R394) or its crossing does not deliver (R24). TOK0 and CRD0 count neither it nor the answer (assumption 94). -/
def execStepToken (b : BargeId) (s : State) : Out :=
  match takeStepToken b s.flight with
  | none => .next (refuse "STEP_TOKEN" Code.badState s)
  | some ((cycle, epoch), rest) =>
    if s.col.barge = some b || !receives s b then .next (refuse "STEP_TOKEN" Code.badState s) else
    let s := { s with flight := rest }
    if acceptsStep s b epoch then .next (settleKeep (enterStep b cycle s))
    else
      match svcOfBarge s.barge[b] with
      | some r => .next { chrEvent b.val 8 r.val 1 s with flight := s.flight ++ [.refusal b r] }
      | none => .next s

/-- Take a message that equals a given one. -/
def takeMsg? (m : Msg) (l : List Msg) : Option (List Msg) := if m ∈ l then some (l.erase m) else none

/-- STEP_REFUSAL: a refusal returns on CRD0; the barge is Dredged, assigned again and runs RESUME (R103, R104). -/
def execStepRefusal (r : SvcId) (b : BargeId) (s : State) : Out :=
  match takeMsg? (.refusal b r) s.flight with
  | none => .next (refuse "STEP_REFUSAL" Code.badState s)
  | some rest =>
    let s := { s with flight := rest }
    let s := s.onKeeper r fun k =>
      { k with refusals := satInc 16 k.refusals, resuming := k.resuming.filter (· != b) ++ [b], refused := k.refused.filter (· != b) ++ [b] }
    .next (settleKeep (startBargeDredge b .resume s))

/-- The last INIT token of a load, whose transition a halted Meridian does not make until it resumes (R386). -/
def sealHeld (s : State) (r : SvcId) (b : BargeId) : Bool :=
  s.mer.halted && s.keeper[r].resuming == [b] && (match reachOf? r with
    | some n => s.reach[n].initPending
    | none => false)

/-- STEP_DONE_TOKEN: a step-done token reaches the keeper core: of INIT or RESUME, or of the step (R120, R168, R186). -/
def execStepDoneToken (r : SvcId) (b : BargeId) (kc : Nat) (s : State) : Out :=
  match if sealHeld s r b then none else takeMsg? (.stepDone b r) s.flight with
  | none => .next (refuse "STEP_DONE_TOKEN" Code.badState s)
  | some rest =>
    let s := tick r kc { s with flight := rest }
    if b ∈ s.keeper[r].resuming then .next (settleKeep (programDone r b s))
    else
      .next (settleKeep (s.onKeeper r fun k => { k with form := k.form.map fun c =>
        if c.started then { c with waiting := c.waiting.filter (· != b) } else c }))

/-- Every step-done token of the running cycle has come. -/
def canCommit (s : State) (r : SvcId) : Bool :=
  keeperRuns s r && s.keeper[r].resuming.isEmpty && (match s.keeper[r].form with
    | some c => c.started && c.waiting.isEmpty
    | none => false)

/-- Read the OUT fields of `n` entries of a step block (R186): whether all are delivered (R134). -/
def readOuts (r : SvcId) (off : Nat) : Nat → State → Bool × State
  | 0, s => (true, s)
  | n + 1, s =>
    let (ok, s) := readShare r (off + 96) 8 s
    if ok then readOuts r (off + 48) n s else (false, s)

/-- Commit the running cycle when its OUT fields have been read; an error in them has ended its step (R134, R186). -/
def commitRunning (r : SvcId) (s : State) : State :=
  match s.keeper[r].form with
  | none => s
  | some c =>
    let (ok, s) := readOuts r (stepBlockOff s r c.number) c.entries.length s
    if ok then reschedule r (pumpExchanges r (commitCycle r s)) else s

/-- COMMIT_POINT (R186): the running cycle commits; a schedule change waits for it (R98, R101). -/
def execCommitPoint (r : SvcId) (kc : Nat) (s : State) : Out :=
  if canCommit s r then .next (commitRunning r (tick r kc s))
  else .next (refuse "COMMIT_POINT" Code.badState s)

/-- DEADLINE_TEST_TICK: keeper time has reached the next whole 1,000 µs (R191). -/
def execDeadlineTestTick (r : SvcId) (kc : Nat) (s : State) : Out :=
  let ms := keeperNow s r kc / 100000
  if keeperRuns s r && decide (s.keeper[r].lastTick < ms) then
    let s := (tick r kc s).onKeeper r fun k => { k with lastTick := ms }
    .next (checkDrained r (testDeadlines r s))
  else .next (refuse "DEADLINE_TEST_TICK" Code.badState s)

/-! ### Toll registers (R192, R198, R214) -/

def lkpBase (n : ReachId) : Nat := 0x80000 + 0x10000 * n.val

/-- The system island answers register accesses. -/
def sysUp (s : State) : Bool := s.isl[58].powered && !s.isl[58].inReset

/-- Master identity of a System Port access (R216). -/
def portMid (trusted : Bool) : Nat := if trusted then 1 else 0

/-- Write of LKP_TOLL_CFG_c. -/
def writeTollCfg (n : ReachId) (c : Fin 16) (mid kc : Nat) (data : Word) (s : State) : State :=
  let d := data.toNat
  let en := bit d 0
  let rate := min 4095 (bits d 16 16)
  let s := tick (svcOf n) kc s
  let s := s.onKeeper (svcOf n) fun k =>
    { k with tolls := upd k.tolls c fun t =>
        { t with
          en, endMode := bit d 1, rate
          balance := if en && !t.en then (t.cap : Int) else t.balance
          lastRefillCus := if en && !t.en then k.nowCus else t.lastRefillCus } }
  if bits d 16 16 = rate then s
  else audit { offset := lkpBase n + 0x100 + 8 * c.val, lsb := 16, written := bits d 16 16, applied := rate,
               rule := AuditRule.range, mid, width := 16 } s

/-- Write of LKP_TOLL_CAP_c. -/
def writeTollCap (n : ReachId) (c : Fin 16) (data : Word) (s : State) : State :=
  let cap := bits data.toNat 0 24
  s.onKeeper (svcOf n) fun k =>
    { k with tolls := upd k.tolls c fun t => { t with cap, balance := min t.balance (cap : Int) } }

/-- TOLL_CFG_WRITE (R192, R198). -/
def execTollCfgWrite (n : ReachId) (c : Fin 16) (trusted : Bool) (kc : Nat) (data : Word) (s : State) : Out :=
  if sysUp s then .next (writeTollCfg n c (portMid trusted) kc data s)
  else .next (refuse "TOLL_CFG_WRITE" Code.badState s)

/-- TOLL_CAP_WRITE (R192, R198). -/
def execTollCapWrite (n : ReachId) (c : Fin 16) (_trusted : Bool) (data : Word) (s : State) : Out :=
  if sysUp s then .next (writeTollCap n c data s) else .next (refuse "TOLL_CAP_WRITE" Code.badState s)

end Sys2Proof.Machine
end

