-- ==== Sys2Proof/Machine/SysPort.lean ====
section
/-! DEFINITION. Meanings of the System Port's outbound side and its interrupts (R217 to R219, R413). -/

namespace Sys2Proof.Machine

/-! ### Issue (R217, R219) -/

/-- Slots of the system wheel that an owner holds. -/
def sysSlots (s : State) (o : Nat) : Nat := (s.sys.wheel.toList.filter (· == o)).length

/-- The lowest tag below `n` that no transaction of a kind uses. -/
def freeTag (used : List Nat) (n : Nat) : Option Nat := (List.range (min n (used.length + 1))).find? fun t => t ∉ used

def sysTags (s : State) (k : Rw) : List Nat := (s.sys.txns.filter fun t => t.req.kind == k).map (·.tag)

/-- Issue a request of an owner with a tag: its credit is spent. -/
def sysIssue (o tag : Nat) (q : SysReq) (s : State) : State :=
  chrEvent Chr.system (if q.kind = .rd then 1 else 2) o 1 <| emit (match q.kind with
    | .rd => .hostRead tag q.addr q.len
    | .wr => .hostWrite tag q.addr q.data)
    (s.onSys fun y =>
      { y with
        txns := y.txns ++ [{ tag, owner := o, req := q }]
        rdCredits := if q.kind = .rd then y.rdCredits - 1 else y.rdCredits
        wrCredits := if q.kind = .wr then y.wrCredits - 1 else y.wrCredits })

/-- Take the first request of a kind. -/
def takeKind (k : Rw) : List SysReq → Option (SysReq × List SysReq)
  | [] => none
  | q :: l => if q.kind = k then some (q, l) else (takeKind k l).map fun r => (r.1, q :: r.2)

/-- The owner of the slot issues its oldest read, with a credit and a tag of its quota of 32 for each slot. -/
def slotRead (r : SvcId) (s : State) : State :=
  let held := (s.sys.txns.filter fun t => t.req.kind == .rd && t.owner == r.val).length
  match takeKind .rd s.sys.requests[r], freeTag (sysTags s .rd) 2048 with
  | some (q, rest), some tag =>
    if 0 < s.sys.rdCredits ∧ held < 32 * sysSlots s r.val then
      sysIssue r.val tag q (s.onSys fun y => { y with requests := put y.requests r rest })
    else s
  | _, _ => s

/-- A message of a source is due, and none has failed since its pending bit was last cleared (R218). -/
def msgDue (s : State) (i : Fin 16) : Bool :=
  decide (0 < s.sys.route[i].due) && s.sys.route[i].mode == 2 && !s.sys.route[i].stuck

/-- Issue the message of a source. -/
def sendMessage (o : Nat) (i : Fin 16) (s : State) : State :=
  match freeTag (sysTags s .wr) 2048 with
  | none => s
  | some tag =>
    let x := s.sys.route[i]
    sysIssue o tag
      { kind := .wr, addr := x.addrHi * 2 ^ 32 + x.addrLo, len := 4, data := leBytes 4 x.data.toNat, use := .message i }
      (s.onSys fun y => { y with route := upd y.route i fun z => { z with due := z.due - 1 } })

/-- The source whose message goes out in the slots of a service. -/
def ownMessage (s : State) (r : SvcId) : Option (Fin 16) := if msgDue s (cqSource r) then some (cqSource r) else none

/-- The owner of the slot issues a write: its message when one is due, else its oldest write. Answers whether it issued. -/
def slotWrite (r : SvcId) (s : State) : State × Bool :=
  if s.sys.wrCredits = 0 then (s, false)
  else
    match ownMessage s r with
    | some i => (sendMessage r.val i s, true)
    | none =>
      match takeKind .wr s.sys.requests[r], freeTag (sysTags s .wr) 2048 with
      | some (q, rest), some tag => (sysIssue r.val tag q (s.onSys fun y => { y with requests := put y.requests r rest }), true)
      | _, _ => (s, false)

/-- A message that goes out in a slot whose owner issues no write: sources 8 to 15, and a reach that holds no slot. -/
def strayMessage (s : State) : Option (Fin 16) :=
  (idxs 16).find? fun i => msgDue s i && (decide (8 ≤ i.val)
    || (sysSlots s i.val == 0 && !(i == 0 && decide (0 < sysSlots s 8))))

/-- Events of an owned slot: idle, and a request skipped for want of a credit (R406). -/
def slotEvents (r : SvcId) (y : SysPort) (after : State) : State :=
  let starved := (y.rdCredits == 0 && (takeKind .rd y.requests[r]).isSome) || (y.wrCredits == 0 && (takeKind .wr y.requests[r]).isSome)
  let s := if after.sys.txns.length = y.txns.length then chrEvent Chr.system 3 r.val 1 after else after
  if starved then chrEvent Chr.system 5 r.val 1 s else s

/-- SYS_WHEEL_SLOT: the next slot of the system wheel (R217, R219). -/
def execSysWheelSlot (s : State) : Out :=
  if !sysUp s then .next (refuse "SYS_WHEEL_SLOT" Code.badState s)
  else
    let o := s.sys.wheel.toList.getD (s.sys.count % 64) 0xF
    let s := s.onSys fun y => { y with count := (y.count + 1) % 64 }
    let (s, wrote) := match fin? 9 o with
      | some r =>
        let (t, w) := slotWrite r (slotRead r s)
        (slotEvents r s.sys t, w)
      | none => (s, false)
    if wrote || s.sys.wrCredits = 0 then .next s
    else
      match strayMessage s with
      | some i => .next (sendMessage 0xF i s)
      | none => .next s

/-- SYS_OB_CREDIT: one credit; at most 64 unused of a kind are counted (R413). -/
def execSysObCredit (kind : Rw) (s : State) : Out :=
  if !sysUp s then .next (refuse "SYS_OB_CREDIT" Code.badState s)
  else
    .next (s.onSys fun y =>
      match kind with
      | .rd => { y with rdCredits := min 64 (y.rdCredits + 1) }
      | .wr => { y with wrCredits := min 64 (y.wrCredits + 1) })

/-! ### Transfers (R206, R208, R217, R218) -/

/-- Two uses belong to one transfer. -/
def sameTransfer (a b : SysUse) : Bool :=
  match a, b with
  | .fetch r q, .fetch t u => r == t && q == u
  | .stage r c _, .stage t d _ => r == t && c == d
  | .record r, .record t => r == t
  | .chunk _, .chunk _ => true
  | .message i, .message j => i == j
  | _, _ => false

/-- A transfer issues no further transaction; responses to those issued are discarded. -/
def dropTransfer (u : SysUse) (s : State) : State :=
  s.onSys fun y =>
    { y with
      requests := vmap (·.filter fun q => !sameTransfer u q.use) y.requests
      txns := y.txns.map fun t => if sameTransfer u t.req.use then { t with discard := true, failed := true } else t }

/-- Staging fails: every request with a prefill entry in the cycle ends HOST_DMA_FAIL; the cycle forms again (R218). -/
def stagingFailed (r : SvcId) (s : State) : State :=
  match s.keeper[r].form with
  | none => s
  | some c =>
    let pre := (c.entries.filter fun e => !e.decode).map (·.ctx)
    let s := dropInputRequests r (s.onKeeper r fun k => { k with form := none })
    checkDrained r (endReqs r (fun q => decide (q.ctx ∈ pre)) Code.hostDmaFail s)

/-- A transaction has failed; its transfer fails with its first (R218). The transfer of a transaction whose response nothing
waits for any more has its alert and no other outcome. -/
def transferFailed (t : SysTxn) (s : State) : State :=
  let owner := t.owner
  let u := t.req.use
  let s := dropTransfer u s
  let note := alert Code.hostDmaFail AlertUnit.system 58 (alertReach owner) 0xFFFF 0
  if t.failed then s
  else if t.discard then note s
  else
  match u with
  | .fetch r q => sqFault r q s
  | .stage r _ _ => stagingFailed r (note s)
  | .record r => settleTwilight (cqFault r s)
  | .chunk _ => failLoad Code.hostDmaFail (note s)
  | .message i => note (s.onSys fun y => { y with route := upd y.route i fun z => { z with stuck := true } })

/-- A transaction's response is delivered. -/
def deliverSys (t : SysTxn) (s : State) : State :=
  match t.req.use with
  | .fetch r q =>
    s.onRing r fun b => { b with sq := upd b.sq q fun x => { x with fetching := false, line := some (padTo 0 64 t.data) } }
  | .stage r _ pieces => forAll pieces (fun p s => sharePut s r p.2.2 (slice t.data p.1 p.2.1)) s
  | .record r => recordAcked r s
  | .chunk off =>
    match s.loader.job with
    | none => s
    | some j =>
      let d := padTo 0 t.req.len t.data
      let s := { s with loader := { s.loader with
        job := some { j with staged := memPut j.staged off d, fetchLeft := j.fetchLeft - 1 } } }
      let r := svcOf j.reach
      let text := (d.drop (32 - off)).take (65536 + 32 - max off 32)
      sharePut s r (65536 * (j.chunk % 2) + (max off 32 - 32)) text
  | .message _ => s

def findTxn (s : State) (k : Rw) (tag : Nat) : Option SysTxn := s.sys.txns.find? fun t => t.req.kind == k && t.tag == tag

def dropTxn (k : Rw) (tag : Nat) (s : State) : State :=
  s.onSys fun y => { y with txns := y.txns.filter fun t => !(t.req.kind == k && t.tag == tag) }

def setTxn (k : Rw) (tag : Nat) (f : SysTxn → SysTxn) (s : State) : State :=
  s.onSys fun y => { y with txns := y.txns.map fun t => if t.req.kind == k && t.tag == tag then f t else t }

/-- A response to a tag that is not outstanding (R413). -/
def strayResponse (s : State) : State :=
  alert Code.hostDmaFail AlertUnit.system 58 0xFF 0xFFFF 0 (s.onSys fun y => { y with readErr := satInc 8 y.readErr })

/-- What a response or acknowledgement brings is used at its level, or when it comes later: delivered, or the failure of its
transfer (R217, R218). -/
def sysRelease (t : SysTxn) (s : State) : State :=
  if !t.ok then transferFailed t s else if t.discard then s else deliverSys t s

/-- A response or acknowledgement by tag: counted, then held for its level or released late (R217, R218). -/
def sysAnswer (k : Rw) (tag : Nat) (ok : Bool) (data : Bytes) (s : State) : State :=
  match findTxn s k tag with
  | none => strayResponse s
  | some t =>
    if t.answered then strayResponse s
    else if t.lost then dropTxn k tag s
    else
      let s := if ok then s else s.onSys fun y =>
        if k = .rd then { y with readErr := satInc 8 y.readErr } else { y with writeErr := satInc 8 y.writeErr }
      let u := { t with answered := true, ok, data }
      if t.due then
        sysRelease u (dropTxn k tag ((chrEvent Chr.system 4 t.owner 1 s).onSys fun y => { y with late := satInc 8 y.late }))
      else setTxn k tag (fun _ => u) s

/-- SYS_OB_READ_RESPONSE. -/
def execSysObReadResponse (tag : Nat) (ok : Bool) (data : Bytes) (s : State) : Out :=
  if sysUp s then .next (sysAnswer .rd tag ok data s) else .next (refuse "SYS_OB_READ_RESPONSE" Code.badState s)

/-- SYS_OB_WRITE_ACK. -/
def execSysObWriteAck (tag : Nat) (ok : Bool) (s : State) : Out :=
  if sysUp s then .next (sysAnswer .wr tag ok [] s) else .next (refuse "SYS_OB_WRITE_ACK" Code.badState s)

/-- SYS_OB_TIMEOUT: 2^20 system cycles without a response; the tag stays out of use (R218). -/
def execSysObTimeout (kind : Rw) (tag : Nat) (s : State) : Out :=
  match findTxn s kind tag with
  | none => .next (refuse "SYS_OB_TIMEOUT" Code.badState s)
  | some t =>
    if !sysUp s || t.answered || t.lost then .next (refuse "SYS_OB_TIMEOUT" Code.badState s)
    else
      let s := setTxn kind tag (fun t => { t with lost := true }) (s.onSys fun y => { y with timeout := satInc 8 y.timeout })
      .next (transferFailed t s)

/-- SYS_RESPONSE_RELEASE: LAT_LEVEL system cycles after issue (R217). -/
def execSysResponseRelease (kind : Rw) (tag : Nat) (s : State) : Out :=
  match findTxn s kind tag with
  | none => .next (refuse "SYS_RESPONSE_RELEASE" Code.badState s)
  | some t =>
    if !sysUp s || t.due then .next (refuse "SYS_RESPONSE_RELEASE" Code.badState s)
    else if t.answered then
      .next (sysRelease t (dropTxn kind tag s))
    else .next (setTxn kind tag (fun t => { t with due := true }) s)

/-- Write of GLB_IRQ_PEND: each 1 in bits [12:0] clears a pending bit (R219, R221). Source 11 stays pending while a Towpath
interrupt of endpoint 0 or 1 is asserted (R351; assumption 117). -/
def clearPend (data : Word) (s : State) : State :=
  s.onSys fun y =>
    let held := s.twp.ep[(0 : Fin 13)].irq || s.twp.ep[(1 : Fin 13)].irq
    let hit : Fin 16 → Bool := fun i => decide (i.val ≤ 12) && data.getLsbD i.val && !(i.val == 11 && held)
    { y with
      irqPend := vmapIdx (fun i p => p && !hit i) y.irqPend
      route := vmapIdx (fun i z => if hit i then { z with stuck := false } else z) y.route }

/-- IRQ_PEND_CLEAR. -/
def execIrqPendClear (data : Word) (s : State) : Out :=
  if sysUp s then .next (clearPend data s) else .next (refuse "IRQ_PEND_CLEAR" Code.badState s)

end Sys2Proof.Machine
end

