-- ==== Sys2Proof/Machine/MemOps.lean ====
section
/-! DEFINITION. Shared operations of the memory ports and their Culvert engines (R138 to R154, R159, R160): keys, tags, the issue
of requests in a slot, and what follows a response. -/

namespace Sys2Proof.Machine

def portIsl (p : PortId) : Fin 64 := ⟨38 + p.val, by omega⟩

/-- The port island is powered and out of reset. -/
def portUp (s : State) (p : PortId) : Bool := s.isl[portIsl p].powered && !s.isl[portIsl p].inReset

/-! ### Keys (R151, R233, R248) -/

/-- Use the two XTS keys for a request: DONE, or the status that comes first in the order of R43 of those that may not be
used, with its alert. -/
def useMemKeys (r : SvcId) (s : State) : Nat × State :=
  let (a, b, _) := memSlots s r
  let x := judgeUse s.eph.slots[a] .culvertXts r.val
  let y := judgeUse s.eph.slots[b] .culvertXts r.val
  if x = Code.done ∧ y = Code.done then (Code.done, (useKey b .culvertXts r.val (useKey a .culvertXts r.val s).2.2).2.2)
  else if y = Code.done ∨ (x ≠ Code.done ∧ firstError x y = x) then (x, (useKey a .culvertXts r.val s).2.2)
  else (y, (useKey b .culvertXts r.val s).2.2)

/-- An operator alert of a memory port (R45). -/
def portAlert (status : Nat) (p : PortId) (owner cause : Nat) (s : State) : State :=
  alert status AlertUnit.port (38 + p.val) (alertReach owner) p.val cause s

/-! ### Weight tags (R152 to R154) -/

/-- Address of the tag of weight block `g` of a region. -/
def tagAddr (rg : Region) (g : Nat) : Nat := rg.tagBase + g / 16 / 32 * 4096 + g % 16 * 256 + g / 16 % 32 * 8

/-- Address of the tag of the block a request belongs to. -/
def reqTagAddr (s : State) (r : SvcId) (q : MemReq) : Option Nat :=
  match q.block, regionOf s r q.region with
  | some g, some rg => some (tagAddr rg g)
  | _, _ => none

/-- The 8 bytes of a tag in its line. -/
def tagIn (line : Bytes) (addr : Nat) : Bytes := slice line (addr % 128) 8

def lineOf (addr : Nat) : Nat := addr / 128 * 128

/-- The stored tag line of a service that holds an address. -/
def heldLine (p : Port) (r : SvcId) (addr : Nat) : Option TagLine :=
  p.tagLines.find? fun t => t.svc == r && t.addr == lineOf addr

/-- Make a line the most recently used of its service, keeping four of the service. -/
def touchLine (t : TagLine) (l : List TagLine) : List TagLine :=
  let mine := t :: l.filter fun x => x.svc == t.svc && x.addr != t.addr
  mine.take 4 ++ l.filter fun x => x.svc != t.svc

/-- Load generation of a service (R157, R233). -/
def loadGenOf (s : State) (r : SvcId) : Nat :=
  match reachOf? r with
  | some n => s.reach[n].loadGen
  | none => 1

/-! ### Issue (R138, R142, R143, R146, R148) -/

def portTags (p : Port) (k : Rw) : List Nat := (p.txns.filter fun t => t.req.kind == k).map (·.tag)

/-- Read tags of the spill pool in use: spilled reads on pool tags, and twilight's. -/
def poolUsed (p : Port) : Nat := (p.txns.filter fun t => t.req.kind == .rd && t.pool).length

/-- Free tags of the spill pool. -/
def poolFree (p : Port) : Nat := 1024 - total p.quota.toList - poolUsed p

/-- A tag class for a read of a service: its own quota (false), the spill pool (true), or none free. -/
def readClass (p : Port) (r : SvcId) (spill : Bool) : Option Bool :=
  let own := (p.txns.filter fun t => t.req.kind == .rd && t.svc == r && !t.pool).length
  match reachOf? r with
  | none => if 0 < poolFree p then some true else none
  | some n =>
    if own < p.quota[n] then some false
    else if spill && decide (0 < poolFree p) then some true
    else none

/-- A read overlaps, or a write repeats the line of, a write of the service not yet acknowledged (R142). -/
def hazard (p : Port) (r : SvcId) (q : MemReq) : Bool :=
  p.txns.any fun t => t.svc == r && t.req.kind == .wr && !t.answered
    && (if q.kind = .rd then t.req.addr / 128 == q.addr / 128 else t.req.addr == q.addr)

/-- What the front request of a service needs next: its tag line first, where its block's line is neither held nor coming. -/
def wantReq (s : State) (p : PortId) (r : SvcId) (q : MemReq) : MemReq :=
  match q.kind, reqTagAddr s r q with
  | .rd, some a =>
    let x := s.port[p]
    let coming := x.txns.any fun t => t.svc == r && t.req.use == .tagLine && t.req.kind == .rd && t.req.addr == lineOf a
      && !t.discard && !t.lost
    if (heldLine x r a).isSome || coming then q else { kind := .rd, addr := lineOf a, use := .tagLine }
  | _, _ => q

/-- Take a request of a service from the queue; one that waits behind a full queue follows (R138). -/
def takeReq (r : SvcId) (q : MemReq) (p : Port) : Port := refillQueue r { p with queue := upd p.queue r (·.erase q) }

/-- A memory error of a service (R43, R159, R237): its step, its INIT, or the load of twilight ends. -/
def memError (r : SvcId) (status : Nat) (s : State) : State :=
  if r = twilightSvc ∧ s.mer.step = .package then extend 8 (zeros 48) (releaseTwilight s) else stepError r status s

/-- The request may not use the service's keys: no access is made, the step or the load ends (R151, R157). -/
def keyRefused (p : PortId) (r : SvcId) (q : MemReq) (status : Nat) (s : State) : State :=
  let s := s.onPort p (takeReq r q)
  match q.use, q.kind with
  | .load, _ => if r = twilightSvc then memError r status s else failLoad status s
  | .tagLine, .wr => if r = twilightSvc then memError r status s else failLoad status s
  | _, _ => memError r status s

/-- Plaintext leaves encrypted; tag lines as computed (R150). -/
def wireData (s : State) (r : SvcId) (q : MemReq) : Bytes :=
  if q.use = .tagLine then q.data
  else
    let (a, b, _) := memSlots s r
    xtsEncrypt (slotKey s a) (slotKey s b) q.addr (padTo 0 64 q.data)

/-- Issue a request of a service with a tag. -/
def memIssue (p : PortId) (r : SvcId) (tag : Nat) (pool spilled : Bool) (q : MemReq) (s : State) : State :=
  let x := s.port[p]
  let held := (reqTagAddr s r q).bind fun a => (heldLine x r a).map fun t => (t, tagIn t.data a)
  let t : MemTxn := { tag, svc := r, req := q, spilled, pool, blockTag := held.map (·.2) }
  let s := emit (match q.kind with
    | .rd => .memRead p tag q.addr
    | .wr => .memWrite p tag q.addr (wireData s r q)) s
  (chrEvent (Chr.port p.val) (if q.kind = .rd then 1 else 2) r.val 1 s).onPort p fun y =>
    { y with
      txns := y.txns ++ [t]
      tagLines := match held with
        | some h => touchLine h.1 y.tagLines
        | none => y.tagLines
      rdCredits := if q.kind = .rd then y.rdCredits - 1 else y.rdCredits
      wrCredits := if q.kind = .wr then y.wrCredits - 1 else y.wrCredits }

/-- What a service's front request allows in a slot: nothing, a lack of controller credit alone, or an issue. -/
inductive SlotTry where
  | nothing
  | noCredit
  | issue (q : MemReq) (tag : Nat) (pool : Bool)
  deriving DecidableEq, Repr

/-- The request of a service that is next in ingress order: the first of its queue, but for reads that wait for a write (R142). -/
def nextReq (s : State) (p : PortId) (r : SvcId) : Option MemReq :=
  s.port[p].queue[r].find? fun q =>
    let w := wantReq s p r q
    !(w.kind == .rd && hazard s.port[p] r w)

/-- Judge the next request of a service. -/
def tryFront (s : State) (p : PortId) (r : SvcId) (spill : Bool) : SlotTry :=
  let x := s.port[p]
  match nextReq s p r with
  | none => .nothing
  | some q =>
    let q := wantReq s p r q
    if hazard x r q then .nothing
    else
      match q.kind with
      | .rd =>
        match readClass x r spill, freeTag (portTags x .rd) 1024 with
        | some pool, some tag => if x.rdCredits = 0 then .noCredit else .issue q tag pool
        | _, _ => .nothing
      | .wr =>
        match freeTag (portTags x .wr) 1024 with
        | some tag => if x.wrCredits = 0 then .noCredit else .issue q tag false
        | none => .nothing

/-- Issue the front request of a service when it is of a kind not yet issued in the slot. Answers the kinds issued. -/
def slotIssue (p : PortId) (r : SvcId) (spill : Bool) (acc : State × List Rw) : State × List Rw :=
  let s := acc.1
  match tryFront s p r spill, nextReq s p r with
  | .issue q tag pool, some front =>
    if q.kind ∈ acc.2 then acc
    else
      let (st, t) := useMemKeys r s
      if st ≠ Code.done then (keyRefused p r front st t, .rd :: .wr :: acc.2)
      else
        let t := memIssue p r tag pool spill q t
        (if q = front then t.onPort p (takeReq r front) else t, q.kind :: acc.2)
  | _, _ => acc

/-- The services in cyclic reach order after one. -/
def cyclicAfter (n : Fin 8) : List ReachId := (List.range 8).map fun i => Fin.ofNat 8 (n.val + 1 + i)

/-- One slot of a port's wheel. -/
def wheelSlot (p : PortId) (s : State) : State :=
  let x := s.port[p]
  let x := if x.count % 64 = 0 then
      match x.nextWheel with
      | some w => { x with wheel := w, nextWheel := none }
      | none => x
    else x
  let o := x.wheel.toList.getD (x.count % 64) 0xF
  let s := s.onPort p fun _ => { x with count := (x.count + 1) % 64 }
  let owned := match fin? 9 o with
    | some r =>
      let s := if tryFront s p r false = SlotTry.noCredit then
          (chrEvent (Chr.port p.val) 5 r.val 1 s).onPort p fun y => { y with skipped := satInc 16 y.skipped } else s
      slotIssue p r false (slotIssue p r false (s, []))
    | none => (s, [])
  let s := owned.1
  if !owned.2.isEmpty then s
  else
    let s := if o < 9 then chrEvent (Chr.port p.val) 3 o 1 s else s
    let ready : ReachId → Bool := fun n => s.port[p].spillEn[n] && (match tryFront s p (svcOf n) true with
      | .issue _ _ _ => true
      | _ => false)
    match (cyclicAfter s.port[p].spillLast).find? ready with
    | some n =>
      let s := chrEvent (Chr.port p.val) 6 n.val 1 (s.onPort p fun y => { y with spillLast := n })
      (slotIssue p (svcOf n) true (slotIssue p (svcOf n) true (s, []))).1
    | none => s

/-! ### Spill status (R48, R149) -/

/-- A spilled request of a reach is outstanding on some port. -/
def spillOut (s : State) (n : ReachId) : Bool :=
  s.port.toList.any fun p => p.txns.any fun t => t.spilled && t.svc == svcOf n && !t.lost

/-- SPILL_REACH falls once spill is off and every spilled request has been acknowledged. -/
def settleSpill (s : State) : State :=
  { s with iso := { s.iso with spillReach := vmapIdx (fun n b => b && (s.port[(0 : Fin 16)].spillEn[n] || spillOut s n)) s.iso.spillReach } }

/-! ### Responses (R144, R145, R151, R153, R154, R160) -/

def findMem (s : State) (p : PortId) (k : Rw) (tag : Nat) : Option MemTxn :=
  s.port[p].txns.find? fun t => t.req.kind == k && t.tag == tag

def dropMem (p : PortId) (k : Rw) (tag : Nat) (s : State) : State :=
  settleSpill (s.onPort p fun x => { x with txns := x.txns.filter fun t => !(t.req.kind == k && t.tag == tag) })

def setMem (p : PortId) (k : Rw) (tag : Nat) (f : MemTxn → MemTxn) (s : State) : State :=
  s.onPort p fun x => { x with txns := x.txns.map fun t => if t.req.kind == k && t.tag == tag then f t else t }

/-- Plaintext of a read line; none when a key is no longer VALID. -/
def plainLine (s : State) (r : SvcId) (addr : Nat) (d : Bytes) : Option Bytes :=
  let (a, b, _) := memSlots s r
  if slotValid s a && slotValid s b then some (xtsDecryptLines (slotKey s a) (slotKey s b) 2 addr (padTo 0 128 d)) else none

/-- A read's plaintext goes to the barge that asked for it, and its move goes on (R119). -/
def deliverRead (t : MemTxn) (s : State) : State :=
  let data : List (Nat × Nat × Nat) → List (Nat × Bytes) := fun ps => ps.map fun x => (x.2.2, slice t.data x.1 x.2.1)
  match t.req.use with
  | .move b id ps => portFill b (data ps) id false s
  | .operand b id ps => portFill b (data ps) id true s
  | _ => s

/-- A load whose image is released and whose writes are acknowledged has succeeded: INIT begins (R157, R168). -/
def finishLoad (s : State) : State :=
  match s.loader.job with
  | none => s
  | some j =>
    if j.complete ∧ j.writesLeft = 0 then
      let s := { s with loader := { s.loader with state := .done, status := Code.done, job := none } }
      let s := s.onReach j.reach fun x => { x with packageDigest := sha384 j.image }
      startLoads 8 (beginInit j.reach (some (j.tag, j.sq)) s)
    else s

/-- A write of the load engine has been acknowledged (R156). -/
def loadWritten (s : State) : State :=
  finishLoad { s with loader := { s.loader with job := s.loader.job.map fun j => { j with writesLeft := j.writesLeft - 1 } } }

/-- An acknowledgement goes to the requester. -/
def deliverWrite (t : MemTxn) (s : State) : State :=
  match t.req.use with
  | .store b id => moveDone b id s
  | .load => if t.svc = twilightSvc then s else loadWritten s
  | .tagLine => if t.svc = twilightSvc then s else loadWritten s
  | _ => s

/-- Barge and move that a request belongs to. -/
def MemUse.mover : MemUse → Option (BargeId × Nat)
  | .move b i _ => some (b, i)
  | .operand b i _ => some (b, i)
  | .store b i => some (b, i)
  | _ => none

/-- The other half of a weight block among the outstanding reads of the same use. -/
def otherHalf (s : State) (p : PortId) (t : MemTxn) : Option MemTxn :=
  s.port[p].txns.find? fun x => x.req.kind == .rd && x.tag != t.tag && x.svc == t.svc && x.req.block == t.req.block
    && x.req.region == t.req.region && x.req.addr / 256 == t.req.addr / 256 && !x.discard && !x.lost
    && x.req.use.mover == t.req.use.mover

/-- A response later than its level (R144). -/
def lateMem (p : PortId) (r : SvcId) (s : State) : State :=
  (chrEvent (Chr.port p.val) 4 r.val 1 s).onPort p fun x => { x with late := satInc 16 x.late }

/-- The data of a read are decrypted; none when a key is no longer VALID. -/
def MemTxn.decrypt (s : State) (t : MemTxn) : Option MemTxn :=
  (plainLine s t.svc t.req.addr t.data).map fun d => { t with data := d, plain := true }

/-- Release a weight block whose halves are decrypted, when both halves' levels have passed (R144). -/
def releaseBlock (p : PortId) (lo hi : MemTxn) (late : Bool) (s : State) : State :=
  if lo.due && hi.due then
    let s := dropMem p .rd hi.tag (dropMem p .rd lo.tag s)
    deliverRead hi (deliverRead lo (if late then lateMem p lo.svc s else s))
  else s

/-- A weight block whose halves and tag have all come is checked and decrypted, then released (R151, R153). -/
def checkBlock (p : PortId) (tag : Nat) (late : Bool) (s : State) : State :=
  match findMem s p .rd tag with
  | none => s
  | some t =>
    match otherHalf s p t, t.blockTag with
    | some o, some want =>
      let (lo, hi) := if t.req.addr < o.req.addr then (t, o) else (o, t)
      if !t.answered || !o.answered then s
      else if t.plain then releaseBlock p lo hi late s
      else
        let c := padTo 0 128 lo.data ++ padTo 0 128 hi.data
        let gone := fun s => dropMem p .rd o.tag (dropMem p .rd t.tag s)
        let (st, key, s) := useKey (memSlots s t.svc).2.2 .culvertTag t.svc.val s
        if st ≠ Code.done then memError t.svc st (gone s)
        else if weightTag key lo.req.addr (loadGenOf s t.svc) t.req.region c = want then
          match lo.decrypt s, hi.decrypt s with
          | some lo, some hi => releaseBlock p lo hi late (setMem p .rd hi.tag (fun _ => hi) (setMem p .rd lo.tag (fun _ => lo) s))
          | _, _ => gone s
        else
          let s := (gone s).onPort p fun x => { x with tagErr := satInc 16 x.tagErr, tagErrReach := alertReach t.svc.val % 16 }
          memError t.svc Code.weightTagFail (portAlert Code.weightTagFail p t.svc.val 0 s)
    | _, _ => s

/-- A tag line has come: stored, and given to the blocks that wait for it, which are checked (R154). -/
def lineArrived (p : PortId) (t : MemTxn) (data : Bytes) (s : State) : State :=
  let line : TagLine := { svc := t.svc, addr := t.req.addr, data := padTo 0 128 data }
  let give : MemTxn → MemTxn := fun x =>
    match reqTagAddr s x.svc x.req with
    | some a => if x.svc = t.svc ∧ lineOf a = t.req.addr ∧ x.req.kind = .rd then { x with blockTag := some (tagIn line.data a) } else x
    | none => x
  let s := s.onPort p fun x => { x with tagLines := touchLine line x.tagLines, txns := x.txns.map give }
  let late := fun (tag : Nat) (s : State) => (findMem s p .rd tag).any fun x => x.due
  forAll ((s.port[p].txns.filter fun x => x.req.kind == .rd && x.svc == t.svc && x.blockTag.isSome).map (·.tag))
    (fun tag s => checkBlock p tag (late tag s) s) s

/-- Blocks that wait for a tag line of a service. -/
def waitingFor (s : State) (p : PortId) (t : MemTxn) : List Nat :=
  (s.port[p].txns.filter fun x => x.svc == t.svc && x.req.kind == .rd && x.blockTag.isNone
    && (match reqTagAddr s x.svc x.req with
      | some a => lineOf a == t.req.addr
      | none => false)).map (·.tag)

/-- A read ended without data: uncorrectable or timed out (R145, R159). The blocks that waited for a tag line, and the other
half of a block, are given up with it: their tags return as their responses come. -/
def readLost (p : PortId) (t : MemTxn) (cause : Nat) (s : State) : State :=
  let lost : List Nat := if t.req.use = .tagLine then waitingFor s p t
    else if t.req.block.isSome then ((otherHalf s p t).map (·.tag)).toList
    else []
  let s := s.onPort p fun x => { x with txns := discardTxns (fun y => y.req.kind == .rd && decide (y.tag ∈ lost)) x.txns }
  memError t.svc Code.memUncorrectable (portAlert Code.memUncorrectable p t.svc.val cause s)

/-- A response to a tag that is not outstanding (R413). -/
def strayMem (p : PortId) (s : State) : State :=
  portAlert Code.memUncorrectable p 0xF 0 (s.onPort p fun x => { x with uncorrectable := satInc 8 x.uncorrectable })

/-- Count a response's status; whether it is UNCORRECTABLE. -/
def countStatusMem (p : PortId) (status : BitVec 2) (s : State) : State :=
  s.onPort p fun x =>
    if status = 0 then x
    else if status = 1 then { x with corrected := satInc 16 x.corrected }
    else { x with uncorrectable := satInc 8 x.uncorrectable }

/-- A read response by tag. -/
def readAnswer (p : PortId) (tag : Nat) (status : BitVec 2) (data : Bytes) (s : State) : State :=
  match findMem s p .rd tag with
  | none => strayMem p s
  | some t =>
    if t.answered then strayMem p s
    else if t.lost then dropMem p .rd tag s
    else
      let s := countStatusMem p status s
      if t.discard then dropMem p .rd tag s
      else if 2 ≤ status.toNat then readLost p t 0 (dropMem p .rd tag s)
      else if t.req.use = .tagLine then lineArrived p t data (dropMem p .rd tag s)
      else if t.req.block.isSome then
        let s := setMem p .rd tag (fun x => { x with answered := true, data }) s
        checkBlock p tag t.due s
      else
        match { t with data, answered := true }.decrypt s with
        | none => dropMem p .rd tag s
        | some u => if t.due then deliverRead u (dropMem p .rd tag (lateMem p t.svc s)) else setMem p .rd tag (fun _ => u) s

/-- A write acknowledgement by tag. -/
def writeAnswer (p : PortId) (tag : Nat) (status : BitVec 2) (s : State) : State :=
  match findMem s p .wr tag with
  | none => strayMem p s
  | some t =>
    if t.answered then strayMem p s
    else
      let s := countStatusMem p status s
      if t.discard then dropMem p .wr tag s
      else if 2 ≤ status.toNat then
        let s := portAlert Code.memUncorrectable p t.svc.val 0 (dropMem p .wr tag s)
        match t.req.use with
        | .store _ _ => memError t.svc Code.memUncorrectable s
        | _ => if t.svc = twilightSvc then memError t.svc Code.memUncorrectable s else failLoad Code.memUncorrectable s
      else if t.due then deliverWrite t (dropMem p .wr tag (lateMem p t.svc s))
      else setMem p .wr tag (fun x => { x with answered := true }) s

end Sys2Proof.Machine
end

