-- ==== Sys2Proof/Machine/ReachOps.lean ====
section
/-! DEFINITION. Shared operations of the reach commands: choosing a layout (R163 to R165, R297, R360) and draining (R169). -/

namespace Sys2Proof.Machine

/-- A layout that Meridian has chosen (R163 to R165). -/
structure Layout where
  barges : List BargeId
  units : List Nat
  phase : Nat
  keyFirst : Nat
  windows : List (List Nat)
  budget : Nat
  deriving DecidableEq, Repr

/-- What REACH_CREATE asks for (R390). -/
structure CreateArgs where
  flights : Nat
  units : Nat
  k : Nat
  base : Nat
  pages : Nat
  keys : Nat
  aqd : Vector Nat 4
  deriving DecidableEq, Repr

/-- Every field lies in its range (R163, R248). -/
def CreateArgs.ok (a : CreateArgs) : Bool :=
  decide (1 ≤ a.flights ∧ a.flights ≤ 8 ∧ 1 ≤ a.units ∧ a.units ≤ 8) && decide (a.k ∈ [1, 2, 4, 8, 16, 32, 64])
    && decide (a.base % 4096 = 0 ∧ 1 ≤ a.pages ∧ a.pages ≤ 2 ^ 28 ∧ a.base + 4096 * a.pages ≤ 2 ^ 48)
    && decide (4 ≤ a.keys ∧ a.keys ≤ 32)
    && (idxs 4).all fun l => decide (a.aqd[l] ≤ 16) && (a.aqd[l] == 0 || decide (6 + 2 * l.val ≤ a.keys))

/-- The window overlaps that of another reach. -/
def overlaps (s : State) (base size : Nat) : Bool :=
  s.reach.toList.any fun x => x.state != .empty
    && decide (base < x.memBase + 4096 * x.memPages) && decide (x.memBase < base + size)

/-- Barges free for allocation, lowest first (R82). -/
def freeBarges (s : State) : List BargeId :=
  (idxs 34).filter fun b => s.barge[b].role == .spare && s.col.barge != some b && !s.barge[b].dredging && s.barge[b].cleared

/-- Positions of a reach with `k` slots at a phase (R164). -/
def slotPositions (k p : Nat) : List Nat := (List.range k).map fun i => p + i * (64 / k)

/-- Slot positions that reaches hold. -/
def heldPositions (s : State) : List Nat :=
  s.reach.toList.flatMap fun x => if x.slotCount = 0 then [] else slotPositions x.slotCount x.slotPhase

/-- The lowest phase at which no position belongs to another reach (R164). -/
def freePhase (s : State) (k : Nat) : Option Nat :=
  let held := heldPositions s
  (List.range (64 / k)).find? fun p => (slotPositions k p).all fun x => decide (x ∉ held)

/-- The lowest range of `n` Ephemeris slots from 32 that overlaps no other (R163, R165). -/
def freeKeys (s : State) (n : Nat) : Option Nat :=
  ((List.range (225 - n)).map (· + 32)).find? fun f =>
    s.reach.toList.all fun x => x.keyCount == 0 || decide (f + n ≤ x.keyFirst) || decide (x.keyFirst + x.keyCount ≤ f)

/-- Window slots from `pos`, with `a` gaps of `q` and `b` gaps of `q + 1` left, the last of which leads back to the first slot. -/
def gapSearch (free : Nat → Bool) (q : Nat) : (fuel a b pos : Nat) → Option (List Nat)
  | 0, _, _, _ => none
  | f + 1, a, b, pos =>
    if 16 ≤ pos ∨ !free pos then none
    else if a + b = 1 then some [pos]
    else
      match (if 0 < a then gapSearch free q f (a - 1) b (pos + q) else none) with
      | some l => some (pos :: l)
      | none => (if 0 < b then gapSearch free q f a (b - 1) (pos + q + 1) else none).map (pos :: ·)

/-- The lowest-numbered free window slots of a link whose cyclic gaps differ by at most one (R297). -/
def freeWindows (w : Vector Nat 16) (n : Nat) : Option (List Nat) :=
  if n = 0 then some []
  else (List.range 16).findSome? fun p => gapSearch (fun i => w.toList.getD i 0 == 0xF) (16 / n) 17 (n - 16 % n) (16 % n) p

/-- The layout for a command's fields, or none when the free resources cannot satisfy them. -/
def layoutFor (s : State) (a : CreateArgs) : Option Layout :=
  let barges := (freeBarges s).take (4 * a.flights)
  let spares := ((idxs 34).filter fun b => s.barge[b].role == .spare).length
  let units := ((idxs 8).filter fun u => s.basin.units[u].owner == 0xF).map (·.val) |>.take a.units
  let windows := (idxs 4).map fun l =>
    if a.aqd[l] = 0 then some [] else if decide (l ∈ s.alm.links) then freeWindows s.link[l].wheel a.aqd[l] else none
  let owned := total (s.reach.toList.map fun x => 4 * x.flights)
  let reaches := (s.reach.toList.filter fun x => x.state != .empty).length
  let budget := min (13 * (4 * a.flights)) (headroom s)
  match freePhase s a.k, freeKeys s a.keys, windows.mapM id with
  | some phase, some keyFirst, some windows =>
    if barges.length < 4 * a.flights ∨ spares < 4 * a.flights + 2 ∨ units.length < a.units
        ∨ overlaps s a.base (4096 * a.pages) ∨ budget < 24 * a.flights
        ∨ variantOwned s.alm.model < owned + 4 * a.flights ∨ variantReaches s.alm.model < reaches + 1 then none
    else some { barges, units, phase, keyFirst, windows, budget }
  | _, _, _ => none

/-- The status a REACH_CREATE is refused with (R165, R243). -/
def createBad (s : State) (reach : Nat) (a : CreateArgs) : Option Nat :=
  match fin? 8 reach with
  | none => some Code.badDescriptor
  | some n =>
    if s.reach[n].state ≠ .empty then some Code.badState
    else if s.mer.rootsStopped then some Code.almMarginal
    else if !a.ok then some Code.badDescriptor
    else if (layoutFor s a).isNone then some Code.resources
    else none

/-- Slot positions take an owner. -/
def takeSlots (l : List Nat) (o : Nat) (v : Vector Nat 64) : Vector Nat 64 :=
  vmapIdx (fun i x => if i.val ∈ l then o else x) v

/-- An accepted REACH_CREATE: the entry written and locked, its resources assigned with the new epoch (R164 to R168, R173,
R297, R360, R380, R383). -/
def createReach (n : ReachId) (a : CreateArgs) (y : Layout) (s : State) : State :=
  let s := newEpoch n s
  let pend := s.reach[n].pendingDebug
  let s := s.onReach n fun x =>
    { state := x.state, epoch := x.epoch, loadGen := x.loadGen, locked := true, debug := pend, opened := pend == .opened
      flights := a.flights, units := y.units, slotCount := a.k, slotPhase := y.phase, keyFirst := y.keyFirst
      keyCount := a.keys, aqd := a.aqd, memBase := a.base, memPages := a.pages }
  let s := setReachState n .loading s
  let s := (y.barges.zip (List.range y.barges.length)).foldl (fun s x => assignBarge x.1 n x.2 s) s
  let e := s.reach[n].epoch
  let s := forAll y.units (fun u s => setUnitEpoch u e (setUnitOwner u n.val (clearUnit u s))) s
  let pos := slotPositions a.k y.phase
  let p : Port → Port := fun p =>
    { p with nextWheel := some (takeSlots pos n.val (p.nextWheel.getD p.wheel)), quota := put p.quota n (16 * a.k) }
  let f : LinkId → Link → Link := fun l k =>
    { k with
      wheel := vmapIdx (fun i x => if i.val ∈ y.windows.getD l.val [] then n.val else x) k.wheel
      chan := put k.chan ⟨n.val, by omega⟩ { share := a.aqd[l] } }
  let s := { s with
    port := vmap p s.port
    sys := { s.sys with wheel := takeSlots pos n.val s.sys.wheel }
    link := vmapIdx f s.link }
  let s := s.onKeeper (svcOf n) fun k => { k with core := .running }
  s.onSlu fun u => { u with reach := upd u.reach n fun x => { x with budgetW8 := y.budget } }

/-! ### Draining (R168, R169) -/

/-- A LOAD command whose partial Dredge runs is answered with the status it failed with. -/
def answerFailed (n : ReachId) (s : State) : State :=
  match s.reach[n].loadRec with
  | some (tag, sq, st) => answerLoad n tag st sq (s.onReach n fun x => { x with loadRec := none })
  | none => s

/-- The status a drain is refused with (R169, R170). -/
def drainBad (s : State) (n : ReachId) (cancel : Bool) : Option Nat :=
  match s.reach[n].state with
  | .empty => some Code.badState
  | .dredging => some Code.badState
  | .draining => if cancel && !s.reach[n].drainCancel then none else some Code.badState
  | _ => none

/-- A drain ends the sessions to a LOADING reach: a delivery in one of them is still answered (R296). -/
def markDrained (n : ReachId) (s : State) : State :=
  s.onSpdm fun x =>
    { x with drained := vmapIdx (fun i d =>
        d || x.sessions[i].any fun y => y.target == n.val && y.phase == .established) x.drained }

/-- A drain of a reach, by the operator or its tenant. -/
def drainReach (n : ReachId) (cancel : Bool) (s : State) : State :=
  let r := svcOf n
  match s.reach[n].state with
  | .loading => beginDredge n .full (answerFailed n (stopLoad n Code.cancelled (markDrained n s)))
  | .sealed =>
    let s := setReachState n .draining (s.onReach n fun x => { x with drainCancel := cancel })
    checkDrained r (if cancel then cancelAll r s
      else endReqs r (fun q => q.state == .queued || q.state == .moored) Code.cancelled s)
  | .draining => checkDrained r (cancelAll r (s.onReach n fun x => { x with drainCancel := true }))
  | _ => s

end Sys2Proof.Machine
end

