-- ==== Sys2Proof/Machine/Towpath.lean ====
section
/-! DEFINITION. Towpath's commands (R346, R349 to R352, R354). -/

namespace Sys2Proof.Machine

/-- Window offset of a channel's registers. -/
def twpOffset (c : ChanId) (o : Nat) : Nat := 0x20000 + 0x100 * c.val + o

/-- A write of the System Port to a TWP register leaves KEEP first (R372). -/
def twpWake (mid : Nat) (s : State) : State := if mid ≤ 1 then keepWake s else s

/-- The record of a write refused under rule STATE (R350). -/
def twpState (offset lsb written applied mid width : Nat) (s : State) : State :=
  audit { offset, lsb, written, applied, rule := AuditRule.state, mid, width } s

/-- TWP_MSG_WRITE: the sender's word, while the channel is EMPTY (R349, R350). -/
def execTwpMsgWrite (mid : Nat) (c : ChanId) (w : Fin 16) (data : Word) (s : State) : Out :=
  let s := twpWake mid s
  let x := s.twp.chan[c]
  let bad := twpState (twpOffset c (4 * w.val)) 0 data.toNat x.words[w].toNat mid 32 s
  match x.state with
  | .unbound => .next bad
  | .full => if mid = x.sender then .next bad else .next s
  | .empty => if mid = x.sender then .next (onTwpChan c (fun y => { y with words := put y.words w data }) s) else .next s

/-- SEND (R349, R350). -/
def execSend (mid : Nat) (c : ChanId) (s : State) : Out :=
  let s := twpWake mid s
  let x := s.twp.chan[c]
  match x.state with
  | .unbound => .next (twpState (twpOffset c 0x40) 0 1 0 mid 1 s)
  | .full => if mid = x.sender then .next (twpState (twpOffset c 0x40) 0 1 0 mid 1 s) else .next s
  | .empty => if mid = x.sender then .next (postMsg c s) else .next s

/-- Meridian posts the next outcome of a Towpath stream when channel 1 is EMPTY (R348). -/
def pumpOutcome (s : State) : State :=
  match s.stc.outcomes with
  | [] => s
  | (st, d) :: l =>
    if s.twp.chan[(1 : ChanId)].state = .empty then
      let ws := (3#32) :: BitVec.ofNat 32 st :: (List.range 12).map fun i => BitVec.ofNat 32 (leAt d (4 * i) 4)
      postMsg 1 (onTwpChan 1 (fun y => { y with words := msgWords ws }) (s.onStc fun x => { x with outcomes := l }))
    else s

/-- TAKEN (R349, R350). -/
def execTaken (mid : Nat) (c : ChanId) (s : State) : Out :=
  let s := twpWake mid s
  let x := s.twp.chan[c]
  match x.state with
  | .unbound => .next (twpState (twpOffset c 0x40) 1 1 0 mid 1 s)
  | .empty => if mid = x.receiver then .next (twpState (twpOffset c 0x40) 1 1 0 mid 1 s) else .next s
  | .full =>
    if mid = x.receiver then
      .next (pumpOutcome (takeMsg c (if mid = 3 then chrAlways Chr.meridian 5 1 s else s)))
    else .next s

/-- TWP_BIND_WRITE: only Meridian, and only before LOCK; a binding of a wrong identity keeps its previous value (R346,
R354). -/
def execTwpBindWrite (mid : Nat) (c : ChanId) (data : Word) (s : State) : Out :=
  let d := data.toNat
  let (a, b, v) := (bits d 0 8, bits d 8 8, bit d 16)
  let x := s.twp.chan[c]
  if mid ≠ 3 ∨ s.twp.lock then .next (twpWake mid s)
  else if v && !(twpMaster a && twpMaster b && a != b) then
    .next (audit { offset := 0x22000 + 4 * c.val, lsb := 0, written := bits d 0 17,
                   applied := x.sender + fld x.receiver 8 + fld (b2n x.valid) 16, rule := AuditRule.encoding, mid, width := 17 } s)
  else if v then
    .next (onTwpChan c (fun y => { y with
      sender := a, receiver := b, valid := true, state := if y.state = .unbound then .empty else y.state }) s)
  else .next (onTwpChan c (fun _ => { sender := a, receiver := b }) s)

/-- TWP_LOCK: set by Meridian only (R347, R354). -/
def execTwpLock (mid : Nat) (s : State) : Out :=
  if mid = 3 then .next (s.onTwp fun t => { t with lock := true }) else .next (twpWake mid s)

/-- Bits of a W1C write cleared. -/
def w1c (v : Vector Bool 32) (data : Word) : Vector Bool 32 := vmapIdx (fun i x => x && !data.getLsbD i.val) v

/-- TWP_DB_CLEAR: the endpoint's own W1C write (R352). -/
def execTwpDbClear (mid : Nat) (e : Fin 13) (data : Word) (s : State) : Out :=
  let s := twpWake mid s
  if mid = e.val then .next (onEndpoint e.val (fun x => { x with db := w1c x.db data }) s) else .next s

/-- TWP_EMPTY_CLEAR (R352). -/
def execTwpEmptyClear (mid : Nat) (e : Fin 13) (data : Word) (s : State) : Out :=
  let s := twpWake mid s
  if mid = e.val then .next (onEndpoint e.val (fun x => { x with empty := w1c x.empty data }) s) else .next s

end Sys2Proof.Machine
end

