-- ==== Sys2Proof/Machine/Staircase.lean ====
section
/-! DEFINITION. Staircase streams and Drydock (R337 to R344): pieces by their routes, forwarding, application, outcomes, and
the operator's commands. -/

namespace Sys2Proof.Machine

/-! ### Forwarding and acknowledging (R339, R340, R341) -/

def onJob (f : Stream → Stream) (s : State) : State := s.onStc fun c => { c with job := c.job.map f }

/-- PUBLIC frames of a stream's bytes [lo, hi), in parts of 896 bytes. -/
def publicParts (number lo hi : Nat) (d : Bytes) : List OutFrame :=
  (List.range ((hi - lo + 895) / 896)).map fun i =>
    { typ := FrameTyp.content, seq := number, offset := lo + 896 * i, payload := slice d (lo + 896 * i) (min 896 (hi - lo - 896 * i)) }

/-- Bytes of a stream by its manifest: its body is BODY_BYTES, and in Drydock, which takes only full images and ignores
BASE_DIGEST, the whole set (R332, R343). -/
def streamTotal (drydock : Bool) (m : Bytes) : Nat := manifestBytes + if drydock then setBytes m else bodyBytes m

/-- Forward what has arrived and not been forwarded: whole parts, and the rest at the stream's end (R339). -/
def forwardNew (s : State) : State :=
  match s.stc.job with
  | none => s
  | some j =>
    let n := j.recvd.length
    let hi := if n = streamTotal j.drydock j.recvd then n else n / 896 * 896
    if hi ≤ j.sent then s
    else
      let fs := publicParts j.number j.sent hi j.recvd
      onJob (fun j => { j with sent := hi }) (forAll j.forwards (fun l s => forAll fs (queueFrame l 8) s) s)

/-- Send an ACK back along a route: the operator's log, or the upstream neighbour (R340). -/
def sendBack (route : StreamRoute) (ack : Bytes) (s : State) : State :=
  match route with
  | .link l => queueFrame l 8 { typ := FrameTyp.content, seq := 0, offset := 0, payload := ack } s
  | _ => s.onStc fun c => { c with acks := (c.acks ++ [ack]).drop ((c.acks.length + 1) - 64) }

/-- A stream of a route meets its outcome: LAST_STATUS, its ACK, and the channel-1 message of a Towpath stream (R340, R345,
R348). -/
def reportStream (route : StreamRoute) (digest : Bytes) (status : Nat) (s : State) : State :=
  let s := s.onStc fun c => { c with lastStatus := status }
  let s := sendBack route (ackBytes s digest status) s
  if route = .towpath then pumpOutcome (s.onStc fun c => { c with outcomes := c.outcomes ++ [(status, padTo 0 48 digest)] }) else s

/-- The TARGET_DIGEST of a stream whose manifest is complete. -/
def jobDigest (j : Stream) : Bytes := if manifestBytes ≤ j.recvd.length then targetDigest j.recvd else []

/-- The stream in progress ends: a slot that was WRITING becomes EMPTY unless the image was applied (R341). -/
def endStream (status : Nat) (s : State) : State :=
  match s.stc.job with
  | none => s
  | some j =>
    let s := if (slotOf s j.toA).ctl = .writing then writeCtl (setSlot j.toA .empty) s else s
    reportStream j.route (jobDigest j) status (s.onStc fun c => { c with job := none })

/-! ### Pieces (R338, R339, R343) -/

/-- The digest of a slot that an image would only repeat. -/
def alreadyHeld (s : State) (d : Bytes) : Bool :=
  [true, false].any fun a =>
    let x := slotOf s a
    (x.ctl == .pending || x.ctl == .trial || x.ctl == .active) && targetDigest x.manifest == d

/-- Links a stream is forwarded on: Meridian channel OPEN, not its own link, not excluded (R339). -/
def forwardLinks (s : State) (route : StreamRoute) : List LinkId :=
  (idxs 4).filter fun l =>
    s.link[l].chan[(8 : Fin 9)].state == .opened && decide (route ≠ .link l) && !bit s.stc.routeMask l.val

/-- The standby slot is marked WRITING and erased (R339); the Boot Store may fail either (R331). -/
def openSlot (toA : Bool) (s : State) : State :=
  let (ok, s) := tryWriteCtl (setSlot toA .writing) s
  let (ok2, s) := if ok then storeOp s else (ok, s)
  if ok2 then s.onStc (onSlot toA fun x => { x with manifest := [], set := [] })
  else onJob (fun j => { j with outcome := some Code.storeFail }) s

/-- The manifest of a stream is complete: it is verified, forwarding is decided, and the slot is marked WRITING (R333, R339). -/
def judgeManifest (s : State) : State :=
  match s.stc.job with
  | none => s
  | some j =>
    let m := j.recvd.take manifestBytes
    let (signed, s) := manifestSigned m s
    if !manifestForm m then endStream Code.badDescriptor s
    else if !signerAccepted s m || !signed then endStream Code.imageAuthFail s
    else if alreadyHeld s (targetDigest m) then endStream Code.alreadyDone s
    else
      let fwd := if j.drydock then [] else forwardLinks s j.route
      let outcome := if !versionOk s m then some Code.rollbackRefused
        else if !j.drydock && !fullImage m && baseDigest m != sha384 (runningSet s) then some Code.baseMismatch
        else none
      let s := onJob (fun j => { j with phase := .receiving, forwards := fwd, outcome, toA := standbyIsA s }) s
      let s := if fwd.isEmpty then s else s.onStc fun c => { c with backRoute := j.route }
      let s := if outcome.isNone then openSlot (standbyIsA s) s else s
      forwardNew (s.onStc fun c => { c with bytesOut := 0 })

/-- What follows newly arrived bytes: the manifest judged, once Astrolabe serves Meridian (R264, R293), parts forwarded, and the
stream's end. -/
def advanceStream (s : State) : State :=
  let s := match s.stc.job with
    | some j =>
      if j.phase = StreamPhase.manifest ∧ manifestBytes ≤ j.recvd.length then (if astReady s then judgeManifest s else s)
      else forwardNew s
    | none => s
  match s.stc.job with
  | none => s
  | some j =>
    if j.phase = StreamPhase.receiving ∧ streamTotal j.drydock j.recvd ≤ j.recvd.length then
      if streamTotal j.drydock j.recvd < j.recvd.length then endStream Code.badDescriptor s
      else
        match j.outcome with
        | some st => endStream st s
        | none => onJob (fun j => { j with phase := .applying }) s
    else s

/-- A piece of a stream: the state after, and the answer's status. Pieces come in OFFSET order with no gap (R338). -/
def streamPiece (route : StreamRoute) (drydock : Bool) (seq : Option Nat) (offset : Nat) (data : Bytes) (s : State) : Nat × State :=
  match s.stc.job with
  | none =>
    if offset = 0 ∧ data ≠ [] then
      (Code.done, advanceStream (s.onStc fun c =>
        { c with
          job := some { route, number := seq.getD c.nextStream, drydock, recvd := data, lastAt := secPs s }
          nextStream := if seq.isSome then c.nextStream else c.nextStream + 1 }))
    else (Code.badDescriptor, refuse "STREAM" Code.badDescriptor s)
  | some j =>
    if j.route ≠ route ∨ seq.any (· != j.number) then
      (Code.badState, if offset = 0 then reportStream route [] Code.badState s else refuse "STREAM" Code.badState s)
    else if j.phase = .applying ∨ offset ≠ j.recvd.length ∨ data = [] then (Code.badDescriptor, endStream Code.badDescriptor s)
    else (Code.done, advanceStream (onJob (fun j => { j with recvd := j.recvd ++ data, lastAt := secPs s }) s))

/-- Abort the stream in progress; the abort is forwarded as an empty PUBLIC frame (R341; assumption 17). -/
def abortStream (s : State) : State :=
  match s.stc.job with
  | none => s
  | some j =>
    endStream Code.cancelled (forAll j.forwards (fun l =>
      queueFrame l 8 { typ := FrameTyp.content, seq := j.number, offset := j.sent, payload := [] }) s)

/-- STC_STREAM: a piece over the Management Port, in an operator session in FULL (R338, R344). -/
def execStcStream (offset : Nat) (data : Bytes) (s : State) : Out :=
  .next (fullOperator "STC_STREAM" (fun s =>
    if 4096 < data.length ∨ data = [] then refuseMgmt "STC_STREAM" Code.badDescriptor s
    else
      let (st, s) := streamPiece .mgmt false none offset data s
      answer st [] s) s)

/-- DRYDOCK_STREAM: a full-image piece in Drydock, over the Management Port as a message of type 0x7F, or a link with a ready
transport (R343). -/
def execDrydockStream (link : Option LinkId) (offset : Nat) (data : Bytes) (s : State) : Out :=
  if s.mer.halted then .next (refuse "DRYDOCK_STREAM" Code.badState s)
  else if s.mer.phase ≠ .drydock then .next (refuseMgmt "DRYDOCK_STREAM" Code.badState (asType 0x7F s))
  else
    match link with
    | none =>
      let (st, s) := streamPiece .mgmt true none offset data (asType 0x7F s)
      .next (answer st [] s)
    | some l =>
      if s.link[l].ready then .next (streamPiece (.link l) true none offset data s).2
      else .next (refuse "DRYDOCK_STREAM" Code.badState s)

/-- Bytes of words 2 to 15 of the message on channel 0. -/
def towpathData (s : State) : Bytes := (s.twp.chan[(0 : ChanId)].words.toList.drop 2).flatMap fun w => leBytes 4 w.toNat

/-- TOWPATH_STREAM_PIECE: Meridian takes the message on channel 0 (R338, R343, R344). -/
def execTowpathStreamPiece (s : State) : Out :=
  let x := s.twp.chan[(0 : ChanId)]
  let dry := s.mer.phase == .drydock
  if x.state ≠ .full || !(s.mer.phase == .full || dry) || s.mer.halted then .next (refuse "TOWPATH_STREAM_PIECE" Code.badState s)
  else
    let w1 := x.words[(1 : Fin 16)].toNat
    let len := bits w1 8 8
    let d := (towpathData s).take len
    let off := x.words[(0 : Fin 16)].toNat
    let s := takeMsg 0 s
    if bits w1 0 8 = 1 ∧ 1 ≤ len ∧ len ≤ 56 then .next (streamPiece .towpath dry none off d s).2
    else
      match s.stc.job with
      | some j =>
        if j.route ≠ .towpath then .next (refuse "TOWPATH_STREAM_PIECE" Code.badState s)
        else if bits w1 0 8 = 2 then .next (abortStream s) else .next (endStream Code.badDescriptor s)
      | none => .next (refuse "TOWPATH_STREAM_PIECE" Code.badDescriptor s)

/-- STREAM_APPLIED: the records are applied to the standby slot, the manifest is written, the set is read back and both digests
compared (R334, R339, R341); `storeOk` says that no access failed twice (R331). In Drydock a stream that reaches DONE begins a
start (R343). A manifest that waited for Astrolabe is judged first. -/
def execStreamApplied (storeOk : Bool) (s : State) : Out :=
  let s := if s.stc.job.any fun j => j.phase == .manifest then advanceStream s else s
  match s.stc.job with
  | none => .next (refuse "STREAM_APPLIED" Code.badState s)
  | some j =>
    if j.phase ≠ .applying ∨ s.mer.halted then .next (refuse "STREAM_APPLIED" Code.badState s)
    else
      let m := j.recvd.take manifestBytes
      let body := j.recvd.drop manifestBytes
      match if j.drydock then some body else buildSet m (runningSet s) body with
      | none => .next (endStream Code.badDescriptor s)
      | some out =>
        let (ok, s) := storeOps 3 (s.onStc fun c => { c with bytesOut := out.length })
        if !storeOk || !ok || sha384 out != targetDigest m then .next (endStream Code.storeFail s)
        else
          let s := s.onStc (onSlot j.toA fun x => { x with manifest := m, set := out })
          let (ok, s) := tryWriteCtl (setSlot j.toA .pending) s
          let s := endStream (if ok then Code.done else Code.storeFail) s
          if j.drydock && ok then .next (startBlock (dredgeBlock s)) else .next s

/-- An ACK from downstream travels on with HOPS one higher (R340). -/
def relayAck (ack : Bytes) (s : State) : State :=
  let up := ack.take 60 ++ [BitVec.ofNat 8 (min 255 (leAt ack 60 1 + 1))] ++ ack.drop 61
  sendBack s.stc.backRoute up s

def isAck (d : Bytes) : Bool := slice d 0 4 == [0x47, 0x58, 0x41, 0x4B] && decide (64 ≤ d.length)

/-- STAIRCASE_ACK: an ACK arrives from downstream on an OPEN Meridian channel (R340). -/
def execStaircaseAck (link : LinkId) (ack : Bytes) (s : State) : Out :=
  if s.mer.phase = .full ∧ s.link[link].chan[(8 : Fin 9)].state = .opened ∧ isAck ack then .next (relayAck (ack.take 64) s)
  else .next (refuse "STAIRCASE_ACK" Code.badState s)

/-- STREAM_TIMEOUT: no piece for 10 s (R338). -/
def execStreamTimeout (s : State) : Out :=
  match s.stc.job with
  | none => .next (refuse "STREAM_TIMEOUT" Code.badState s)
  | some j =>
    if j.phase = .applying ∨ s.mer.halted ∨ !waited (secPs s) j.lastAt (10 * secondPs) then .next (refuse "STREAM_TIMEOUT" Code.badState s)
    else .next (endStream Code.badDescriptor s)

/-! ### Commit and anti-rollback (R337) -/

/-- Advance counter 0 to the running SEC_VERSION. -/
def advanceCounter0 (s : State) : State :=
  if s.stc.running ≤ s.alm.counters[0] then s else syncRail 5 (almStart .internal (.counter 0 s.stc.running) s)

/-- COUNTER0_ADVANCE_TIMER: 3,600 s in FULL since the commit, or a retry 600 s after the window was not met. -/
def execCounter0AdvanceTimer (s : State) : Out :=
  match s.stc.committed with
  | some w =>
    if s.mer.phase = .full ∧ !s.mer.halted ∧ (if s.stc.cntPending then waited (secPs s) s.stc.triedAt (600 * secondPs)
        else waited (secPs s) w (3600 * secondPs)) then .next (advanceCounter0 s)
    else .next (refuse "COUNTER0_ADVANCE_TIMER" Code.badState s)
  | none => .next (refuse "COUNTER0_ADVANCE_TIMER" Code.badState s)

/-! ### Operator commands (R344) -/

/-- STC_ABORT, in FULL in an operator session, or in Drydock outside any; without a stream there is nothing to end. -/
def execStcAbort (s : State) : Out :=
  let f := fun (s : State) => answer Code.done [] (abortStream s)
  if s.mer.phase = .drydock ∧ !s.mer.halted then .next (f (asType 0x7F s)) else .next (fullOperator "STC_ABORT" f s)

def execStcConfirm (s : State) : Out :=
  .next (fullOperator "STC_CONFIRM" (fun s =>
    judged "STC_CONFIRM" (if s.stc.committed.isSome then none else some Code.badState) advanceCounter0 s) s)

/-- STC_DRYDOCK: FORCE_DRYDOCK is written and the block restarts with sys_rst_n semantics (R342); a record that cannot be written
fails the command (R331). -/
def execStcDrydock (s : State) : Out :=
  .next (fullOperator "STC_DRYDOCK" (fun s =>
    if s.stc.job.isSome then refuseMgmt "STC_DRYDOCK" Code.badState s
    else
      let (ok, s) := tryWriteCtl (fun c => { c with forceDrydock := true }) s
      if ok then startIfFree (enterReset Code.systemReset (answer Code.done [] s)) else refuseMgmt "STC_DRYDOCK" Code.storeFail s) s)

/-- STC_ROUTE: a bit set excludes its link until the next start. -/
def execStcRoute (mask : Nat) (s : State) : Out :=
  .next (fullOperator "STC_ROUTE" (fun s =>
    judged "STC_ROUTE" (if s.stc.job.isSome then some Code.badState else if 16 ≤ mask then some Code.badDescriptor else none)
      (fun s => s.onStc fun c => { c with routeMask := mask }) s) s)

/-- STC_PUSH: the running slot's manifest and set as PUBLIC frames on a link whose Meridian channel is CLOSED (R343). -/
def execStcPush (link : Nat) (s : State) : Out :=
  .next (fullOperator "STC_PUSH" (fun s =>
    match fin? 4 link with
    | none => refuseMgmt "STC_PUSH" Code.badDescriptor s
    | some l =>
      let k := s.link[l].chan[(8 : Fin 9)]
      if k.state ≠ .closed || !s.link[l].ready || !k.sendQ.isEmpty || s.mer.slot == .drydock || s.mer.slot == .none then
        refuseMgmt "STC_PUSH" Code.badState s
      else
        let x := bootedSlot s
        let d := x.manifest ++ x.set
        answer Code.done [] (onChan l 8 (fun k =>
          { k with gen2 := true, peer := 0x0E, credits := 1, sendQ := publicParts s.stc.nextStream 0 d.length d })
          (s.onStc fun c => { c with nextStream := c.nextStream + 1 }))) s)

/-- Bytes of the watch area (R330). -/
def watchBytes : Nat := 0x1800000

/-- WATCH_WRITE: bytes of the watch area, used at the next start (R344); the Boot Store may fail it (R331). -/
def execWatchWrite (offset : Nat) (data : Bytes) (s : State) : Out :=
  .next (fullOperator "WATCH_WRITE" (fun s =>
    if s.stc.job.isSome then refuseMgmt "WATCH_WRITE" Code.badState s
    else if data = [] ∨ 4096 < data.length ∨ watchBytes < offset + data.length then refuseMgmt "WATCH_WRITE" Code.badDescriptor s
    else
      let (ok, s) := storeOp s
      judged "WATCH_WRITE" (if ok then none else some Code.storeFail)
        (fun s => s.onStc fun c => { c with watch := memPut c.watch offset data }) s) s)

end Sys2Proof.Machine
end

