-- ==== Sys2Proof/Machine/Aqueduct.lean ====
section
/-! DEFINITION. Meanings of the Aqueduct commands: link opening, handshakes, windows sent and received, failures (R297 to R308),
and the generation 1 wrap key (R390). -/

namespace Sys2Proof.Machine

/-- The link's island runs and its transport is ready. -/
def linkUp (s : State) (l : LinkId) : Bool :=
  s.link[l].ready && s.isl[(⟨54 + l.val, by omega⟩ : Fin 64)].powered && !s.isl[(⟨54 + l.val, by omega⟩ : Fin 64)].inReset

/-! ### Failures (R301, R307) -/

/-- Requests of a reach whose channel is lost: the cycle in flight ends, then every ACTIVE and MOORED request. -/
def linkRequests (c : Fin 9) (s : State) : State :=
  match fin? 8 c.val with
  | none => s
  | some n =>
    let r := svcOf n
    let s := if s.keeper[r].form.isSome then endStep r Code.linkAuthFail none s else s
    checkDrained r (endReqs r (fun q => q.state == .active || q.state == .moored) Code.linkAuthFail s)

/-- A counter of AQD_ERR and LAST_CHAN by the cause: 1 AUTH, 2 SEQ, 3 TIMEOUT, 4 TRANSPORT (R45, R309). -/
def countFailure (l : LinkId) (c : Fin 9) (cause : Nat) (s : State) : State :=
  s.onLink l fun k =>
    { k with
      auth := if cause = 1 then satInc 8 k.auth else k.auth
      seqErr := if cause = 2 then satInc 8 k.seqErr else k.seqErr
      timeout := if cause = 3 ∨ cause = 4 then satInc 8 k.timeout else k.timeout
      lastChan := chanCode c }

/-- A channel failure. -/
def channelFailure (l : LinkId) (c : Fin 9) (cause : Nat) (s : State) : State :=
  let s := if cause = 4 then dropChan l c s else sendClose l c s
  countFailure l c cause (linkAlert l c cause (linkRequests c s))

/-! ### Sessions (R301 to R304) -/

/-- Frame credits of a channel: its share, or one for Meridian (R300). -/
def creditsOf (k : Chan) (c : Fin 9) : Nat := if c.val = 8 then 1 else k.share

/-- A channel OPEN: counters at 1, exchange counts at 0, all credits held. -/
def openChan (l : LinkId) (c : Fin 9) (s : State) : State :=
  let s := onChan l c (fun k =>
    { k with
      state := .opened, sendCtr := 1, recvCtr := 1, credits := creditsOf k c, owed := 0, commits := 0, xackRecvd := 0
      ordered := none, rekeys := 0, msgInit := [], msgResp := [], msgFin := [], ecdhKey := [], kemKey := []
      rekeyHold := false }) s
  match fin? 8 c.val with
  | some n => s.onLink l fun k => { k with xchg := upd k.xchg n fun x => { x with sent := 0, released := 0 } }
  | none => s

/-- WRITE a direction's key of a reach channel (R248, R258, R304). -/
def writeChanKey (l : LinkId) (c : Fin 9) (recv : Bool) (key : Bytes) (s : State) : State :=
  let i := chanKeySlot s l c recv
  writeSlot i key 0 none c.val [.aqueduct] .expire 0 (if slotValid s i then invalidateSlot i s else s)

/-- Write both keys and open (R304). -/
def openWithKeys (l : LinkId) (c : Fin 9) (secret transcript : Bytes) (initiator : Bool) (link ichan rchan : Nat) (s : State) :
    State :=
  let s := if c.val = 8 then s
    else
      let ctx := sha384 transcript ++ leBytes 1 link ++ leBytes 1 ichan ++ leBytes 1 rchan
      let i2r := kdf secret "GX24 AQD-I2R" ctx 32
      let r2i := kdf secret "GX24 AQD-R2I" ctx 32
      writeChanKey l c true (if initiator then r2i else i2r) (writeChanKey l c false (if initiator then i2r else r2i) s)
  openChan l c s

/-- Facts of a handshake message (R302). -/
def linkFacts (s : State) (c : Fin 9) (share : Nat) : Bytes :=
  match fin? 8 c.val with
  | some n =>
    [lcByte s.mer.lc] ++ leBytes 4 (reachState s n).toNat ++ padTo 0 48 s.reach[n].packageDigest
      ++ padTo 0 48 s.reach[n].tenantChain ++ leBytes 1 share ++ zeros 2
  | none => lcByte s.mer.lc :: zeros 103

/-- The reach of a channel can still carry a session: it is neither EMPTY nor DREDGING (R301; DEDUCED, assumption 111). -/
def chanReachUp (s : State) (c : Fin 9) : Bool := match fin? 8 c.val with
  | some n => s.reach[n].state != .empty && s.reach[n].state != .dredging
  | none => true

/-- The peer's facts meet R303. -/
def factsOk (s : State) (c : Fin 9) (share : Nat) (f : Bytes) : Bool :=
  let st := leAt f 1 4
  f.length == 104 && slice f 0 1 == [lcByte s.mer.lc] && chanReachUp s c && (match fin? 8 c.val with
    | some n =>
      bits st 0 3 == 2 && bits st 4 3 == 0 && slice f 5 48 == padTo 0 48 s.reach[n].packageDigest
        && slice f 53 48 == padTo 0 48 s.reach[n].tenantChain && leAt f 101 1 == share
    | none => true)

/-- Both chains of the block, as a handshake message carries them. -/
def chainBytes (s : State) : Bytes := (servedChain s false).flatten ++ (servedChain s true).flatten

/-- Code of the neighbour's channel. -/
def peerCode (l : LinkId) (c : Fin 9) : Nat := if c.val = 8 then 0x0E else (Config.peerChannel l c.val).val

/-- A handshake message as CTRL frames of 896 bytes. -/
def ctrlFrames (seq : Nat) (m : Bytes) : List OutFrame :=
  (List.range ((m.length + 895) / 896)).map fun i =>
    { typ := FrameTyp.ctrl, seq, offset := 896 * i, payload := (m.drop (896 * i)).take 896 }

def queueFrames (l : LinkId) (c : Fin 9) (fs : List OutFrame) (s : State) : State :=
  onChan l c (fun k => { k with sendQ := k.sendQ ++ fs }) s

/-- The initiator's INIT: its ephemeral keys stand in the channel's record. -/
def sendInit (l : LinkId) (c : Fin 9) (s : State) : State :=
  let (nonce, s) := draw 32 s
  let (x, s) := draw 64 s
  let (seed, s) := draw 64 s
  let dk := (Config.mlkemDk seed).toList
  let m := nonce ++ leBytes 1 l.val ++ leBytes 1 (chanCode c) ++ leBytes 1 (peerCode l c) ++ padTo 0 48 s.mer.deviceId
    ++ P384.pub (P384.scalar x) ++ (Config.mlkemEk dk).toList ++ chainBytes s ++ linkFacts s c s.link[l].chan[c].share
  queueFrames l c (ctrlFrames 0 m) (onChan l c (fun k => { k with msgInit := m, ecdhKey := x, kemKey := dk }) s)

/-- A generation 1 session: the initiator chooses a number above the last and sends it (R304); the channel is OPEN when it is
sent. -/
def sendSession (l : LinkId) (s : State) : State :=
  let n := match s.link[l].lastSession with
    | some n => n + 1
    | none => 1
  let s := s.onLink l fun k => { k with lastSession := some n }
  queueFrames l 8 (ctrlFrames 0 (leBytes 4 n)) (onChan l 8 (fun k => { k with session := n }) s)

/-- Own DEVICE_ID below the peer's: initiator (R301). -/
def initiates (s : State) (l : LinkId) : Bool := decide (beNat (padTo 0 48 s.mer.deviceId) < beNat (Config.peerDeviceId l).toList)

/-- A link-open: HANDSHAKE, and the initiator's first message (R301). -/
def beginHandshake (l : LinkId) (c : Fin 9) (s : State) : State :=
  let gen2 := c.val != 8 || !slotValid s 5
  let first := initiates s l
  let s := onChan l c (fun k =>
    { share := k.share, closing := k.closing, state := .handshake, responder := !first, gen2, peer := peerCode l c }) s
  if !first then s else if gen2 then sendInit l c s else sendSession l s

/-- Why LINK_OPEN is refused (R301). -/
def linkOpenBad (s : State) (l : LinkId) (c : Fin 9) : Option Nat :=
  if !linkUp s l ∨ s.link[l].chan[c].state ≠ .closed then some Code.badState
  else match fin? 8 c.val with
    | some n => if s.reach[n].state = .sealed ∧ 0 < s.link[l].chan[c].share then none else some Code.badState
    | none => none

/-- LINK_OPEN. -/
def execLinkOpen (link channel : Nat) (s : State) : Out :=
  .next (operator "LINK_OPEN" (fun s =>
    match fin? 4 link, chanOfCode channel with
    | some l, some c => judged "LINK_OPEN" (linkOpenBad s l c) (beginHandshake l c) s
    | _, _ => refuseMgmt "LINK_OPEN" Code.badDescriptor s) s)

/-- LINK_WRAP_KEY: slot 5 is invalidated, then written unless the key is zero (R390). -/
def execLinkWrapKey (key : Vector Byte 32) (s : State) : Out :=
  .next (operator "LINK_WRAP_KEY" (fun s =>
    let busy := (idxs 4).any fun l => s.link[l].chan[(8 : Fin 9)].state == .opened && !s.link[l].chan[(8 : Fin 9)].gen2
    judged "LINK_WRAP_KEY" (if busy then some Code.badState else none)
      (fun s =>
        let s := invalidateSlot 5 s
        if key.toList = zeros 32 then s else writeSlot 5 key.toList 0 none 0xE [.aqueduct] .expire 0 s) s) s)

/-! ### Handshake messages received (R302, R303) -/

/-- The peer's attestation keys by the chains of a message: eight certificates, each chain from the root of the block's own
chain, each certificate signed by its predecessor, the DeviceID key that of the neighbour (R280, R303; DEDUCED, assumption 112:
Uzovin's root is the one whose certificate the identity area holds). -/
def peerKeys (s : State) (l : LinkId) (chains : Bytes) : Option (Bytes × Bytes) :=
  match derSplit 8 chains with
  | some [c0, c1, c2, c3, p0, p1, p2, p3] =>
    if [c0] = (storedCerts s false).take 1 ∧ [p0] = (storedCerts s true).take 1 ∧ chainSigned [c0, c1, c2, c3] ∧ chainSigned [p0, p1, p2, p3]
        ∧ sha384 (Config.certificateKey c2) = (Config.peerDeviceId l).toList then
      some (Config.certificateKey c3, Config.certificateKey p3)
    else none
  | _ => none

def initHead : Nat := 1747
def respHead : Nat := 1696
def hybridBytes : Nat := 4723

/-- Chains and facts of an INIT. -/
def initChains (m : Bytes) : Bytes := (m.drop initHead).take (m.length - initHead - 104)

/-- The INIT meets R303. -/
def initOk (s : State) (l : LinkId) (c : Fin 9) (m : Bytes) : Bool :=
  decide (initHead + 104 ≤ m.length) && leAt m 33 1 == peerCode l c && slice m 35 48 == (Config.peerDeviceId l).toList
    && P384.good (slice m 83 96) && (peerKeys s l (initChains m)).isSome
    && factsOk s c s.link[l].chan[c].share (m.drop (m.length - 104))

/-- The responder answers an INIT: RESP, signed with the attestation key; the secret stands in the channel's record. -/
def sendResp (l : LinkId) (c : Fin 9) (m : Bytes) (s : State) : State :=
  let (nonce, s) := draw 32 s
  let (x, s) := draw 64 s
  let (rnd, s) := draw 32 s
  let d := P384.scalar x
  let shared := (P384.toBytes (P384.mul d (P384.ofBytes (slice m 83 96)))).take 48
  let (ct, k) := Config.mlkemEncaps (slice m 179 1568) rnd
  let r := nonce ++ P384.pub d ++ ct.toList ++ chainBytes s ++ linkFacts s c s.link[l].chan[c].share
  let (sig, s) := hybridSign 4 (sha384 (m ++ r)) s
  if !astWell s then refuse "INIT" Code.badState s
  else queueFrames l c (ctrlFrames 1 (r ++ sig)) (onChan l c (fun y =>
    { y with msgInit := m, msgResp := r ++ sig, ecdhKey := sha384 (shared ++ k.toList) }) s)

/-- Meridian can sign and verify: Astrolabe serves it now. A message that it cannot handle yet waits (R293, R302). -/
def canSign (s : State) : Bool := astReady s && s.ast.state != .faulted && s.eph.drbgOk && slotValid s 4

/-- A session number that fits COUNTER bits [94:64] and is greater than any accepted on the link since the start (R304). -/
def newSession (k : Link) (n : Nat) : Bool := decide (n < 2 ^ 31) && (match k.lastSession with
  | some m => decide (m < n)
  | none => true)

/-- INIT of a generation 1 session: a 4-byte session number (R304). -/
def gen1Init (l : LinkId) (msg : Bytes) (s : State) : State :=
  let k := s.link[l].chan[(8 : Fin 9)]
  let n := leAt msg 0 4
  if k.state = .handshake ∧ !k.gen2 ∧ !s.mer.halted ∧ k.responder ∧ slotValid s 5 ∧ newSession s.link[l] n then
    openChan l 8 (onChan l 8 (fun k => { k with session := n }) (s.onLink l fun k => { k with lastSession := some n }))
  else refuse "INIT" Code.badState s

/-- Windows that arrive count in the receiving direction (R297). -/
def countWindows (l : LinkId) (n : Nat) (s : State) : State :=
  s.onLink l fun k => { k with recvCount := (k.recvCount + n) % 16 }

/-- Windows of a message that arrives whole. -/
def countMessage (l : LinkId) (m : Bytes) (s : State) : State := countWindows l ((m.length + 895) / 896) s

/-- INIT at a channel: answered by its responder, else discarded. -/
def takeInit (l : LinkId) (m : Bytes) (s : State) : State :=
  if m.length = 4 then gen1Init l m s
  else match chanOfCode (leAt m 34 1) with
    | none => refuse "INIT" Code.badDescriptor s
    | some c =>
      let k := s.link[l].chan[c]
      if k.state ≠ .handshake ∨ !k.responder ∨ !k.gen2 ∨ k.msgInit ≠ [] ∨ !canSign s then refuse "INIT" Code.badState s
      else if initOk s l c m then sendResp l c m s
      else handshakeFailure l c s

/-- INIT arrives whole. -/
def execAqdInit (l : LinkId) (msg : Bytes) (s : State) : Out :=
  if !linkUp s l then .next (refuse "INIT" Code.badState s)
  else .next (takeInit l msg (countMessage l msg s))

/-- Both certificate chains of the peer hold, and their keys verify a hybrid signature of class 0x04 (R282, R303). -/
def peerSigned (l : LinkId) (chains digest sig : Bytes) (s : State) : Bool × State :=
  match peerKeys s l chains with
  | some (ak, pq) => hybridVerify ak pq 4 digest sig s
  | none => (false, s)

/-- RESP without its signature, and the signature. -/
def respSigned (m : Bytes) : Bytes := m.take (m.length - hybridBytes)
def respSig (m : Bytes) : Bytes := m.drop (m.length - hybridBytes)

/-- The certificate chains of RESP. -/
def respChains (m : Bytes) : Bytes :=
  let r := respSigned m
  (r.drop respHead).take (r.length - respHead - 104)

/-- The form and the facts of RESP (R303). -/
def respFormed (s : State) (c : Fin 9) (share : Nat) (m : Bytes) : Bool :=
  let r := respSigned m
  decide (respHead + 104 + hybridBytes ≤ m.length) && P384.good (slice m 32 96) && factsOk s c share (r.drop (r.length - 104))

/-- RESP meets R303: its signature is over INIT and what precedes it. -/
def respOk (l : LinkId) (c : Fin 9) (m : Bytes) (s : State) : Bool × State :=
  let k := s.link[l].chan[c]
  let r := peerSigned l (respChains m) (sha384 (k.msgInit ++ respSigned m)) (respSig m) s
  (r.1 && respFormed s c k.share m, r.2)

/-- The initiator's FIN is queued; with its last frame the channel opens (R301). -/
def sendFin (l : LinkId) (c : Fin 9) (m : Bytes) (s : State) : State :=
  let k := s.link[l].chan[c]
  let shared := (P384.toBytes (P384.mul (P384.scalar k.ecdhKey) (P384.ofBytes (slice m 32 96)))).take 48
  let kem := (Config.mlkemDecaps k.kemKey (slice m 128 1568)).toList
  let (fin, s) := hybridSign 4 (sha384 (k.msgInit ++ m)) s
  if !astWell s then refuse "RESP" Code.badState s
  else queueFrames l c (ctrlFrames 2 fin) (onChan l c (fun y =>
    { y with msgResp := m, msgFin := fin, ecdhKey := sha384 (shared ++ kem), kemKey := [] }) s)

/-- RESP arrives whole at the initiator. -/
def execAqdResp (l : LinkId) (c : Fin 9) (msg : Bytes) (s : State) : Out :=
  let k := s.link[l].chan[c]
  if !linkUp s l then .next (refuse "RESP" Code.badState s)
  else
    let s := countMessage l msg s
    if k.state ≠ .handshake ∨ k.responder ∨ !k.gen2 ∨ k.msgResp ≠ [] ∨ !canSign s then .next (refuse "RESP" Code.badState s)
    else
      let (ok, s) := respOk l c msg s
      .next (if ok then sendFin l c msg s else handshakeFailure l c s)

/-- FIN meets R303. -/
def finOk (l : LinkId) (c : Fin 9) (m : Bytes) (s : State) : Bool × State :=
  let k := s.link[l].chan[c]
  let r := peerSigned l (initChains k.msgInit) (sha384 (k.msgInit ++ k.msgResp)) m s
  (r.1 && chanReachUp s c, r.2)

/-- FIN arrives whole at the responder. -/
def execAqdFin (l : LinkId) (c : Fin 9) (msg : Bytes) (s : State) : Out :=
  let k := s.link[l].chan[c]
  if !linkUp s l then .next (refuse "FIN" Code.badState s)
  else
    let s := countMessage l msg s
    if k.state ≠ .handshake ∨ !k.responder ∨ !k.gen2 ∨ k.msgResp = [] ∨ !astReady s then .next (refuse "FIN" Code.badState s)
    else
      let (ok, s) := finOk l c msg s
      .next (if ok then
          openWithKeys l c k.ecdhKey (k.msgInit ++ k.msgResp ++ msg) false (leAt k.msgInit 32 1) k.peer (chanCode c) s
        else handshakeFailure l c s)

/-- HANDSHAKE_TIMEOUT: 2^26 link cycles without the next message (R301), which a halted Meridian does not handle (R386). -/
def execHandshakeTimeout (l : LinkId) (c : Fin 9) (s : State) : Out :=
  if s.link[l].chan[c].state = .handshake ∧ !s.mer.halted then .next (handshakeFailure l c s)
  else .next (refuse "HANDSHAKE_TIMEOUT" Code.badState s)

/-! ### Windows sent (R297, R299, R300, R305) -/

/-- The channel that owns the next window slot. -/
def windowChan (k : Link) : Fin 9 :=
  match fin? 9 (k.wheel.toList.getD (k.count % 16) 0xF) with
  | some c => c
  | none => 8

/-- Nothing to send: a CREDIT window where credits are owed, else a zero window. -/
def idleWindow (l : LinkId) (c : Fin 9) (s : State) : State :=
  let s := chrEvent (Chr.link l.val) 3 0xF 1 s
  if 0 < s.link[l].chan[c].owed then
    sendFrame l c { typ := FrameTyp.credit, seq := 0, offset := 0, payload := [] } s
  else emit (.window l (zeros 1024)) s

/-- The next key of a direction after a REKEY: the context is be32 of COUNTER bits [63:32] of the frame after it. The channel holds
back its frames until both sides have written the new key (R253, R305). -/
def nextChanKey (l : LinkId) (c : Fin 9) (recv : Bool) (ctr : Nat) (s : State) : State :=
  let old := slotKey s (chanKeySlot s l c recv)
  onChan l c (fun k => { k with rekeys := satInc 16 k.rekeys, rekeyHold := true })
    (writeChanKey l c recv (kdf old "GX24 AQD-REKEY" (beBytes 4 (ctr / 2 ^ 32)) 32) s)

/-- Last counter under a key: COUNTER bits [31:0] all ones. -/
def lastCounter (n : Nat) : Bool := n % 2 ^ 32 == 0xFFFFFFFF

/-- The initiator's last handshake frame has been sent: FIN, or a generation 1 session number (R301, R304). -/
def initiatorOpens (l : LinkId) (c : Fin 9) (f : OutFrame) (s : State) : State :=
  let k := s.link[l].chan[c]
  if k.state = .handshake ∧ !k.responder ∧ f.typ = FrameTyp.ctrl ∧ k.sendQ = [] then
    if !k.gen2 then openChan l c s
    else if k.msgFin ≠ [] then
      openWithKeys l c k.ecdhKey (k.msgInit ++ k.msgResp ++ k.msgFin) true l.val (chanCode c) k.peer s
    else s
  else s

/-- A frame leaves: one credit less where its type uses one, one exchange sent where it is the last of it. -/
def frameSent (l : LinkId) (c : Fin 9) (f : OutFrame) (s : State) : State :=
  let s := sendFrame l c f s
  let s := chrEvent (Chr.link l.val) 1 (chanOwner c) 1 s
  let s := onChan l c (fun k => { k with credits := if usesCredit f.typ then k.credits - 1 else k.credits }) s
  let s := match fin? 8 c.val with
    | some n =>
      if f.typ = FrameTyp.data ∧ s.link[l].xchg[n].len * 128 ≤ f.offset + f.payload.length then
        s.onLink l fun k => { k with xchg := upd k.xchg n fun x => { x with sent := (x.sent + 1) % 2 ^ 16 } }
      else s
    | none => s
  initiatorOpens l c f s

/-- A CLOSE window that waits takes the channel's window slot. -/
def sendClosing (l : LinkId) (c : Fin 9) (s : State) : State :=
  match s.link[l].chan[c].closing with
  | w :: _ => emit (.window l w) (chrEvent (Chr.link l.val) 1 (chanOwner c) 1
      (onChan l c (fun k => { k with closing := k.closing.drop 1 }) s))
  | [] => s

/-- The send key of a channel as its engine finds it: a use that R256 refuses as misuse is an alert, and one of a slot that is not
VALID sends nothing. -/
def sendKeyOk (l : LinkId) (c : Fin 9) (recv : Bool) (s : State) : Bool × State :=
  let i := chanKeySlot s l c recv
  if !slotValid s i then (false, s)
  else
    let (st, _, s) := useKey i .aqueduct (chanOwner c) s
    (st == Code.done, s)

/-- The frame at the head of a channel's queue, or what goes in its place. -/
def sendHead (l : LinkId) (c : Fin 9) (f : OutFrame) (s : State) : State :=
  let k := s.link[l].chan[c]
  let pop : State → State := onChan l c fun k => { k with sendQ := k.sendQ.drop 1 }
  if usesCredit f.typ && k.credits == 0 then idleWindow l c s
  else if frameSealed k f.typ then
    let (ok, s) := sendKeyOk l c false s
    if !ok then idleWindow l c (pop s)
    else if lastCounter k.sendCtr then
      if k.gen2 then
        nextChanKey l c false (k.sendCtr + 1)
          (frameSent l c { typ := FrameTyp.rekey, seq := 0, offset := 0, payload := [] } s)
      else beginHandshake l c (sendClosing l c (sendClose l c s))
    else frameSent l c f (pop s)
  else frameSent l c f (pop s)

/-- AQD_WINDOW_SLOT: one window of 32 flits in the sending direction. A CLOSE that waits goes first; after a REKEY only zero and
CREDIT windows go until `bothKeyed`: both sides have written the new key (R297, R305, R307). -/
def execAqdWindowSlot (l : LinkId) (s : State) (bothKeyed : Bool := true) : Out :=
  if !linkUp s l then .next (refuse "AQD_WINDOW_SLOT" Code.badState s)
  else
    let c := windowChan s.link[l]
    let s := s.onLink l fun k => { k with count := (k.count + 1) % 16 }
    let k := s.link[l].chan[c]
    if k.closing ≠ [] then .next (sendClosing l c s)
    else if k.rekeyHold ∧ !bothKeyed then .next (idleWindow l c s)
    else
      let s := onChan l c (fun k => { k with rekeyHold := false }) s
      match k.sendQ with
      | f :: _ => .next (sendHead l c f s)
      | [] => .next (idleWindow l c s)

/-! ### Windows received (R299, R300, R305 to R307) -/

/-- Credits returned by the peer. -/
def takeCredit (l : LinkId) (c : Fin 9) (n : Nat) (s : State) : State :=
  onChan l c (fun k => { k with credits := min (creditsOf k c) (k.credits + n) }) s

/-- A window of a channel: its type as expected, or for a sealed frame any that R300 does not list; the channel its DST names. A
sealed frame whose DST names none fails the channel of its sender (R307). -/
def onWindow (what : String) (l : LinkId) (typ : Nat) (strict : Bool) (win : Bytes) (f : Fin 9 → State → State) (s : State) : State :=
  let t := leAt win 0 1
  if !linkUp s l then refuse what Code.badState s
  else
    let s := countWindows l 1 s
    if win.length ≠ 1024 ∨ (t ≠ typ ∧ (strict || decide (t < 8))) then refuse what Code.badDescriptor s
    else match chanOfCode (leAt win 3 1) with
      | some c => f c s
      | none =>
        match if strict then none else
            (idxs 9).find? fun c => s.link[l].chan[c].state == .opened && s.link[l].chan[c].peer == leAt win 2 1 with
        | some c => channelFailure l c 2 s
        | none => refuse what Code.badDescriptor s

/-- What fails in a sealed frame before its tag is verified: TYPE, GEN, reserved bytes, COUNTER, a frame without a credit (R305,
R307); and a frame at the last counter that is no REKEY in generation 2 or no CLOSE in generation 1, a REKEY elsewhere, or
payload lines where the type has none (DEDUCED, assumption 113). -/
def seqFails (k : Chan) (c : Fin 9) (typ : Nat) (win : Bytes) : Bool :=
  let ctr := counterOf k k.recvCtr false
  let last := lastCounter k.recvCtr
  leAt win 0 1 != typ || leAt win 1 1 != (if k.gen2 then 2 else 1) || leAt win 2 1 != k.peer
    || slice win 18 2 != zeros 2 || slice win 28 4 != zeros 4 || decide (7 < leAt win 16 1) || decide (16 < leAt win 17 1)
    || beNat (slice win 4 12) != ctr
    || (typ != FrameTyp.close && (if k.gen2 then last != (typ == FrameTyp.rekey) else last))
    || (typ != FrameTyp.data && typ != FrameTyp.content && leAt win 16 1 != 0)
    || decide (creditsOf k c ≤ k.owed)

/-- Verify a sealed frame and release its payload, or fail its channel; one whose slot has been invalidated, or may not be used,
is discarded (R256, R307, R308). -/
def onSealed (what : String) (l : LinkId) (typ : Nat) (win : Bytes) (outside : Chan → Bool)
    (f : Fin 9 → Bytes → State → State) (s : State) : State :=
  onWindow what l typ false win (fun c s =>
    let k := s.link[l].chan[c]
    let (ok, s) := if k.state ≠ .opened ∨ !frameSealed k typ then (false, s) else sendKeyOk l c true s
    if !ok then refuse what Code.badState s
    else if seqFails k c typ win || outside k then channelFailure l c 2 s
    else
      let n := 128 * leAt win 16 1
      match gcmOpen (slotKey s (chanKeySlot s l c true)) (slice win 4 12) (slice win 0 32) (slice win 32 n) (slice win (32 + n) 16) with
      | none => channelFailure l c 1 s
      | some d =>
        let s := chrEvent (Chr.link l.val) 2 (chanOwner c) 1 (takeCredit l c (leAt win 17 1) s)
        f c d (onChan l c (fun k => { k with recvCtr := k.recvCtr + 1, owed := k.owed + 1 }) s)) s

/-- An OFFSET outside the exchange, or a frame of another exchange than the one being received (R306, R307). -/
def dataOutside (s : State) (l : LinkId) (win : Bytes) (c : Nat) : Bool :=
  match fin? 8 c with
  | none => true
  | some n =>
    let x := s.link[l].xchg[n]
    let off := leAt win 24 4
    !x.en || leAt win 20 4 != x.released % 2 ^ 32 || off % 128 != 0 || leAt win 16 1 == 0 || decide (x.len * 128 < off + 128 * leAt win 16 1)

/-- DATA: written to the RX area; the exchange is released by its last frame (R306). -/
def takeData (l : LinkId) (win : Bytes) (c : Fin 9) (d : Bytes) (s : State) : State :=
  match fin? 8 c.val with
  | none => s
  | some n =>
    let x := s.link[l].xchg[n]
    let off := leAt win 24 4
    let s := sharePut s (svcOf n) (x.rx + off) d
    if x.len * 128 ≤ off + d.length then s.onLink l fun k => { k with xchg := upd k.xchg n fun x => { x with released := x.released + 1 } } else s

def execAqdData (l : LinkId) (window : Bytes) (s : State) : Out :=
  .next (onSealed "DATA" l FrameTyp.data window (fun _ => dataOutside s l window (leAt window 3 1)) (takeData l window) s)

/-- XACK: the exchange that waits for it may be sent (R306). -/
def takeXack (l : LinkId) (win : Bytes) (c : Fin 9) (s : State) : State :=
  match fin? 8 c.val with
  | none => s
  | some n => pumpExchange l n (onChan l c (fun k => { k with xackRecvd := max k.xackRecvd (leAt win 20 4 + 1) }) s)

def execAqdXack (l : LinkId) (window : Bytes) (s : State) : Out :=
  .next (onSealed "XACK" l FrameTyp.xack window (fun _ => false) (fun c _ => takeXack l window c) s)

def execAqdRekey (l : LinkId) (window : Bytes) (s : State) : Out :=
  .next (onSealed "REKEY" l FrameTyp.rekey window (fun k => !k.gen2)
    (fun c _ s => nextChanKey l c true s.link[l].chan[c].recvCtr s) s)

/-- CLOSE: the channel closes as by a failure of its own, without an alert; which failure AQD_ERR counts the frame does not say, so
it is an open value (assumption 114). A generation 1 session at its last counter is followed by a new one, and is no failure
(R301, R305, R307). -/
def takeClose (l : LinkId) (c : Fin 9) (s : State) : State :=
  let k := s.link[l].chan[c]
  let s := linkRequests c (closeChan l c s)
  if !k.gen2 && lastCounter (k.recvCtr - 1) then beginHandshake l c s
  else countFailure l c (1 + (Config.freeWord s.freeCtr).toNat % 3) { s with freeCtr := s.freeCtr + 1 }

def execAqdClose (l : LinkId) (window : Bytes) (s : State) : Out :=
  .next (onSealed "CLOSE" l FrameTyp.close window (fun _ => false) (fun c _ => takeClose l c) s)

/-- CREDIT, with no payload line: frame credits come back on an OPEN channel, or on one that STC_PUSH sends on (R300, R343). -/
def execAqdCredit (l : LinkId) (window : Bytes) (s : State) : Out :=
  .next (onWindow "CREDIT" l FrameTyp.credit true window (fun c s =>
    let k := s.link[l].chan[c]
    if leAt window 16 1 ≠ 0 then refuse "CREDIT" Code.badDescriptor s
    else if k.state = .opened ∨ (c.val = 8 ∧ k.sendQ ≠ []) then takeCredit l c (min 16 (leAt window 17 1)) s
    else refuse "CREDIT" Code.badState s) s)

/-- A stream's last piece without the padding of its last line. -/
def trimPiece (s : State) (offset : Nat) (d : Bytes) : Bytes :=
  match s.stc.job with
  | some j =>
    let all := j.recvd ++ d
    if offset = j.recvd.length ∧ manifestBytes ≤ all.length ∧ streamTotal j.drydock all < all.length ∧ all.length < streamTotal j.drydock all + 128 then
      d.take (streamTotal j.drydock all - j.recvd.length)
    else d
  | none => d

/-- Content of the Meridian channel: an ACK from downstream, or, in generation 2, a piece of a stream or the abort of one (R338 to
R343). -/
def takeContent (l : LinkId) (win d : Bytes) (s : State) : State :=
  let seq := leAt win 20 4
  let off := leAt win 24 4
  if isAck d then relayAck (d.take 64) s
  else if !s.link[l].chan[(8 : Fin 9)].gen2 then refuse "PUBLIC" Code.badState s
  else if d.isEmpty then
    (if s.stc.job.any fun j => j.route == .link l && j.number == seq then abortStream s else refuse "PUBLIC" Code.badState s)
  else (streamPiece (.link l) (s.mer.phase == .drydock) (some seq) off (trimPiece s off d) s).2

/-- PUBLIC: in FULL on an OPEN Meridian channel, in generation 1 sealed under slot 5; in Drydock without a session. -/
def execAqdPublic (l : LinkId) (window : Bytes) (s : State) : Out :=
  let k := s.link[l].chan[(8 : Fin 9)]
  if k.state = .opened ∧ !k.gen2 then
    if s.mer.phase = .full then
      .next (onSealed "PUBLIC" l FrameTyp.content window (fun _ => false) (fun _ d => takeContent l window d) s)
    else .next (refuse "PUBLIC" Code.badState s)
  else
    .next (onWindow "PUBLIC" l FrameTyp.content true window (fun c s =>
      let d := slice window 32 (128 * min 7 (leAt window 16 1))
      let drydock := s.mer.phase == .drydock
      if c.val ≠ 8 ∨ leAt window 1 1 ≠ 2 ∨ !(drydock || (s.mer.phase == .full && k.state == .opened)) then
        refuse "PUBLIC" Code.badState s
      else
        let s := onChan l 8 (fun k =>
          { k with owed := k.owed + 1, gen2 := true, peer := if drydock then 0x0E else k.peer }) s
        takeContent l window d (takeCredit l 8 (min 16 (leAt window 17 1)) s)) s)

/-- A zero window brings nothing, and is counted (R297). -/
def execAqdZero (l : LinkId) (_window : Bytes) (s : State) : Out :=
  if linkUp s l then .next (countWindows l 1 s) else .next (refuse "ZERO" Code.badState s)

/-- CREDIT_TIMEOUT: the first frame of a channel has waited 2^24 link cycles for a credit (R307). -/
def execCreditTimeout (l : LinkId) (c : Fin 9) (s : State) : Out :=
  let k := s.link[l].chan[c]
  if k.state = .opened ∧ k.credits = 0 ∧ (k.sendQ.head?.any fun f => usesCredit f.typ) then .next (channelFailure l c 3 s)
  else .next (refuse "CREDIT_TIMEOUT" Code.badState s)

/-! ### The transport (R298, R307, R308) -/

/-- TRANSPORT_READY_DROP: OPEN channels fail, a handshake closes without alert. -/
def execTransportReadyDrop (l : LinkId) (s : State) : Out :=
  if s.link[l].ready then
    let s := s.onLink l fun k => { k with ready := false }
    .next (forAll (idxs 9) (fun c s =>
      match s.link[l].chan[c].state with
      | .opened => channelFailure l c 4 s
      | .handshake => onChan l c (fun k => { share := k.share }) s
      | .closed => onChan l c (fun k => { k with closing := [] }) s) s)
  else .next (refuse "TRANSPORT_READY_DROP" Code.badState s)

/-- TRANSPORT_READY_RISE. -/
def execTransportReadyRise (l : LinkId) (s : State) : Out :=
  if s.link[l].ready then .next (refuse "TRANSPORT_READY_RISE" Code.badState s)
  else .next (s.onLink l fun k => { k with ready := true })

end Sys2Proof.Machine
end

