-- ==== Sys2Proof/Machine/Astrolabe.lean ====
section
/-! DEFINITION. Meanings of Astrolabe's commands and transfers (R263 to R278, R395). -/

namespace Sys2Proof.Machine

/-- A refused command: its status stands in AST_RESULT_HDR unless another runs (R264, R278). -/
def astRefuse (what : String) (st : Nat) (s : State) : State :=
  refuse what st (if astBusy s.ast then s
    else s.onAst fun a => { a with resStatus := st, resLength := 0, resVerdict := false })

/-- The mnemonic of an operation's row. -/
def AstOp.name : AstOp → String
  | .p384Verify => "P384_VERIFY"
  | .p384Sign => "P384_SIGN"
  | .p384Keygen => "P384_KEYGEN"
  | .p384Ecdh => "P384_ECDH"
  | .ed25519Verify => "ED25519_VERIFY"
  | .rsa4096Verify => "RSA4096_VERIFY"
  | .rsa4096Crt => "RSA4096_CRT"
  | .mlkemKeygen => "MLKEM_KEYGEN"
  | .mlkemEncaps => "MLKEM_ENCAPS"
  | .mlkemDecaps => "MLKEM_DECAPS"
  | .mldsaKeygen => "MLDSA_KEYGEN"
  | .mldsaSign => "MLDSA_SIGN"
  | .mldsaVerify => "MLDSA_VERIFY"
  | .selftest => "SELFTEST"

/-- Operations by OP code, ABORT apart (R265). -/
def astOpOf (op : Nat) : Option AstOp :=
  if op = 0x3E then some .selftest
  else if op = 0 then none
  else [AstOp.p384Verify, .p384Sign, .p384Keygen, .p384Ecdh, .ed25519Verify, .rsa4096Verify, .rsa4096Crt, .mlkemKeygen,
    .mlkemEncaps, .mlkemDecaps, .mldsaKeygen, .mldsaSign, .mldsaVerify][op - 1]?

/-- The label that AST_CMD_ARG gives an operation with a choice of seeds (R269). -/
def seedLabel (op : AstOp) (a : Astrolabe) : Option Nat :=
  if a.argSeed ∧ (op = .p384Keygen ∨ op = .mldsaKeygen) then some a.argLabel else none

/-- A write of AST_CMD by OP code: it begins, or is refused; any other code is BAD_DESCRIPTOR, and everything but three classes
BAD_STATE while the program store is not loaded. ABORT is taken idle or not, but while FAULTED, and during the SELFTEST that
Astrolabe runs on its own (R263 to R265, R269, R272, R275). -/
def astCmd (op owner keyline : Nat) (s : State) : State :=
  let a := s.ast
  if !securityUp s then refuse "AST_CMD" Code.badState s
  else if op = 0x3F then
    if a.state = .faulted ∨ a.job = some ownSelftest ∨ !a.progLoaded then astRefuse "ABORT" Code.badState s else astAbort s
  else
    match astOpOf op with
    | none => astRefuse "AST_CMD" (if a.state = .faulted ∨ astBusy a ∨ !a.progLoaded then Code.badState else Code.badDescriptor) s
    | some o =>
      let slot := Fin.ofNat 256 a.argSlot
      match astRefusal o owner keyline (seedLabel o a) s with
      | some st => astRefuse o.name st s
      | none => astBegin o owner keyline (seedLabel o a) slot s

/-- A write of AST_CMD_ARG (R278). -/
def astArg (seedSrc : Bool) (label : Nat) (slot : SlotId) (s : State) : State :=
  if securityUp s then s.onAst fun a => { a with argSeed := seedSrc, argLabel := label, argSlot := slot.val } else s

def execP384Verify (owner keyline : Nat) (s : State) : Out := .next (astCmd 0x01 owner keyline s)
def execP384Sign (owner keyline : Nat) (s : State) : Out := .next (astCmd 0x02 owner keyline s)

/-- P384_KEYGEN: the seed from CTR_DRBG, or evaluated from a slot under a label, as AST_CMD_ARG has been written (R269). -/
def execP384Keygen (owner keyline : Nat) (seedSrc : Bool) (label : BitVec 4) (slot : SlotId) (s : State) : Out :=
  .next (astCmd 0x03 owner keyline (astArg seedSrc label.toNat slot s))

def execP384Ecdh (owner keyline : Nat) (s : State) : Out := .next (astCmd 0x04 owner keyline s)
def execEd25519Verify (owner keyline : Nat) (s : State) : Out := .next (astCmd 0x05 owner keyline s)
def execRsa4096Verify (owner keyline : Nat) (s : State) : Out := .next (astCmd 0x06 owner keyline s)
def execRsa4096Crt (owner keyline : Nat) (s : State) : Out := .next (astCmd 0x07 owner keyline s)
def execMlkemKeygen (owner keyline : Nat) (s : State) : Out := .next (astCmd 0x08 owner keyline s)
def execMlkemEncaps (owner keyline : Nat) (s : State) : Out := .next (astCmd 0x09 owner keyline s)
def execMlkemDecaps (owner keyline : Nat) (s : State) : Out := .next (astCmd 0x0A owner keyline s)

def execMldsaKeygen (owner keyline : Nat) (seedSrc : Bool) (label : BitVec 4) (slot : SlotId) (s : State) : Out :=
  .next (astCmd 0x0B owner keyline (astArg seedSrc label.toNat slot s))

def execMldsaSign (owner keyline : Nat) (s : State) : Out := .next (astCmd 0x0C owner keyline s)
def execMldsaVerify (owner keyline : Nat) (s : State) : Out := .next (astCmd 0x0D owner keyline s)
def execSelftest (owner : Nat) (s : State) : Out := .next (astCmd 0x3E owner 0 s)
def execAbort (s : State) : Out := .next (astCmd 0x3F 0 0 s)

/-- ASTROLABE_OP_DONE: the running operation ends; `invariantHolds` is the outcome of its checks, `selftestPasses` that of a
SELFTEST; `parityError` says that an error in the program store ended it as an abort (R262, R265, R272). -/
def execAstrolabeOpDone (invariantHolds selftestPasses parityError : Bool) (s : State) : Out :=
  if s.ast.job.isSome then .next (if parityError then parityFault s else astEnd invariantHolds selftestPasses s)
  else .next (refuse "ASTROLABE_OP_DONE" Code.badState s)

/-- ASTROLABE_SELFTEST_DUE: Astrolabe is idle and the last SELFTEST is 14,400 s old; the owner stays (R395). -/
def execAstrolabeSelftestDue (s : State) : Out :=
  let owner := if astOwnerOk s.ast.owner then s.ast.owner else 0xE
  if securityUp s && !astBusy s.ast && s.ast.state != .faulted
      && waited (secPs s) s.ast.selftestAt (14400 * secondPs) then
    .next (astBegin .selftest owner 0 none 0 s)
  else .next (refuse "ASTROLABE_SELFTEST_DUE" Code.badState s)

/-! ### Transfers (R273) -/

/-- Lines of the area a transfer moves in: input or result. -/
def dmaArea (out : Bool) : Nat := if out then 128 else 384

/-- Why a transfer is refused. -/
def dmaBad (out boot : Bool) (line count addr owner : Nat) (s : State) : Option Nat :=
  if astBusy s.ast ∨ s.ast.state = .faulted then some Code.badState
  else if count < 1 ∨ 384 < count ∨ dmaArea out < line + count ∨ !astOwnerOk owner then some Code.badDescriptor
  else if !(boot && !out) && !(decide (0x80000 ≤ addr) && decide (addr + 64 * count ≤ 0x100000)) then some Code.badDescriptor
  else none

/-- A write of AST_DMA_ADDR and AST_DMA_CTL without GO; the fields stand while a transfer runs (R278). -/
def dmaRegs (a : Nat) (dirOut bootStream : Bool) (line count owner : Nat) (s : State) : State :=
  if astBusy s.ast then s
  else s.onAst fun x =>
    { x with dmaAddr := a, dmaOut := dirOut, dmaBoot := bootStream, dmaLine := line, dmaCount := count, dmaOwner := owner }

/-- AST_DMA: a write with the fields of AST_DMA_ADDR and AST_DMA_CTL, which GO makes start the transfer; `storeAddr` is where
Meridian has begun to read the Boot Store. -/
def execAstDma (addr : Word) (dirOut bootStream : Bool) (line count owner storeAddr : Nat) (s : State) (go : Bool := true) : Out :=
  let a := addr.toNat / 64 * 64
  if !securityUp s then .next (refuse "AST_DMA" Code.badState s)
  else
    let regs := dmaRegs a dirOut bootStream line count owner s
    if !go then .next regs
    else match dmaBad dirOut bootStream line count a owner s with
      | some st => .next (refuse "AST_DMA" st (if astBusy s.ast then s else regs.onAst fun x => { x with dmaStatus := st }))
      | none =>
        .next ((astTake owner regs).onAst fun x =>
          { x with
            dma := some { out := dirOut, line, count, addr := a, storeAddr, bootStream := bootStream && !dirOut }, state := .running })

/-- AST_DMA_DONE: the lines are moved. -/
def execAstDmaDone (s : State) : Out :=
  match s.ast.dma with
  | none => .next (refuse "AST_DMA_DONE" Code.badState s)
  | some d =>
    let n := 64 * d.count
    let s := if d.out then
        s.onMer fun m => { m with sram := memPut m.sram d.addr (memBytes s.ast.mem (astResult + 64 * d.line) n) }
      else
        let src := if d.bootStream then (List.range n).map fun i => storeByte s.stc (d.storeAddr + i) else memBytes s.mer.sram d.addr n
        s.onAst fun a => { a with mem := memPut a.mem (astInput + 64 * d.line) src }
    .next (s.onAst fun a => { a with dma := none, dmaStatus := Code.done, state := .idle })

end Sys2Proof.Machine
end

