-- ==== Sys2Proof/Machine/BargeLife.lean ====
section
/-! DEFINITION. Meanings of the events of barges, Basin units and reach Dredges (R95, R96, R99 to R102, R105, R136, R161, R171). -/

namespace Sys2Proof.Machine

/-! ### Faults (R81, R95, R96) -/

/-- A fault can be detected in the barge (R81). -/
def faultable (g : Barge) : Bool := g.role == .active || g.role == .spare || g.role == .underTest || g.role == .twilight

/-- BARGE_WATCHDOG: a step has run for 2^27 arith cycles without its step-done token; its clock runs (R95, R365). -/
def execBargeWatchdog (b : BargeId) (s : State) : Out :=
  if s.barge[b].run = .step ∧ faultable s.barge[b] ∧ bargeRuns s b then .next (bargeFault b .watchdog s)
  else .next (refuse "BARGE_WATCHDOG" Code.badState s)

/-- BARGE_FAULT of any cause but a slice's, which its signature comparison declares (R81, R96, R102). -/
def execBargeFault (b : BargeId) (cause : BargeCause) (s : State) : Out :=
  if faultable s.barge[b] ∧ cause ≠ .sliceSignature then .next (settleKeep (bargeFault b cause s))
  else .next (refuse "BARGE_FAULT" Code.badState s)

/-! ### Migration (R99) -/

/-- A migration of a barge can begin: Collimator asked for it and its reach is between two lock cycles. -/
def canMigrate (s : State) (b : BargeId) : Bool :=
  let g := s.barge[b]
  s.col.asked == some b && g.role == .active && !g.migrating && !g.dredging
    && (match fin? 8 g.reach with
      | some n => !stepRunning s (svcOf n) && s.keeper[svcOf n].resuming.isEmpty && s.reach[n].dredge == .none
        && !s.reach[n].restage
      | none => false)

/-- Meridian writes epoch, REACH and LOGICAL to the destination and MIGRATING to both barges. -/
def startMigration (b d : BargeId) (s : State) : State :=
  let g := s.barge[b]
  let s := s.onBarge d fun x =>
    { x with role := .active, reach := g.reach, logical := g.logical, epoch := g.epoch, cleared := false, migrating := true,
             migDest := true, partner := some b }
  clockBarge d (s.onBarge b fun x => { x with migrating := true, migDest := false, partner := some d })

/-- MIGRATION_START (R99). A reach that has begun to doze has its barge tested in place (R397); with no SPARE barge left the
test is postponed (R398). -/
def execMigrationStart (b : BargeId) (s : State) : Out :=
  if !canMigrate s b then .next (refuse "MIGRATION_START" Code.badState s)
  else if ownerDozes s b then .next (beginTest b (s.onCol fun c => { c with asked := none }))
  else
    match chooseSpare s with
    | some d => .next (startMigration b d s)
    | none => .next (s.onCol fun c => { c with asked := none, first := some b, skipped := satInc 8 c.skipped })

/-- What steps 2 and 3 of R99 copy: scratchpad, counters and sequencer state. -/
def copiedState (src dst : Barge) : Barge :=
  { dst with
    spad := src.spad, tokens := src.tokens, credits := src.credits, limits := src.limits, sregs := src.sregs
    loops := src.loops, pc := src.pc, cycle := src.cycle }

/-- The source's Chronograph counters and their configurations (R405). -/
def copyCounters (b d : BargeId) (s : State) : State :=
  match fin? 71 b.val with
  | some u => onUnit d.val (fun x =>
      { x with cycles := s.chr.unit[u].cycles, cyclesOvf := s.chr.unit[u].cyclesOvf, partialWin := true, prog := s.chr.unit[u].prog }) s
  | none => s

/-- The copy and the repointing of R99; a program that waits for the migration's end begins on the destination (R120). -/
def migrate (b d : BargeId) (s : State) : State :=
  let g := s.barge[b]
  let s := copyCounters b d s
  let s := s.onBarge d fun x => { copiedState g x with migrating := false, migDest := false, partner := none }
  let s := s.onBarge b fun x =>
    { x with role := .underTest, reach := 0xF, logical := 0x3F, epoch := 0, cleared := false, migrating := false, partner := none }
  let s := beginTest b (s.onCol fun c => { c with asked := none })
  match svcOfBarge g with
  | none => s
  | some r =>
    if b ∈ s.keeper[r].resuming then
      resumeBarge r d (s.onKeeper r fun k => { k with resuming := k.resuming.filter (· != b), refused := k.refused.filter (· != b) })
    else s

/-- MIGRATION_COMPLETE: the logical index moves to the destination and the source is under test (R99, R397); not while an entry
of the source is in a crossing (R24). A word that the copy cannot correct is the source's fault (R90). -/
def execMigrationComplete (b : BargeId) (s : State) : Out :=
  let g := s.barge[b]
  match g.partner with
  | none => .next (refuse "MIGRATION_COMPLETE" Code.badState s)
  | some d =>
    if g.migrating && !g.migDest && s.barge[d].migDest && !(s.flight.any (Msg.touches b)) then
      let (ok, s) := readSpad b 0 spadBytes s
      .next (if ok then migrate b d s else settlePick s)
    else .next (refuse "MIGRATION_COMPLETE" Code.badState s)

/-! ### Dredges (R105, R136, R161, R171) -/

/-- BARGE_DREDGE_COMPLETE; not while a slice isolates the barge (R104, R105, R394). -/
def execBargeDredgeComplete (b : BargeId) (s : State) : Out :=
  if s.barge[b].dredging ∧ s.col.barge ≠ some b then .next (settlePick (drainFills (bargeDredged b s)))
  else .next (refuse "BARGE_DREDGE_COMPLETE" Code.badState s)

/-- The reach's requests end and its share is to be Dredged and staged afresh (R136). -/
def restageReach (n : ReachId) (s : State) : State :=
  let r := svcOf n
  let s := if stepRunning s r then endStep r Code.memUncorrectable none s
    else dropInputRequests r (s.onKeeper r fun k => { k with form := none })
  let s := endReqs r (fun _ => true) Code.memUncorrectable s
  checkDrained r (s.onReach n fun x => { x with restage := x.dredge == .none })

/-- BASIN_UNIT_EPOCH_LOST: a unit's epoch becomes 0 by a reset of its island (R135, R136). -/
def execBasinUnitEpochLost (u : Fin 8) (s : State) : Out :=
  let x := s.basin.units[u]
  if x.owner = 0xF then .next (refuse "BASIN_UNIT_EPOCH_LOST" Code.badState s)
  else
    let s := s.onBasin fun b => { b with units := upd b.units u fun y => { y with epoch := 0, cleared := false } }
    match fin? 8 x.owner with
    | some n =>
      if s.reach[n].state = .sealed ∨ s.reach[n].state = .draining then .next (restageReach n s) else .next s
    | none => .next s

/-- The units of a reach are zero, its queues and tag lines empty (R161). -/
def clearShare (n : ReachId) (s : State) : State := forAll s.reach[n].units clearUnit (discardPorts (svcOf n) s)

/-- BASIN_DREDGE_COMPLETE: of a reach's Dredge, or of its restaging, after which INIT runs on every logical barge (R136). -/
def execBasinDredgeComplete (r : SvcId) (s : State) : Out :=
  match reachOf? r with
  | none => .next (refuse "BASIN_DREDGE_COMPLETE" Code.badState s)
  | some n =>
    if s.reach[n].dredge ≠ .none then .next (settleSpill (clearShare n s))
    else if s.reach[n].restage then
      let e := s.reach[n].epoch
      let s := clearShare n s
      .next (runOnAll r .init (forAll s.reach[n].units (fun u => setUnitEpoch u e) s))
    else .next (refuse "BASIN_DREDGE_COMPLETE" Code.badState s)

/-- REACH_DREDGE_COMPLETE: EMPTY, or LOADING with a new epoch (R168, R171, R173), once Meridian is not halted (R386). -/
def execReachDredgeComplete (n : ReachId) (s : State) : Out :=
  if s.reach[n].dredge = .none ∨ s.mer.halted then .next (refuse "REACH_DREDGE_COMPLETE" Code.badState s)
  else .next (settleKeep (settlePick (settleSpill (drainFills (reachDredged n s)))))

end Sys2Proof.Machine
end

