-- ==== Sys2Proof/Machine/Boot.lean ====
section
/-! DEFINITION. Meanings of the pin, reset and start commands (R223 to R227, R236, R396, R412 to R423). -/

namespace Sys2Proof.Machine

/-- POR_N_ASSERT: every island is reset at once, with no Dredge (R418). -/
def execPorNAssert (s : State) (recordCut : Bool := false) : Out :=
  if s.pins.porN then .next (porBlock recordCut s) else .next (refuse "POR_N_ASSERT" Code.badState s)

/-- The default voltage of a rail at power-up (R414). -/
def railDefault (s : State) (r : Fin 6) : Nat :=
  match r.val with
  | 0 => 700
  | 4 => s.params.vddPortMv
  | 5 => 0
  | _ => 750

/-- One request per rail to confirm its default (R418). -/
def confirmRail (r : Fin 6) (s : State) : State :=
  let mv := railDefault s r
  let x : Rail := { targetMv := mv, on := r != 5, settled := false, fault := false, heldMv := mv }
  emit (.power r (r != 5) mv) (s.onSlu fun u => { u with rail := put u.rail r x })

/-- POR_N_RELEASE: island 61 leaves reset, the rails are confirmed and a start begins (R224, R418). -/
def execPorNRelease (s : State) : Out :=
  if s.pins.porN then .next (refuse "POR_N_RELEASE" Code.badState s)
  else
    let s := { s with pins := { s.pins with porN := true }, windows := 0 }
    let s := powerIsl 61 200 false s
    .next (startIfFree (forAll (idxs 6) confirmRail s))

/-- SYS_RST_N_ASSERT: the reset of R419; a pulse shorter than 4 ref_clk cycles is ignored. In OFF it has no effect (R423),
nor after a third security restart, whose HALTED lasts until por_n (R223). -/
def execSysRstNAssert (refCycles : Nat) (s : State) : Out :=
  if refCycles < 4 then .next s
  else
    let s := { s with pins := { s.pins with sysRstN := false } }
    if s.pins.porN && s.slu.state != .off && s.mer.lockstep != 3 then .next (enterReset Code.systemReset s) else .next s

/-- SYS_RST_N_RELEASE: the start of R224 begins (R419). -/
def execSysRstNRelease (s : State) : Out :=
  if s.pins.sysRstN then .next (refuse "SYS_RST_N_RELEASE" Code.badState s)
  else .next (startIfFree { s with pins := { s.pins with sysRstN := true } })

/-- REF_CLOCK_LOSS: the block acts as under R419 and stays in reset; its record carries REF_CLOCK_LOSS (R420). -/
def execRefClockLoss (s : State) : Out :=
  if s.pins.refClkOk then
    let s := { s with pins := { s.pins with refClkOk := false } }
    if s.pins.porN && s.slu.state != .off && s.mer.lockstep != 3 then .next (enterReset Code.refClockLoss s) else .next s
  else .next (refuse "REF_CLOCK_LOSS" Code.badState s)

/-- REF_CLOCK_RESTORED: 1,000 cycles within tolerance; the windows' origin is new and a start begins (R15, R420). -/
def execRefClockRestored (s : State) : Out :=
  if s.pins.refClkOk then .next (refuse "REF_CLOCK_RESTORED" Code.badState s)
  else .next (startIfFree { s with pins := { s.pins with refClkOk := true }, windows := 0 })

/-- TAMPER: an input that has been low for `sluiceCycles` sluice cycles; 0 says that it is high again. It counts when its
mask bit is 1 and it has been low for 3 cycles, with por_n high and not in OFF; in KEEP the islands of the Dredge are clocked (R260, R372, R422). -/
def execTamper (input : Fin 4) (sluiceCycles : Nat) (s : State) : Out :=
  let level := fun (v : Bool) => { s with pins := { s.pins with
    tamperN := if v then s.pins.tamperN ||| BitVec.ofNat 4 (2 ^ input.val)
      else s.pins.tamperN &&& ~~~(BitVec.ofNat 4 (2 ^ input.val)) } }
  if sluiceCycles = 0 then .next (level true)
  else if sluiceCycles < 3 || !s.params.tamperMask.getLsbD input.val then .next s
  else if !s.pins.porN || s.slu.state == .off then .next (level false)
  else
    .next (tamperClocks (tamperResponse (alert Code.tamper AlertUnit.sluice 61 0xFF 0xFFFF 0 (level false))))

/-- SECURITY_RESTART (R223), while the security island runs and its cores have not stopped until por_n. -/
def execSecurityRestart (_cause : RestartCause) (s : State) : Out :=
  if s.mer.lockstep = 3 || !securityUp s then .next (refuse "SECURITY_RESTART" Code.badState s)
  else .next (securityRestart s)

/-- Step 2 decided (R226): HALTED, PROVISION, or the start goes on with the cause it will stop in, if any. -/
def afterAlmanac (s : State) : State :=
  let lc := s.alm.lc
  let s := s.onMer fun m =>
    { m with
      lc := lc.getD .blank, lcMarginal := lc.isNone, lcUndecided := lc.isNone
      stopCause := if lc.isNone then some Code.almMarginal
        else if s.alm.part 3 = .lockedInvalid then some Code.almLockedInvalid
        else if s.alm.part 1 = .lockedInvalid then some Code.almLockedInvalid
        else if s.eph.tamper then some Code.tamper else none }
  let s := s.onEye fun e => { e with tapUnlocked := lc == some .blank || lc == some .test }
  match lc with
  | some .scrap => s.onMer fun m => { m with phase := .halted, step := .done }
  | some .blank => s.onMer fun m => { m with phase := .provision, step := .done }
  | _ => selectSlot (s.onMer fun m => { m with phase := .verify })

/-- ALMANAC_FULL_READ: step 2 of a start, then slot selection (R226, R315, R318, R328, R336). -/
def execAlmanacFullRead (marginal spareMarginal : List Nat) (s : State) : Out :=
  if s.mer.step ≠ .almanac ∨ s.mer.halted then .next (refuse "ALMANAC_FULL_READ" Code.badState s)
  else
    let s := s.onAlm fun a =>
      let a := { a with
        marginal := (marginal.eraseDups).filter (· < 2048), spareMarginal := (spareMarginal.eraseDups).filter (· < 64)
        counters := Vector.replicate 8 0, readAt := secPs s }
      let a := a.decode.features
      { a with everLcMarginal := a.lc.isNone, everRootsMarginal := a.rootsMarginal }
    let s := syncRail 5 (almNext (measureAlmanac s))
    let s := if s.alm.marginalWords.isEmpty then s else almAlert Code.almMarginal s
    let s := if s.alm.parts.toList.any (· == .lockedInvalid) then almAlert Code.almLockedInvalid s else s
    .next (afterAlmanac (enableLinks (disableBarges s)))

/-- FIRMWARE_SET_LOADED: step 5; the set's digest has matched in step 4, and its components go into their stores, the barges'
microcode when the quick pass has passed them (R227, R228, R229, R347). -/
def execFirmwareSetLoaded (s : State) : Out :=
  if s.mer.step ≠ .slotChosen ∨ s.mer.halted then .next (refuse "FIRMWARE_SET_LOADED" Code.badState s)
  else
    let x := bootedSlot s
    let ds := (List.range 5).map fun i => sha384 (component x i)
    let s := (List.range 5).foldl (fun s i => extend ⟨3 + i % 5, by omega⟩ (ds.getD i []) s) s
    let vs := (List.range 5).map fun i => leAt x.manifest (160 + 2 * i) 2
    let store : Nat → Mem := fun i => memPut [] 0 (component x i)
    let s := s.onMer fun m =>
      { m with fwDigest := ds, fwVersions := vs, step := .firmware, sram := memPut m.sram 0 (component x 0) }
    let s := s.onAst fun a => { a with progLoaded := true, progVersion := vs.getD 3 0, prog := store 3 }
    let s := { s with
      keeper := vmap (fun (k : Keeper) => { k with core := .reset, istore := store 1 }) s.keeper
      slu := { s.slu with bootRom := false, istore := store 4 } }
    .next (checkWait (loadMicrocode (bindAll s)))

/-- QUICK_PASS_END: step 3; `fails` names an island and its first failing slice (R81, R226, R229, R396). -/
def execQuickPassEnd (fails : List (Nat × Nat)) (s : State) : Out :=
  if s.col.quickDone || s.mer.step == .held || s.mer.step == .almanac then .next (refuse "QUICK_PASS_END" Code.badState s)
  else
    let failed : Nat → Option Nat := fun i => (fails.find? fun f => f.1 == i).map (·.2)
    let s := s.onCol fun c =>
      { c with
        quickDone := true
        quickAt := testPs s
        islNext := tab 64 fun i => dueCount s i
        bargeInfo := vmapIdx (fun (b : Fin 34) (x : ColInfo) => match failed b.val with
          | some k => { x with failSlice := k, failed := true }
          | none => { x with passAt := some (testPs s), passSec := secPs s }) c.bargeInfo
        isl := vmapIdx (fun (i : Fin 64) (x : ColInfo) => match failed i.val with
          | some k => { x with failSlice := k, failed := true }
          | none => { x with passAt := some (testPs s), passSec := secPs s }) c.isl }
    let s := extend 9 (Config.stateDigest 9 ((List.range 64).map fun i => if (failed i).isSome then 0 else 1)).toList s
    let bad := (idxs 34).filter fun b => (failed b.val).isSome && s.barge[b].role == .unassigned
    let s := forAll bad (fun b s => failBarge b (recordFault b .sliceSignature s)) s
    let other := (List.range 64).filter fun i => 34 ≤ i && (failed i).isSome
    let s := forAll other (fun i s => alert Code.selftestFail AlertUnit.collimator i 0xFF 0xFFFF 0 s) s
    let s := s.onMer fun m =>
      if other.isEmpty || m.stopCause.isSome then m else { m with stopCause := some Code.selftestFail }
    .next (checkWait (loadMicrocode s))

/-- TWILIGHT_BEGIN: INIT has completed, or no model runs; phase TWILIGHT, or TWILIGHT_ONLY when a cause stops the start (R224,
R226, R244). -/
def execTwilightBegin (s : State) : Out :=
  if s.mer.step ≠ .package || s.mer.halted || !s.keeper[8].resuming.isEmpty then .next (refuse "TWILIGHT_BEGIN" Code.badState s)
  else
    .next (s.onMer fun m =>
      { m with
        twilightMs := psMs (secPs s - m.startPs) % 65536
        phase := if m.stopCause.isSome then .twilightOnly else .twilight
        cause := m.stopCause.getD 0
        step := if m.stopCause.isSome then .done else .twilight })

/-- TRIAL_COMMIT: a start booted from a TRIAL slot has reached FULL (R337). -/
def trialCommit (s : State) : State :=
  let a := s.mer.slot == .a
  if (s.mer.slot = .a ∨ s.mer.slot = .b) ∧ (slotOf s a).ctl = .trial then
    let f : ImgSlot → ImgSlot := fun x => if x.ctl = .active then { x with ctl := .valid } else x
    (writeCtl (fun c => setSlot a .active { c with a := f c.a, b := f c.b }) s).onStc fun c =>
      { c with committed := some (secPs s) }
  else s

/-- TWILIGHT_END: its records are written; twilight is released and phase becomes FULL (R236). -/
def execTwilightEnd (s : State) : Out :=
  let holds := s.mer.twilightModel || s.mer.twilightEnding
  let busy := s.keeper[twilightSvc].form.isSome || s.keeper[twilightSvc].reqs.any Req.live || twilightRecords s
  if s.mer.step ≠ .derived || s.mer.halted || (holds && busy) then .next (refuse "TWILIGHT_END" Code.badState s)
  else
    let s := if holds then releaseTwilight s else s
    .next (trialCommit (s.onMer fun m =>
      { m with phase := .full, step := .done, fullMs := psMs (secPs s - m.startPs) % 65536 }))

end Sys2Proof.Machine
end

