-- ==== Sys2Proof/Machine/Chronograph.lean ====
section
/-! DEFINITION. Chronograph (R403 to R411) and the calibration windows (R15, R16, R189, R370). Cycle counts inside a window in
which a clock was gated, stopped or changed, or a counter cleared, are open values within their bound; so is the count of a
signal that the block's commands do not show (assumption 18). -/

namespace Sys2Proof.Machine

/-! ### Configuration (R406, R411) -/

/-- Highest EVENT code of a kind of unit (R406). -/
def lastEvent : UnitKind → Nat
  | .barge => 8
  | .basin => 5
  | .port => 6
  | .system => 6
  | .link => 4
  | .keeper => 6
  | _ => 2

/-- Programmable counters of a unit (R403). -/
def progCount (u : Nat) : Nat := if unitKind u = .basin then 8 else 4

def chrBase : Nat := 0x40000

/-- Offset of CHR_CFG_u_k. -/
def chrCfgOff (u k : Nat) : Nat := chrBase + 0x40 * u + 4 * k

/-- Write of CHR_CFG_u_k by a master identity it accepts. -/
def writeChrCfg (mid : Nat) (u : Fin 71) (k : Fin 8) (data : Word) (s : State) : State :=
  let d := data.toNat
  let c := s.chr.unit[u].prog[k]
  let ev := bits d 8 6
  let re := bits d 16 4
  let evOk := decide (ev ≤ lastEvent (unitKind u.val))
  let reOk := decide (re < 8) || re == 0xF || !hasReach u.val
  let c' : ProgCtr :=
    { en := bit d 0, level := bit d 1
      event := if evOk then ev else c.event
      reach := if hasReach u.val && reOk then re else c.reach
      user := if mid = 2 ∨ mid = 0xD then bit d 24 else c.user
      ovf := ctrOvf s u.val c && !bit d 25 && !bit d 26
      value := if bit d 26 then 0 else if c.hidden u.val then openValue s.freeCtr else c.value }
  let s := if c.hidden u.val then { s with freeCtr := s.freeCtr + 2 } else s
  let s := onUnit u.val (fun x => { x with prog := put x.prog k c' }) s
  let s := if evOk then s else
    audit { offset := chrCfgOff u.val k.val, lsb := 8, written := ev, applied := c.event, rule := AuditRule.encoding, mid, width := 6 } s
  if reOk then s else
    audit { offset := chrCfgOff u.val k.val, lsb := 16, written := re, applied := c.reach, rule := AuditRule.encoding, mid, width := 4 } s

/-- Reader class of a master identity (R409). -/
def readerClass : Nat → Option (Fin 4)
  | 0x00 => some 0
  | 0x01 => some 1
  | 0x02 => some 2
  | 0x0D => some 3
  | _ => none

/-- CHR_CFG_WRITE (R9, R405, R406, R411). -/
def execChrCfgWrite (mid : Nat) (u : Fin 71) (k : Fin 8) (data : Word) (s : State) : Out :=
  if !sysUp s then .next (refuse "CHR_CFG_WRITE" Code.badState s)
  else if progCount u.val ≤ k.val then .next (auditAccess (chrCfgOff u.val k.val) data.toNat mid s)
  else if (readerClass mid).isNone then .next s
  else .next (writeChrCfg mid u k data s)

/-! ### Samples (R407 to R411) -/

def snapOff (m : Fin 4) : Nat := chrBase + 0x2000 + 0x20 * m.val

/-- A counter of a unit. -/
inductive CtrSel where
  | cycle
  | prog (k : Fin 8)
  | always (e : Fin 6)
  deriving DecidableEq, Repr

/-- Always-running counters of a unit (R403). -/
def alwaysCount (u : Nat) : Nat :=
  match unitKind u with
  | .port => 5
  | .meridian => 6
  | .sluice => 5
  | _ => 0

/-- The counter that CTR names in a unit; `off` counters come before it and `n` may be named. -/
def ctrOf (u ctr off n : Nat) : Option CtrSel :=
  if ctr = 0 then some .cycle
  else if ctr ≤ 8 then (if ctr ≤ n then (fin? 8 (off + ctr - 1)).map .prog else none)
  else if 0x40 ≤ ctr ∧ ctr < 0x40 + alwaysCount u then (fin? 6 (ctr - 0x40)).map .always
  else none

/-- CTR codes in use (R411). -/
def ctrCodeOk (c : Nat) : Bool := decide (c ≤ 8) || (decide (0x40 ≤ c) && decide (c ≤ 0x45))

/-- Highest UNIT of a selection: units of R403, or the indexes of its class; a class of one unit per reach leaves it open
(DEDUCED from R403 and R411; assumption 21). -/
def unitTop (reachView : Bool) (cls : Nat) : Nat :=
  if !reachView then 70
  else match cls with
    | 0 => 31
    | 2 => 7
    | 3 => 15
    | 5 => 3
    | _ => 127

/-- A unit of the kind that a selection names, and how many programmable counters it shows. -/
def snapKind (x : Snap) : Nat × Nat :=
  if !x.reachView then (x.unit, progCount x.unit)
  else match x.cls with
    | 0 => (0, 4)
    | 1 => (59, 4)
    | 2 => (34, 4)
    | 3 => (38, 4)
    | 4 => (58, 4)
    | _ => (54, 4)

/-- The unit of a selection has the counter that CTR names. -/
def namesCounter (x : Snap) : Bool := (ctrOf (snapKind x).1 x.ctr 0 (snapKind x).2).isSome

/-- Write of CHR_SNAP_SEL_m: judged field by field (R8, R214). While BUSY, and where the unit has no such counter, all of it
is refused (R410; R10, assumption 21). -/
def writeSnapSel (mid : Nat) (m : Fin 4) (data : Word) (s : State) : State :=
  let d := data.toNat
  let x := s.chr.snap[m]
  let old := b2n x.reachView + 2 * x.reach + 16 * x.unit + 2 ^ 11 * x.cls + 2 ^ 14 * x.ctr
  let note : Nat → Nat → Nat → Nat → Nat → State → State := fun lsb width written applied rule =>
    audit { offset := snapOff m, lsb, written, applied, rule, mid, width }
  let clsOk := !bit d 0 || decide (bits d 11 3 ≤ 5)
  let cls := if clsOk then bits d 11 3 else x.cls
  let unit := min (unitTop (bit d 0) cls) (bits d 4 7)
  let ctr := if ctrCodeOk (bits d 14 7) then bits d 14 7 else x.ctr
  let x' : Snap := { x with reachView := bit d 0, reach := bits d 1 3, unit, cls, ctr, busy := true }
  if x.busy || !namesCounter x' then note 0 21 (d % 2 ^ 21) old AuditRule.state s
  else
    let s := { s with chr := { s.chr with snap := put s.chr.snap m x' } }
    let s := if clsOk then s else note 11 3 (bits d 11 3) x.cls AuditRule.encoding s
    let s := if unit = bits d 4 7 then s else note 4 7 (bits d 4 7) unit AuditRule.range s
    if ctrCodeOk (bits d 14 7) then s else note 14 7 (bits d 14 7) x.ctr AuditRule.encoding s

/-- CHR_SNAP_SEL: a write to the reader's own snapshot registers starts a sample (R409). -/
def execChrSnapSel (mid : Nat) (m : Fin 4) (data : Word) (s : State) : Out :=
  if !sysUp s then .next (refuse "CHR_SNAP_SEL" Code.badState s)
  else if readerClass mid = some m then .next (writeSnapSel mid m data s) else .next s

/-- The unit and counter that a selection names (R411). In the reach view a Basin unit shows its own four counters. -/
def snapTarget (s : State) (x : Snap) : Option (Fin 71 × CtrSel) :=
  let go : Nat → Nat → Nat → Option (Fin 71 × CtrSel) := fun u off n =>
    match fin? 71 u, ctrOf u x.ctr off n with
    | some v, some c => some (v, c)
    | _, _ => none
  if !x.reachView then go x.unit 0 (progCount x.unit)
  else
    match x.cls with
    | 0 => match fin? 9 x.reach with
      | some r => match bargeAt s r x.unit with
        | some b => go b.val 0 4
        | none => none
      | none => none
    | 1 => go (59 + x.reach) 0 4
    | 2 => if x.unit < 8 then go (34 + x.unit / 2) (4 * (x.unit % 2)) 4 else none
    | 3 => if x.unit < 16 then go (38 + x.unit) 0 4 else none
    | 4 => go 58 0 4
    | 5 => if x.unit < 4 then go (54 + x.unit) 0 4 else none
    | _ => none

/-- The reach that owns a counter (R407). -/
def ctrOwner (s : State) (u : Fin 71) (c : CtrSel) : Option ReachId :=
  match unitKind u.val, c with
  | .barge, _ => (fin? 34 u.val).bind fun b => fin? 8 s.barge[b].reach
  | .keeper, _ => (fin? 8 (u.val - 59)).bind fun n => if s.reach[n].state = .empty then none else some n
  | .basin, .prog k => (fin? 8 (2 * (u.val - 34) + k.val / 4)).bind fun v => fin? 8 s.basin.units[v].owner
  | .port, .prog k => fin? 8 s.chr.unit[u].prog[k].reach
  | .system, .prog k => fin? 8 s.chr.unit[u].prog[k].reach
  | .link, .prog k => fin? 8 s.chr.unit[u].prog[k].reach
  | _, _ => none

/-- What a reader sees (R381, R408). -/
inductive View where
  | denied | quantised | full
  deriving DecidableEq, Repr

def snapView (s : State) (m : Fin 4) (x : Snap) (u : Fin 71) (c : CtrSel) : View :=
  let host := decide (m.val < 2)
  match ctrOwner s u c with
  | some n =>
    if host then (if x.reachView && x.reach == n.val then .quantised else .denied)
    else match s.reach[n].debug with
      | .closed => .denied
      | .observe => .quantised
      | .opened => .full
  | none =>
    match c with
    | .always _ => if host && unitKind u.val == .meridian then .denied else .full
    | .cycle => .full
    | .prog k => if host && !s.chr.unit[u].prog[k].user then .denied else .full

/-- The clock of a unit's island runs. -/
def islRuns (x : Island) : Bool := x.powered && x.clkLocked && !x.clkGated && !x.stopped && !x.inReset

/-- A unit is being Dredged: its sample is zero (R410). -/
def unitDredging (s : State) (u : Fin 71) : Bool :=
  match unitKind u.val with
  | .barge => (fin? 34 u.val).any fun b => s.barge[b].dredging
  | .keeper => (fin? 8 (u.val - 59)).any fun n => s.reach[n].dredge != .none
  | _ => false

/-- An open count of at most `n`. -/
def openCount (k n : Nat) : Nat := (Config.freeWord k).toNat % (n + 1)

/-- Value and OVF of a counter `since` island cycles into the window in progress (R404, R409). -/
def ctrValue (s : State) (u : Fin 71) (c : CtrSel) (since : Nat) : Nat × Bool :=
  let x := s.chr.unit[u]
  let i := s.isl[unitIsl u]
  let k := s.freeCtr
  match c with
  | .cycle =>
    let n := if i.steady && !x.partialWin then (if islRuns i then since else 0) else openCount k since
    ((x.cycles + n) % 2 ^ 64, x.cyclesOvf || decide (2 ^ 64 ≤ x.cycles + n))
  | .prog j =>
    (if x.prog[j].hidden u.val then openValue k else x.prog[j].value, ctrOvf s u.val x.prog[j])
  | .always e => (if unitKind u.val = .sluice ∧ e = 2 then openValue k else x.always[e], false)

/-- The snapshot that a sample leaves. -/
def sampled (s : State) (m : Fin 4) (x : Snap) (since : Nat) : Snap :=
  let x := { x with busy := false, seq := (x.seq + 1) % 256, ovf := false, denied := false, quant := false, value := 0 }
  match snapTarget s x with
  | none => x
  | some (u, c) =>
    match snapView s m x u c with
    | .denied => { x with denied := true }
    | v =>
      if !s.isl[unitIsl u].powered || unitDredging s u then { x with quant := v == .quantised }
      else
        let (n, o) := ctrValue s u c since
        { x with quant := v == .quantised, ovf := o, value := if v = .quantised then n / 1024 * 1024 else n }

/-- CHR_SAMPLE_DONE: the counter is taken, `sinceWindow` cycles of its island after the last window boundary (R409). -/
def execChrSampleDone (m : Fin 4) (sinceWindow : Nat) (s : State) : Out :=
  if s.chr.snap[m].busy then
    let x := sampled s m s.chr.snap[m] sinceWindow
    .next { s with freeCtr := s.freeCtr + 2, chr := { s.chr with snap := put s.chr.snap m x } }
  else .next (refuse "CHR_SAMPLE_DONE" Code.badState s)

/-! ### Calibration windows (R15, R16, R18, R19, R189, R370) -/

/-- Picoseconds that `n` cycles of an island stand for: by its last window while CAL_VALID is 1, else by FREQ_MHZ (R16). -/
def Island.ps (x : Island) (n : Nat) : Nat := if x.calValid then n * windowPs / x.cycles else n * 1000000 / x.freqMhz

/-- An island at a window boundary, `n` cycles of its synthesiser after the last; nothing is placed in GLB while GLB's island
is in reset. -/
def Island.measured (glb : Bool) (n : Nat) (x : Island) : Island :=
  let whole := x.powered && x.clkLocked && x.windowWhole && glb
  { x with
    cycles := if whole then n % 2 ^ 20 else x.cycles
    seq := if whole then (x.seq + 1) % 256 else x.seq
    calValid := x.calValid || whole
    windowWhole := x.powered && x.clkLocked
    steady := true, fresh := false }

/-- The same, with the island's own time (R14). -/
def Island.window (glb : Bool) (n : Nat) (x : Island) : Island :=
  let y := x.measured glb n
  if x.powered && x.clkLocked && !x.inReset then { y with timePs := x.timePs + y.ps n } else y

/-- A unit's cycle counter at a window boundary, `n` island cycles after the last. -/
def ChrUnit.window (i : Island) (n k : Nat) (x : ChrUnit) : ChrUnit :=
  let m := if i.steady && !x.partialWin then (if islRuns i then n else 0) else openCount k n
  { x with cycles := (x.cycles + m) % 2 ^ 64, cyclesOvf := x.cyclesOvf || decide (2 ^ 64 ≤ x.cycles + m), partialWin := false }

/-- Keeper time at a window boundary: exactly 0.01 µs more for each ref_clk cycle, in KEEP as kept by Sluice (R189, R370). -/
def Keeper.window (refs : Nat) (k : Keeper) : Keeper := { k with timeCus := k.timeCus + refs, nowCus := k.timeCus + refs }

/-- One upset: a second one in a word that is not yet good again cannot be corrected. -/
def strike (word : Nat) (double : Bool) (weak bad : List Nat) : List Nat × List Nat :=
  if word ∈ bad then (weak, bad)
  else if double ∨ word ∈ weak then (weak.filter (· != word), word :: bad) else (word :: weak, bad)

/-- An upset of a scratchpad, of Basin or of Astrolabe, or failures of the Boot Store (R90, R134, R272, R331). -/
def upset (u : Upset) (s : State) : State :=
  match u with
  | .spad b w d => s.onBarge b fun g => { g with weak := (strike w d g.weak g.bad).1, bad := (strike w d g.weak g.bad).2 }
  | .basin w d => s.onBasin fun x => { x with weak := (strike w d x.weak x.bad).1, bad := (strike w d x.weak x.bad).2 }
  | .astrolabe => s.onAst fun a => { a with upset := true }
  | .bootStore n => s.onStc fun c => { c with storeFaults := n }

/-- CALIBRATION_WINDOW_END: 4,096 ref_clk cycles end in every island at once; `counts` are the cycles of each. `keeperRefs` is
the length in ref_clk cycles of the partial window in which the keeper island left reset (R189). `upsets` are the words of
SECDED memories that radiation has struck in the window, and what else fails of itself: no event of the table brings one
(DESIGN CHOICE, assumption 95). -/
def execCalibrationWindowEnd (counts : Vector Nat 64) (s : State) (keeperRefs : Nat := 4096) (upsets : List Upset := []) : Out :=
  if s.pins.porN && s.pins.refClkOk && s.slu.state != .off then
    let keeps := !s.isl[59].inReset || s.slu.state == .keep
    let refs := if s.isl[59].fresh then min 4096 keeperRefs else 4096
    .next { forAll upsets upset s with
      windows := s.windows + 1
      stc := { (forAll upsets upset s).stc with recordFresh := false }
      isl := vmapIdx (fun i x => x.window (!s.isl[58].inReset) counts[i]) s.isl
      chr := { s.chr with unit := vmapIdx (fun u x => x.window s.isl[unitIsl u] counts[unitIsl u] (s.freeCtr + u.val)) s.chr.unit }
      keeper := if keeps then vmap (Keeper.window refs) s.keeper else s.keeper
      freeCtr := s.freeCtr + 71 }
  else .next (refuse "CALIBRATION_WINDOW_END" Code.badState s)

end Sys2Proof.Machine
end

