-- ==== Sys2Proof/Machine/Collimator.lean ====
section
/-! DEFINITION. Meanings of Collimator's commands (R393 to R401). -/

namespace Sys2Proof.Machine

/-- Collimator counts test cycles and the quick pass has ended. -/
def colRuns (s : State) : Bool := s.col.quickDone && s.isl[63].powered && !s.isl[63].inReset

/-- COLLIMATOR_PICK: a pick while a test runs, or is to come, is deferred; deferred picks do not add up (R398). -/
def execCollimatorPick (s : State) : Out :=
  if !colRuns s || !pickFalls s then .next (refuse "COLLIMATOR_PICK" Code.badState s)
  else
    let s := s.onCol fun c => { c with picks := c.picks + 1 }
    if testBusy s then .next (s.onCol fun c => { c with deferred := true }) else .next (makePick s)

/-! ### Barges -/

/-- A slice of the barge fails (R81, R400). The barge is FAILED at once; the slice's budget runs to its end. -/
def sliceFailed (b : BargeId) (s : State) : State :=
  let k := s.col.slice
  let inReach := s.col.inReach
  let s := s.onCol fun c =>
    { c with
      sliceFails := satInc 8 c.sliceFails
      bargeInfo := upd c.bargeInfo b fun x => { x with failSlice := k, failed := true } }
  (bargeLost b .sliceSignature s).onCol fun c => { c with barge := some b, slice := k, verdict := some false, inReach }

/-- Every slice of the barge has passed: Dredged and SPARE, or back to its dozing reach without power (R81, R397). -/
def fullPass (b : BargeId) (s : State) : State :=
  let s := s.onCol fun c => { c with bargeInfo := upd c.bargeInfo b fun x => { x with passAt := some (testPs s), passSec := secPs s } }
  let s := endTest s
  match s.barge[b].role with
  | .underTest => if s.slu.keepPending then becomeSpare b (clearBarge b s) else startBargeDredge b .spare s
  | .spare => refill 34 (clearBarge b s)
  | _ => s

/-- What follows a slice that has passed (R397, R401). -/
def slicePassed (b : BargeId) (s : State) : State :=
  let g := s.barge[b]
  if g.role = .spare ∧ s.col.inReach then refill 34 (clearBarge b (endTest s))
  else if g.role = .active ∧ !ownerDozes s b then
    endTest (s.onCol fun c => { c with first := some b })
  else if s.col.slice = 15 then fullPass b s
  else if s.slu.keepPending then s.onCol fun c => { c with slice := 0, verdict := none, paused := true }
  else s.onCol fun c => { c with slice := c.slice + 1, verdict := none }

/-- The slices of the barge under test run: its clock runs and the block is not in KEEP. -/
def sliceRuns (s : State) (b : BargeId) : Bool := colRuns s && !s.col.paused && (bargeRuns s b || s.barge[b].role == .failed)

/-- SLICE_END: the budget of the barge slice in progress ends; without a signature it has failed (R393, R397, R401). -/
def execSliceEnd (s : State) : Out :=
  match s.col.barge with
  | none => .next (refuse "SLICE_END" Code.badState s)
  | some b =>
    if !sliceRuns s b then .next (refuse "SLICE_END" Code.badState s)
    else
      let s := chrEvent Chr.test 2 0xF 1 s
      match s.col.verdict with
      | some true => .next (settleKeep (settlePick (slicePassed b s)))
      | some false => .next (settleKeep (settlePick (endTest s)))
      | none => .next (settleKeep (settlePick (endTest (sliceFailed b s))))

/-! ### Other islands (R395, R399, R400) -/

/-- The save of a March segment of Basin (R134, R395): slices 8 to 103 of a Basin island take its banks in turn, 24 segments of
256 lines each (DESIGN CHOICE, assumption 99). A single-bit error is corrected, counted and restored good; a word that cannot be
corrected is counted and alerted with reach none, and is restored as it was. -/
def marchSave (i : Fin 64) (slice : Nat) (s : State) : State :=
  if 34 ≤ i.val ∧ i.val < 38 ∧ 8 ≤ slice then
    let bank := 4 * (i.val - 34) + (slice - 8) / 24
    let base := bank * 786432 + (slice - 8) % 24 * 32768
    let good := hits s.basin.weak base 32768
    let bad := hits s.basin.bad base 32768
    forAll bad (fun _ s => basinError none bank s) (forAll good countCorrected (s.onBasin fun b =>
      { b with corrected := satAdd 16 b.corrected good.length, weak := b.weak.filter fun m => !good.contains m }))
  else s

/-- SLICE_DUE: the slice of an island's latest due instant starts in its idle window, one island at a time, in island order in
one test cycle (R399, R401). What the pause delays, the order of the commands shows (assumption 118). -/
def execSliceDue (i : Fin 64) (s : State) : Out :=
  if colRuns s ∧ sliceWaits s i ∧ s.col.island.isNone ∧
      !((idxs 64).any fun j => decide (j.val < i.val) && sliceWaits s j && sameInstant s i j) then
    let j := (dueCount s i - 1) % islSlices i.val
    .next ((marchSave i j s).onCol fun c =>
      { c with
        island := some i, islSlice := j, islRepeat := false
        islNext := put c.islNext i (dueCount s i)
        islPassed := if j = 0 then put c.islPassed i 0 else c.islPassed })
  else .next (refuse "SLICE_DUE" Code.badState s)

/-- An island's slice has passed: a full pass when every slice of it has. -/
def islandPassed (i : Fin 64) (s : State) : State :=
  s.onCol fun c =>
    let n := c.islPassed[i] + 1
    { c with
      island := none, islRepeat := false, islPassed := put c.islPassed i n
      isl := if n = islSlices i.val then upd c.isl i fun x => { x with passAt := some (testPs s), passSec := secPs s } else c.isl }

/-- An island's slice has failed: repeated at once, and FAILED with an alert the second time. -/
def islandFailed (i : Fin 64) (s : State) : State :=
  let s := s.onCol fun c => { c with sliceFails := satInc 8 c.sliceFails }
  if s.col.islRepeat then
    alert Code.selftestFail AlertUnit.collimator i.val 0xFF 0xFFFF 0 (s.onCol fun c =>
      { c with island := none, islRepeat := false, isl := upd c.isl i fun x => { x with failed := true, failSlice := c.islSlice } })
  else marchSave i s.col.islSlice (s.onCol fun c => { c with islRepeat := true })

/-- SIGNATURE_COMPARED: the signature of the slice in progress, an island's first, is compared with the reference; none is a
slice that produced no signature within its budget (R393, R400). -/
def execSignatureCompared (signature : Option (BitVec 64)) (s : State) : Out :=
  match s.col.island, s.col.barge with
  | some i, _ =>
    let s := if signature = some (Config.sliceSignature i.val s.col.islSlice) then islandPassed i s else islandFailed i s
    .next (settleKeep (if s.col.island.isNone then chrEvent Chr.test 2 0xF 1 s else s))
  | none, some b =>
    if sliceRuns s b && s.col.verdict.isNone then
      if signature = some (Config.sliceSignature b.val s.col.slice) then .next (s.onCol fun c => { c with verdict := some true })
      else .next (sliceFailed b s)
    else .next (refuse "SIGNATURE_COMPARED" Code.badState s)
  | none, none => .next (refuse "SIGNATURE_COMPARED" Code.badState s)

end Sys2Proof.Machine
end

