-- ==== Sys2Proof/Machine/Rings.lean ====
section
/-! DEFINITION. Meanings of the ring commands and descriptors (R199 to R213, R220, R234). -/

namespace Sys2Proof.Machine

/-! ### Ring registers (R212, R214, R220) -/

def hrgBase (r : SvcId) : Nat := 0x10000 + 0x1000 * r.val

/-- Offset of a ring's CTL register. -/
def ringCtl : RingSel → Nat
  | .sq0 => 0x008
  | .sq1 => 0x028
  | .cq => 0x048

/-- A refused write of a ring register: rule STATE or DOORBELL. -/
def ringAudit (r : SvcId) (off lsb width written applied rule mid : Nat) (s : State) : State :=
  audit { offset := hrgBase r + off, lsb, written, applied, rule, mid, width } s

/-- ENABLE may be written 1: the reach holds resources; twilight's rings while its model serves, generation 2 only. -/
def mayEnable (s : State) (r : SvcId) (gen2 : Bool) : Bool :=
  match reachOf? r with
  | some n => s.reach[n].state == .loading || s.reach[n].state == .sealed || s.reach[n].state == .draining
  | none => (s.mer.phase == .twilight || s.mer.phase == .twilightOnly) && s.mer.twilightModel && gen2

/-- Entries as a power of two, 6 to 16 (R220). -/
def clampLog2 (n : Nat) : Nat := max 6 (min 16 n)

/-- Drop what a submission ring was fetching. -/
def dropFetch (r : SvcId) (q : Fin 2) (s : State) : State := dropTransfer (.fetch r q) s

/-- Fetch for both submission rings. -/
def pumpSqs (r : SvcId) (s : State) : State := pumpSq r 1 (pumpSq r 0 s)

/-- GEN and SIZE_LOG2 of a ring that is not locked, the clamp recorded. -/
def sizeAudit (r : SvcId) (sel : RingSel) (locked : Bool) (d mid : Nat) (s : State) : State :=
  let z := bits d 4 5
  if locked || z == clampLog2 z then s else ringAudit r (ringCtl sel) 4 5 z (clampLog2 z) AuditRule.range mid s

/-- Write of HRG_SQ_CTL_q. -/
def writeSqCtl (r : SvcId) (q : Fin 2) (mid : Nat) (data : Word) (s : State) : State :=
  let sel := if q = 0 then RingSel.sq0 else RingSel.sq1
  let d := data.toNat
  let en := bit d 0
  let x := s.ring[r].sq[q]
  let s := sizeAudit r sel x.enable d mid s
  let onSq := fun (f : Sq → Sq) (s : State) => s.onRing r fun b => { b with sq := upd b.sq q f }
  let s := if x.enable then s else onSq (fun y => { y with gen2 := bit d 1, sizeLog2 := clampLog2 (bits d 4 5) }) s
  if en && !x.enable then
    if mayEnable s r (bit d 1) then
      pumpSq r q (onSq (fun y =>
        { y with enable := true, state := .enabled, head := 0, tail := 0, fetched := [], fetching := false, line := none }) s)
    else ringAudit r (ringCtl sel) 0 1 1 0 AuditRule.state mid s
  else if en && x.state == .faulted then ringAudit r (ringCtl sel) 0 1 1 0 AuditRule.state mid s
  else if !en && x.enable then
    dropFetch r q (onSq (fun y =>
      { y with enable := false, state := .disabled, fetched := [], fetching := false, line := none }) s)
  else s

/-- Write of HRG_CQ_CTL. -/
def writeCqCtl (r : SvcId) (mid : Nat) (data : Word) (s : State) : State :=
  let d := data.toNat
  let en := bit d 0
  let x := s.ring[r].cq
  let s := sizeAudit r .cq x.enable d mid s
  let onCq := fun (f : Cq → Cq) (s : State) => s.onRing r fun b => { b with cq := f b.cq }
  let s := if x.enable then s else onCq (fun y => { y with gen2 := bit d 1, sizeLog2 := clampLog2 (bits d 4 5) }) s
  if en && !x.enable then
    if mayEnable s r (bit d 1) then
      pumpSqs r (pumpCq r (onCq (fun y =>
        { y with enable := true, state := .enabled, head := 0, tail := 0, phase := true, stage := .start, writing := false }) s))
    else ringAudit r (ringCtl .cq) 0 1 1 0 AuditRule.state mid s
  else if en && x.state == .faulted then ringAudit r (ringCtl .cq) 0 1 1 0 AuditRule.state mid s
  else if !en && x.enable then
    if x.state = .enabled ∧ (!s.keeper[r].reqs.isEmpty || !x.recs.isEmpty) then
      ringAudit r (ringCtl .cq) 0 1 0 1 AuditRule.state mid s
    else onCq (fun y => { y with enable := false, state := .disabled, stage := .start, writing := false }) (holdFetches r s)
  else s

def writeRingCtl (r : SvcId) (sel : RingSel) (mid : Nat) (data : Word) (s : State) : State :=
  match sel with
  | .sq0 => writeSqCtl r 0 mid data s
  | .sq1 => writeSqCtl r 1 mid data s
  | .cq => settleTwilight (writeCqCtl r mid data s)

/-- Write of HRG_SQ_TAIL_q (R212, R214). -/
def writeDoorbell (r : SvcId) (q : Fin 2) (mid : Nat) (data : Word) (s : State) : State :=
  let x := s.ring[r].sq[q]
  let i := bits data.toNat 0 16
  let off := 0x00C + 0x20 * q.val
  if x.state ≠ .enabled then ringAudit r off 0 16 i x.tail AuditRule.state mid s
  else if ringSize x.sizeLog2 ≤ i then ringAudit r off 0 16 i x.tail AuditRule.doorbell mid s
  else pumpSq r q (s.onRing r fun b => { b with sq := upd b.sq q fun y =>
    { y with tail := i, fetched := y.fetched.take (ringUsed y.sizeLog2 y.head i) } })

/-- Write of HRG_CQ_HEAD: admitted in the span from HEAD to TAIL (R214). -/
def writeCqHead (r : SvcId) (mid : Nat) (data : Word) (s : State) : State :=
  let x := s.ring[r].cq
  let i := bits data.toNat 0 16
  if x.state ≠ .enabled then ringAudit r 0x04C 0 16 i x.head AuditRule.state mid s
  else if ringSize x.sizeLog2 ≤ i ∨ ringUsed x.sizeLog2 x.head x.tail < ringUsed x.sizeLog2 x.head i then
    ringAudit r 0x04C 0 16 i x.head AuditRule.doorbell mid s
  else pumpCq r (s.onRing r fun b => { b with cq := { b.cq with head := i } })

/-- Write of a ring's BASE register, locked while the ring is enabled. -/
def writeRingBase (r : SvcId) (sel : RingSel) (hi : Bool) (data : Word) (s : State) : State :=
  let d := data.toNat
  let f : Nat → Nat := fun b => if hi then bits d 0 16 * 2 ^ 32 + b % 2 ^ 32 else b / 2 ^ 32 * 2 ^ 32 + d / 4096 * 4096
  let onSq := fun (q : Fin 2) => s.onRing r fun b => { b with sq := upd b.sq q fun y => if y.enable then y else { y with base := f y.base } }
  match sel with
  | .sq0 => onSq 0
  | .sq1 => onSq 1
  | .cq => s.onRing r fun b => if b.cq.enable then b else { b with cq := { b.cq with base := f b.cq.base } }

/-- A write to an HRG register wakes the block from KEEP first (R372). -/
def hrgWrite (what : String) (f : State → State) (s : State) : Out :=
  if sysUp s then .next (f (keepWake s)) else .next (refuse what Code.badState s)

/-- SQ_DOORBELL. -/
def execSqDoorbell (r : SvcId) (q : Fin 2) (trusted : Bool) (data : Word) (s : State) : Out :=
  hrgWrite "SQ_DOORBELL" (writeDoorbell r q (portMid trusted) data) s

/-- CQ_HEAD_WRITE. -/
def execCqHeadWrite (r : SvcId) (trusted : Bool) (data : Word) (s : State) : Out :=
  hrgWrite "CQ_HEAD_WRITE" (writeCqHead r (portMid trusted) data) s

/-- RING_ENABLE: a write of a ring's CTL register with ENABLE 1. -/
def execRingEnable (r : SvcId) (ring : RingSel) (trusted : Bool) (data : Word) (s : State) : Out :=
  if data.getLsbD 0 then hrgWrite "RING_ENABLE" (writeRingCtl r ring (portMid trusted) data) s
  else .next (refuse "RING_ENABLE" Code.badDescriptor s)

/-- RING_DISABLE: a write of a ring's CTL register with ENABLE 0. -/
def execRingDisable (r : SvcId) (ring : RingSel) (trusted : Bool) (data : Word) (s : State) : Out :=
  if data.getLsbD 0 then .next (refuse "RING_DISABLE" Code.badDescriptor s)
  else hrgWrite "RING_DISABLE" (writeRingCtl r ring (portMid trusted) data) s

/-! ### Fetch and taking of descriptors (R204, R205) -/

/-- DESCRIPTOR_FETCHED: a fetched line is split into descriptors (R204). -/
def execDescriptorFetched (r : SvcId) (q : Fin 2) (s : State) : Out :=
  let x := s.ring[r].sq[q]
  match x.line with
  | none => .next (refuse "DESCRIPTOR_FETCHED" Code.badState s)
  | some l =>
    let i := x.head % ringSize x.sizeLog2
    let n := descSize x.gen2
    let first := n * i % 64
    let ds := (List.range (min x.lineWant x.pendingEntries)).map fun j => slice l (first + n * j) n
    .next (pumpSq r q (s.onRing r fun b =>
      { b with sq := upd b.sq q fun y => { y with line := none, lineWant := 0, fetched := y.fetched ++ ds } }))

/-- The keeper core can take a descriptor of a ring: alternating while both hold some (R204), not while its Dredge clears it. -/
def canTake (s : State) (r : SvcId) (q : Fin 2) : Bool :=
  let b := s.ring[r]
  let k := s.keeper[r]
  let other : Fin 2 := if q = 0 then 1 else 0
  b.sq[q].state == .enabled && b.cq.state == .enabled && !b.sq[q].fetched.isEmpty && decide (0 < b.sq[q].pendingEntries)
    && (decide (b.sq[other].pendingEntries = 0) || b.sq[other].state != .enabled || q == k.sqTurn)
    && s.isl[59].powered && !s.isl[59].inReset && !k.dbgHalted
    && (k.core != .halted || (match reachOf? r with
      | some n => s.reach[n].state == .dredging && s.reach[n].dredge != .tamper
      | none => false))

/-- Take the descriptor at the front of a ring: HEAD advances, keeper time stands at the take (R204). -/
def takeDesc (r : SvcId) (q : Fin 2) (kc : Nat) (s : State) : State :=
  let s := s.onRing r fun b => { b with sq := upd b.sq q fun y =>
    { y with head := (y.head + 1) % ringSize y.sizeLog2, fetched := y.fetched.drop 1 } }
  pumpSq r q (tick r kc ((chrEvent (keeperUnit r) 3 r.val 1 s).onKeeper r fun k => { k with sqTurn := if q = 0 then 1 else 0 }))

/-- The descriptor at the front of a ring. -/
def frontDesc (s : State) (r : SvcId) (q : Fin 2) : Bytes := s.ring[r].sq[q].fetched.headD []

def opcodeOf (d : Bytes) : Nat := leAt d 0 1

/-- TAG or TARGET_TAG of a descriptor. -/
def tagOf (d : Bytes) : Nat := leAt d 4 4

/-- Every byte of a range is zero. -/
def zeroAt (d : Bytes) (lo n : Nat) : Bool := slice d lo n == zeros n

/-- The request a SUBMIT descriptor spells, its context, bucket and acceptance still to be given. -/
def parseSubmit (gen2 : Bool) (sq : Fin 2) (d : Bytes) : Req :=
  let flags := leAt d 1 1
  let pol := bits flags 2 2
  let frame := if gen2 then leAt d 32 8 else leAt d 16 6
  let b : Bucket := { maxPatches := 0, maxPrompt := 0, maxContext := 0, maxNew := 0, maxRows := 0, chunk := 0, patch := 0 }
  { ctx := 0, tag := tagOf d, state := .queued, sq, normal := bit flags 0
    cust := Fin.ofNat 16 (if gen2 then leAt d 2 1 % 16 else bits flags 4 4)
    seed := BitVec.ofNat 64 (leAt d 8 (if gen2 then 8 else 4)), greedy := bit flags 1
    maxNew := if gen2 then leAt d 16 2 else leAt d 2 2
    deadlineUs := if gen2 then leAt d 20 4 else leAt d 12 4
    policy := if pol = 0 then .continue else if pol = 1 then .moor else .cancel
    moorLimitMs := if gen2 then leAt d 18 2 else 0
    patchRows := if gen2 then leAt d 24 1 else leAt d 30 1, patchCols := if gen2 then leAt d 25 1 else leAt d 31 1
    nPrompt := if gen2 then leAt d 26 2 else leAt d 22 2, frameAddr := frame
    promptAddr := if gen2 then leAt d 40 8 else frame, outAddr := if gen2 then leAt d 48 8 else leAt d 24 6
    bucket := b, acceptSeq := 0, acceptCus := 0 }

/-- Check 1 of R205 for a SUBMIT. -/
def submitForm (gen2 : Bool) (d : Bytes) (q : Req) : Bool :=
  let zero := if gen2 then
      leAt d 1 1 < 16 && leAt d 2 1 < 16 && zeroAt d 3 1 && zeroAt d 28 4 && zeroAt d 56 8 && zeroAt d 38 2 && zeroAt d 46 2
        && zeroAt d 54 2
    else true
  zero && bits (leAt d 1 1) 2 2 != 3 && decide (1 ≤ q.maxNew) && decide (q.maxNew ≤ 8191)
    && (decide (q.patchRows = 0) == decide (q.patchCols = 0)) && decide (1 ≤ q.patches + q.nPrompt)
    && q.frameAddr % 4 == 0 && q.promptAddr % 4 == 0 && q.outAddr % 4 == 0

/-- The lowest-numbered bucket that covers a request (R126). -/
def bucketFor (p : Package) (q : Req) : Option Bucket :=
  p.buckets.find? fun b => decide (q.patches ≤ b.maxPatches) && decide (q.nPrompt ≤ b.maxPrompt)
    && decide (q.nPrompt + q.maxNew ≤ b.maxContext)

/-- The lowest-numbered free context (R177). -/
def freeCtx (s : State) (r : SvcId) : Option Nat :=
  (List.range (512 * flightsOf s r)).find? fun c => !(s.keeper[r].reqs.any fun q => q.ctx == c)

/-- A descriptor is rejected: its record, for one that holds no context (R205), and the event (R10). -/
def rejectDesc (what : String) (r : SvcId) (q : Fin 2) (tag status : Nat) (reply : Bool) (s : State) : State :=
  postGroup r [replyRec s.keeper[r] tag status q reply] (refuse what status s)

/-- The service accepts submissions. -/
def submits (s : State) (r : SvcId) : Bool :=
  match reachOf? r with
  | some n => s.reach[n].state == .sealed
  | none => (s.mer.phase == .twilight || s.mer.phase == .twilightOnly) && s.mer.twilightModel

/-- Checks 2 to 5 of R205 and acceptance of a well-formed SUBMIT. A request that twilight accepts after step 8 ends CANCELLED
(R236). -/
def acceptSubmit (r : SvcId) (q : Fin 2) (gen2 : Bool) (x : Req) (s : State) : State :=
  if !submits s r then rejectDesc "SUBMIT" r q x.tag Code.badState false s
  else if s.keeper[r].reqs.any fun y => y.tag == x.tag then rejectDesc "SUBMIT" r q x.tag Code.badDescriptor false s
  else
    match (pkgOf s r).bind fun p => bucketFor p x, freeCtx s r with
    | none, _ => rejectDesc "SUBMIT" r q x.tag Code.badDescriptor false s
    | some _, none => rejectDesc "SUBMIT" r q x.tag Code.resources false s
    | some b, some ctx =>
      let prompt := if gen2 then x.promptAddr else x.frameAddr + x.patches * b.patch * b.patch * 3
      let s := s.onKeeper r fun k =>
        { k with
          acceptSeq := k.acceptSeq + 1
          reqs := k.reqs ++ [{ x with ctx, bucket := b, promptAddr := prompt, acceptSeq := k.acceptSeq, acceptCus := k.nowCus }] }
      let s := syncContexts r s
      match reachOf? r with
      | some n => wakeReach n s
      | none => if s.mer.step = .derived then cancelAll r s else s

/-- A reach whose share is being staged again takes no submission (R136). -/
def restaging (s : State) (r : SvcId) : Bool :=
  match reachOf? r with
  | some n => s.reach[n].restage
  | none => false

/-- SUBMIT: the descriptor at the front is a SUBMIT, or its opcode is invalid (R205). -/
def execSubmit (r : SvcId) (q : Fin 2) (kc : Nat) (s : State) : Out :=
  let d := frontDesc s r q
  let gen2 := s.ring[r].sq[q].gen2
  let op := opcodeOf d
  if !canTake s r q || op == 0 || op == 2 || op == 3 || (op == 1 && restaging s r) then .next (refuse "SUBMIT" Code.badState s)
  else
    let s := takeDesc r q kc s
    if op ≠ 1 then .next (rejectDesc "SUBMIT" r q (tagOf d) Code.badDescriptor false s)
    else
      let x := parseSubmit gen2 q d
      if submitForm gen2 d x then .next (acceptSubmit r q gen2 x s)
      else .next (rejectDesc "SUBMIT" r q x.tag Code.badDescriptor false s)

/-- Every byte of a CANCEL but OPCODE and TARGET_TAG is zero. -/
def cancelForm (gen2 : Bool) (d : Bytes) : Bool := zeroAt d 1 3 && zeroAt d 8 (if gen2 then 56 else 24)

/-- The service accepts cancels (R213). -/
def cancels (s : State) (r : SvcId) : Bool :=
  match reachOf? r with
  | some n => s.reach[n].state == .sealed || s.reach[n].state == .draining
  | none => submits s r

/-- CANCEL (R188, R205). -/
def execCancel (r : SvcId) (q : Fin 2) (kc : Nat) (s : State) : Out :=
  let d := frontDesc s r q
  let gen2 := s.ring[r].sq[q].gen2
  if !canTake s r q || opcodeOf d != 2 then .next (refuse "CANCEL" Code.badState s)
  else
    let s := takeDesc r q kc s
    if !cancelForm gen2 d then .next (rejectDesc "CANCEL" r q (tagOf d) Code.badDescriptor true s)
    else if !cancels s r then .next (rejectDesc "CANCEL" r q (tagOf d) Code.badState true s)
    else .next (checkDrained r (cancelReq r (tagOf d) (some q) s))

def loadForm (d : Bytes) : Bool :=
  zeroAt d 1 3 && zeroAt d 8 24 && zeroAt d 38 2 && zeroAt d 48 16 && leAt d 32 8 % 64 == 0

/-- A reach accepts a LOAD: LOADING, its package key held, no load of it running (R170). -/
def loadOk (s : State) (n : ReachId) : Bool :=
  let x := s.reach[n]
  x.state == .loading && slotValid s (keySlot s n 3) && !loadPending s n && !x.initPending && x.dredge == .none

/-- LOAD (R203, R205, R213, R234). -/
def execLoad (r : SvcId) (q : Fin 2) (kc : Nat) (s : State) : Out :=
  let d := frontDesc s r q
  let gen2 := s.ring[r].sq[q].gen2
  if !canTake s r q || opcodeOf d != 3 then .next (refuse "LOAD" Code.badState s)
  else
    let s := takeDesc r q kc s
    if !gen2 then .next (rejectDesc "LOAD" r q (tagOf d) Code.badDescriptor false s)
    else
      match reachOf? r with
      | none => .next (rejectDesc "LOAD" r q (tagOf d) Code.badDescriptor true s)
      | some n =>
        if !loadForm d then .next (rejectDesc "LOAD" r q (tagOf d) Code.badDescriptor true s)
        else if !loadOk s n then .next (rejectDesc "LOAD" r q (tagOf d) Code.badState true s)
        else
          let j : LoadJob := { reach := n, tag := tagOf d, sq := q, imageAddr := leAt d 32 8, imageBytes := leAt d 40 8 }
          .next (startLoads 8 { s with loader := { s.loader with queue := s.loader.queue ++ [j] } })

/-- DESC_NOP: consumed without a record (R200). -/
def execDescNop (r : SvcId) (q : Fin 2) (kc : Nat) (s : State) : Out :=
  if !canTake s r q || opcodeOf (frontDesc s r q) != 0 then .next (refuse "DESC_NOP" Code.badState s)
  else .next (takeDesc r q kc s)

/-! ### Records (R177, R178, R208, R210, R211) -/

/-- A context is freed and its tag enters the recent-finals list. -/
def freeContext (r : SvcId) (ctx tag : Nat) (s : State) : State :=
  s.onKeeper r fun k =>
    let f := k.finals ++ [tag]
    { k with reqs := k.reqs.filter fun q => q.ctx != ctx, finals := f.drop (f.length - 256) }

/-- RECORD_WRITTEN: the final word is acknowledged; TAIL advances, the group's last record raises the interrupt. -/
def execRecordWritten (r : SvcId) (s : State) : Out :=
  let c := s.ring[r].cq
  match c.stage, c.recs with
  | .written, x :: rest =>
    let tail := (c.tail + 1) % ringSize c.sizeLog2
    let s := s.onRing r fun b => { b with cq := { b.cq with
      recs := rest, stage := .start, tail, phase := if tail = 0 then !b.cq.phase else b.cq.phase } }
    let s := match x.frees with
      | some ctx => freeContext r ctx x.tag s
      | none => s
    let s := if x.groupEnd then raiseIrq (cqSource r) s else s
    let s := chrEvent (keeperUnit r) 2 r.val 1 s
    .next (settleTwilight (pumpCq r s))
  | _, _ => .next (refuse "RECORD_WRITTEN" Code.badState s)

end Sys2Proof.Machine
end

