-- ==== Sys2Proof/Machine/RegOps.lean ====
section
/-! DEFINITION. The configuration window (R426 to R430): the word of every register for every reader, Eyepiece's accesses
(R377, R381, R386, R392), and writes judged field by field (R7 to R9, R214, R216). -/

namespace Sys2Proof.Machine

/-- Master identities of the System Port. -/
def hostMid (mid : Nat) : Bool := decide (mid ≤ 1)

/-- Master identities of the operator and of Eyepiece, which EYE and USER accept (R392, R411). -/
def debugMid (mid : Nat) : Bool := mid == 2 || mid == 0xD

/-- A register of an array at an offset: first offset, stride and count. -/
def elem (o base stride n : Nat) : Option Nat :=
  if base ≤ o ∧ o < base + stride * n ∧ (o - base) % stride = 0 then some ((o - base) / stride) else none

/-- Eight owner codes of a wheel as one word. -/
def wheelWord {n : Nat} (w : Vector Nat n) (k : Nat) : Word := word (total ((List.range 8).map fun i => fld (w.toList.getD (8 * k + i) 0) (4 * i)))

/-! ### Reads outside the security region -/

/-- GLB_ISL_STATUS_n (R18). -/
def islStatus (s : State) (n : Fin 64) : Word :=
  let x := s.isl[n]
  word (b2n x.powered + fld (b2n x.clkLocked) 1 + fld (b2n x.clkGated) 2 + fld (b2n x.calValid) 3 + fld (b2n x.stopped) 4
    + fld n.val 8 + fld x.freqMhz 16)

/-- GLB_ISL_CAL_n (R19). -/
def islCal (s : State) (n : Fin 64) : Word := word (s.isl[n].cycles + fld s.isl[n].seq 24)

/-- Word `w` of an audit record (R215). -/
def auditWord (a : Audit) (w : Nat) : Word :=
  match w with
  | 0 => word (a.offset + fld a.lsb 24)
  | 1 => word a.written
  | 2 => word a.applied
  | _ => word (a.rule + fld a.mid 8 + fld a.width 16)

/-- Word `w` of place `i` of the audit log: record number j lies at place j mod 64. -/
def auditAt (s : State) (i w : Nat) : Word :=
  let n := s.sys.auditCount.toNat
  let back := (n + 2 ^ 32 - 1 - i) % 64
  match (s.sys.audit.reverse)[back]? with
  | some a => auditWord a w
  | none => 0

/-- Register `k` of GLB_REACH block `n` (R175). -/
def reachWord (s : State) (n : ReachId) (o : Nat) : Option Word :=
  match o with
  | 0x00 => some (reachState s n)
  | 0x04 => some (reachLayout s n)
  | 0x08 => some (reachSlots s n)
  | 0x0C => some (reachKeys s n)
  | 0x10 => some (reachAqd s n)
  | 0x14 => some (word (s.reach[n].memBase % 2 ^ 32))
  | 0x18 => some (word (s.reach[n].memBase / 2 ^ 32))
  | 0x1C => some (word s.reach[n].memPages)
  | _ => none

/-- Source registers of the interrupts (R221): register `k` of 4 of source `i`. -/
def msgWord (x : Route) (k : Nat) : Option Word :=
  match k with
  | 0 => some (word x.addrLo)
  | 4 => some (word x.addrHi)
  | 8 => some x.data
  | _ => none

/-- GLB (R428). -/
def glbWord (s : State) (o : Nat) : Option Word :=
  match o with
  | 0x000 => some 0x474F5258
  | 0x004 => some 0x00020400
  | 0x040 => some (isoStatus s)
  | 0x044 => some (isoHistory s)
  | 0x080 => some (bootStatus s)
  | 0x084 => some (bootTime s)
  | 0x088 => some (variantWord s)
  | 0x08C => some (almStatusWord s)
  | 0x090 => some (stcStatus s)
  | 0x094 => some (word (s.stc.bytesOut % 2 ^ 24))
  | 0x098 => some (stcSecver s)
  | 0x800 => some (word s.sys.latLevel)
  | 0x804 => some (word (s.sys.readErr + fld s.sys.writeErr 8 + fld s.sys.timeout 16 + fld s.sys.late 24))
  | 0x900 => some (word (mask (s.sys.irqPend.toList.take 13)))
  | 0xC00 => some s.sys.auditCount
  | _ =>
    match (elem o 0x100 8 64).bind (fin? 64), (elem o 0x104 8 64).bind (fin? 64), fin? 8 ((o - 0x400) / 0x40),
        (elem o 0x940 4 16).bind (fin? 16), fin? 16 ((o - 0xA00) / 16) with
    | some n, _, _, _, _ => some (islStatus s n)
    | _, some n, _, _, _ => some (islCal s n)
    | _, _, n, i, j =>
      if 0x400 ≤ o ∧ o < 0x600 then n.bind fun n => reachWord s n ((o - 0x400) % 0x40)
      else if 0x810 ≤ o ∧ o < 0x830 then some (wheelWord s.sys.wheel ((o - 0x810) / 4))
      else if 0xA00 ≤ o ∧ o < 0xB00 then j.bind fun j => msgWord s.sys.route[j] ((o - 0xA00) % 16)
      else if 0x1000 ≤ o ∧ o < 0x1400 then some (auditAt s ((o - 0x1000) / 16) ((o - 0x1000) % 16 / 4))
      else i.map fun i => word (s.sys.route[i].mode + fld s.sys.route[i].line 2)

def ringStateCode : RingState → Nat
  | .disabled => 0
  | .enabled => 1
  | .faulted => 2

/-- HRG registers of a service (R220). -/
def hrgWord (s : State) (r : SvcId) (o : Nat) : Option Word :=
  let sq := fun (q : Fin 2) (k : Nat) =>
    let x := s.ring[r].sq[q]
    match k with
    | 0x00 => some (word (x.base % 2 ^ 32))
    | 0x04 => some (word (x.base / 2 ^ 32))
    | 0x08 => some (word (b2n x.enable + fld (b2n x.gen2) 1 + fld x.sizeLog2 4 + fld (ringStateCode x.state) 9))
    | 0x0C => some (word x.tail)
    | 0x10 => some (word x.head)
    | _ => none
  let x := s.ring[r].cq
  match o with
  | 0x40 => some (word (x.base % 2 ^ 32))
  | 0x44 => some (word (x.base / 2 ^ 32))
  | 0x48 => some (word (b2n x.enable + fld (b2n x.gen2) 1 + fld x.sizeLog2 4 + fld (ringStateCode x.state) 9 + fld (b2n x.phase) 16))
  | 0x4C => some (word x.head)
  | 0x50 => some (word x.tail)
  | _ => if o < 0x20 then sq 0 o else if o < 0x40 then sq 1 (o - 0x20) else none

def twpStateCode : TwpState → Nat
  | .unbound => 0
  | .empty => 1
  | .full => 2

/-- The channel window of a Towpath channel for a reader (R349, R350, R354). -/
def chanWord (s : State) (mid : Nat) (c : ChanId) (o : Nat) : Option Word :=
  let x := s.twp.chan[c]
  match (elem o 0 4 16).bind (fin? 16) with
  | some w =>
    let sees := match x.state with
      | .unbound => false
      | .empty => mid == x.sender
      | .full => mid == x.sender || mid == x.receiver
    some (if sees then x.words[w] else 0)
  | none =>
    if o = 0x40 then some 0
    else if o = 0x44 then some (word (twpStateCode x.state + fld x.sender 8 + fld x.receiver 16))
    else none

/-- TWP (R354). Endpoint registers show their value to their own identity and to Meridian (R352). -/
def twpWord (s : State) (mid o : Nat) : Option Word :=
  if o < 0x2000 then (fin? 32 (o / 0x100)).bind fun c => chanWord s mid c (o % 0x100)
  else
    match (elem o 0x2000 4 32).bind (fin? 32) with
    | some c =>
      let x := s.twp.chan[c]
      some (word (x.sender + fld x.receiver 8 + fld (b2n x.valid) 16))
    | none =>
      if o = 0x2080 then some (word (b2n s.twp.lock))
      else if 0x3000 ≤ o then
        (fin? 13 ((o - 0x3000) / 0x10)).map fun e =>
          let x := s.twp.ep[e]
          if mid = e.val ∨ mid = 3 then
            match (o - 0x3000) % 0x10 with
            | 0x0 => word (mask x.db.toList)
            | 0x4 => x.dbMask
            | 0x8 => word (mask x.empty.toList)
            | _ => x.emptyMask
          else 0
      else none

/-- SLU (R376). Only the System Port's identities read a value. -/
def sluWord (s : State) (mid o : Nat) : Option Word :=
  let u := s.slu
  let v : Option Word :=
    match o with
    | 0x00 => some (sluState s)
    | 0x04 => some (word (u.envelope + fld 8 8 + fld (headroom s) 16))
    | 0x08 => some (sluPower s)
    | 0x0C => some (sluTemp s)
    | 0x200 => some (word (u.swings + fld u.throttleS 16))
    | _ =>
      match (elem o 0x10 4 4).bind (fin? 4), (elem o 0x40 4 6).bind (fin? 6), (elem o 0x100 0x10 8).bind (fin? 8),
          (elem o 0x104 0x10 8).bind (fin? 8) with
      | some k, _, _, _ => some (word (u.ext[k].value.toNat + fld (b2n u.ext[k].valid) 16))
      | _, some r, _, _ =>
        let x := u.rail[r]
        some (word (x.targetMv + fld (b2n x.on) 16 + fld (b2n x.settled) 17 + fld (b2n x.fault) 18))
      | _, _, some n, _ =>
        let x := u.reach[n]
        some (word (x.budgetW8 + fld x.step 10 + fld (b2n x.dozing) 13 + fld (b2n x.boostEn) 14 + fld x.dwellMs 16))
      | _, _, _, some n => some (word (u.reach[n].estW8 % 1024 + fld (effBudget s n) 16))
      | _, _, _, _ => none
  if hostMid mid then v else v.map fun _ => 0

/-- CHR (R411). A reader class reads its own snapshot registers (R409). -/
def chrWord (s : State) (mid o : Nat) : Option Word :=
  if o < 0x40 * 71 then
    (fin? 71 (o / 0x40)).bind fun u =>
      (fin? 8 (o % 0x40 / 4)).bind fun k =>
        if o % 0x40 < 4 * progCount u.val then
          let c := s.chr.unit[u].prog[k]
          some (word (b2n c.en + fld (b2n c.level) 1 + fld c.event 8 + fld c.reach 16 + fld (b2n c.user) 24 + fld (b2n (ctrOvf s u.val c)) 25))
        else none
  else if 0x2000 ≤ o ∧ o < 0x2080 ∧ o % 0x20 < 0x10 then
    (fin? 4 ((o - 0x2000) / 0x20)).map fun m =>
      let x := s.chr.snap[m]
      if readerClass mid ≠ some m then 0
      else
        match o % 0x20 with
        | 0x0 => word (b2n x.reachView + fld x.reach 1 + fld x.unit 4 + fld x.cls 11 + fld x.ctr 14)
        | 0x4 => word (b2n x.busy + fld (b2n x.ovf) 1 + fld (b2n x.denied) 2 + fld (b2n x.quant) 3 + fld x.seq 8)
        | 0x8 => word (x.value % 2 ^ 32)
        | _ => word (x.value / 2 ^ 32)
  else none

/-- AGE_S of R402, in the time of the test island, whose registers they are (DEDUCED from R14; assumption 97). -/
def ageS (s : State) (x : ColInfo) : Nat :=
  match x.passAt with
  | some t => min 0xFFFF (psS (testPs s - t))
  | none => 0xFFFF

/-- COL (R402). -/
def colWord (s : State) (mid o : Nat) : Option Word :=
  let c := s.col
  let v : Option Word :=
    match o with
    | 0x0 =>
      let b := match c.barge with
        | some b => b.val
        | none => 0x3F
      some (word (b + fld c.slice 8 + fld (b2n c.quickDone) 12 + fld (reportHealth s / 2 ^ 14 % 2) 13))
    | 0x4 => some (word (c.sliceFails + fld c.skipped 8))
    | _ =>
      match (elem o 0x100 4 34).bind (fin? 34), (elem o (0x200 + 4 * 34) 4 30).bind (fun i => fin? 64 (i + 34)) with
      | some b, _ => some (word (ageS s c.bargeInfo[b] + fld c.bargeInfo[b].failSlice 16 + fld (b2n c.bargeInfo[b].failed) 20))
      | _, some i => some (word (ageS s c.isl[i] + fld c.isl[i].failSlice 16 + fld (b2n c.isl[i].failed) 23))
      | _, _ => none
  if (readerClass mid).isSome then v else v.map fun _ => 0

def chanStateCode : ChanState → Nat
  | .closed => 0
  | .handshake => 1
  | .opened => 2

/-- AQD registers of a link (R309). -/
def aqdWord (s : State) (l : LinkId) (o : Nat) : Option Word :=
  let k := s.link[l]
  let isOpen := fun (c : Fin 9) => k.chan[c].state == .opened
  match o with
  | 0x00 => some (word (b2n k.ready + fld (mask ((idxs 8).map fun c => isOpen ⟨c.val, by omega⟩)) 8 + fld (b2n (isOpen 8)) 16))
  | 0x40 => some (wheelWord k.wheel 0)
  | 0x44 => some (wheelWord k.wheel 1)
  | 0x50 => some (word (k.auth + fld k.seqErr 8 + fld k.timeout 16 + fld k.lastChan 24))
  | _ =>
    match (elem o 0x10 4 9).bind (fin? 9) with
    | some c =>
      let x := k.chan[c]
      some (word (chanStateCode x.state + fld (b2n x.responder) 2 + fld (b2n x.gen2) 3 + fld x.peer 4 + fld x.share 8
        + fld (min 0xFFFF x.rekeys) 16))
    | none =>
      if 0x100 ≤ o ∧ o < 0x180 then
        (fin? 8 ((o - 0x100) / 0x10)).map fun r =>
          let x := k.xchg[r]
          match o % 0x10 with
          | 0x0 => word (b2n x.en + fld x.len 16)
          | 0x4 => word x.tx
          | 0x8 => word x.rx
          | _ => word (x.sent % 2 ^ 16 + fld (x.released % 2 ^ 16) 16)
      else none

def coreStateCode : CoreState → Nat
  | .reset => 0
  | .running => 1
  | .halted => 2

/-- LKP registers of a reach (R198). -/
def lkpWord (s : State) (n : ReachId) (o : Nat) : Option Word :=
  let k := s.keeper[svcOf n]
  let count := fun (t : ReqState) => (k.reqs.filter fun q => q.state == t).length
  match o with
  | 0x00 =>
    let inCycle := k.form.any fun c => c.started
    let hold := migrationPending s (svcOf n) || k.refused.any fun b => decide (b ∈ k.resuming)
    some (word (coreStateCode k.core + fld (b2n inCycle) 2 + fld (b2n hold) 3 + fld k.liveSched 16))
  | 0x04 => some (word (k.cycle % 2 ^ 32))
  | 0x08 => some (word (k.cycle / 2 ^ 32))
  | 0x0C => some (word (count .queued + fld (count .active) 16))
  | 0x10 => some (word (count .moored + fld (512 * s.reach[n].flights - k.reqs.length) 16))
  | 0x14 => some (word (k.refusals + fld k.moorings 16))
  | 0x18 => some (word (k.lateTokens + fld k.deadlineEnds 16))
  | 0x1C => some (word k.lastUs)
  | _ =>
    if 0x100 ≤ o ∧ o < 0x180 then
      (fin? 16 ((o - 0x100) / 8)).map fun c =>
        let t := k.tolls[c]
        if o % 8 = 0 then word (b2n t.en + fld (b2n t.endMode) 1 + fld t.rate 16) else word t.cap
    else (elem o 0x180 4 16).bind fun c => (fin? 16 c).map fun c => word (signedBits 32 k.tolls[c].balance)

/-- Epoch of the owner that a code names. -/
def ownerEpoch (s : State) (o : Nat) : Nat :=
  match fin? 9 o with
  | some r => epochOf s r
  | none => 0

/-- BSN (R162). -/
def bsnWord (s : State) (o : Nat) : Option Word :=
  match (elem o 0 4 8).bind (fin? 8), (elem o 0x40 4 8).bind (fin? 8) with
  | some n, _ =>
    let us := s.reach[n].units
    some (word (mask ((List.range 8).map fun u => us.contains u) + fld us.length 8))
  | _, some u =>
    let x := s.basin.units[u]
    some (word (x.epoch + fld x.owner 16 + fld (b2n (x.epoch != 0 && x.epoch == ownerEpoch s x.owner)) 20))
  | _, _ =>
    if o = 0x80 then some (word (s.basin.corrected + fld s.basin.uncorrected 16 + fld s.basin.lastBank 24)) else none

def loadStateCode : LoadState → Nat
  | .idle => 0
  | .running => 1
  | .done => 2
  | .failed => 3

/-- Reads of a reach in flight at a port (R162). -/
def inFlight (x : Port) (r : Fin 8) : Nat := (x.txns.filter fun t => t.req.kind == .rd && t.svc == svcOf r && !t.lost).length

/-- MPT and CUL registers of a port (R162). -/
def mptWord (s : State) (p : PortId) (o : Nat) : Option Word :=
  let x := s.port[p]
  match o with
  | 0x000 => some (word (x.latLevel + fld (b2n x.ctrlReady) 16))
  | 0x060 => some (word (mask x.spillEn.toList + fld (poolFree x) 16))
  | 0x070 => some (word (x.corrected + fld x.uncorrectable 16 + fld x.timeout 24))
  | 0x074 => some (word (x.late + fld x.skipped 16))
  | 0x100 => some (word (x.tagErr + fld x.tagErrReach 16))
  | 0x200 => if p = 0 then some (word (loadStateCode s.loader.state + fld s.loader.reach 3 + fld s.loader.status 8)) else none
  | 0x204 => if p = 0 then some (word s.loader.chunkIndex) else none
  | _ =>
    match (elem o 0x40 4 8).bind (fin? 8) with
    | some r => some (word (x.quota[r] + fld (inFlight x r) 16))
    | none => (elem o 0x10 4 8).map fun k => wheelWord x.wheel k

def roleCode : Role → Nat
  | .unassigned => 0
  | .active => 1
  | .spare => 2
  | .underTest => 3
  | .failed => 4
  | .twilight => 5
  | .disabled => 6

/-- Eyepiece shows the counters of a barge whose reach is at OBSERVE or OPEN (R107, R381). -/
def showsCounters (s : State) (mid : Nat) (g : Barge) : Bool :=
  match fin? 8 g.reach with
  | some n => debugMid mid && s.reach[n].debug != .closed
  | none => false

/-- BRG registers of a barge (R106, R107). -/
def brgWord (s : State) (mid : Nat) (b : BargeId) (o : Nat) : Option Word :=
  let g := s.barge[b]
  let owned := decide (g.reach < 8)
  match o with
  | 0x00 =>
    some (word (roleCode g.role + fld (b2n g.mcodeLoaded) 3 + fld (b2n g.migrating) 4 + fld (if owned then g.reach else 0xF) 8
      + fld (if owned then g.logical else 0x3F) 16))
  | 0x04 => some (word (g.epoch + fld (b2n (g.epoch != 0 && owned && g.epoch == ownerEpoch s g.reach)) 16))
  | 0x08 => some (word (g.mcodeVersion + fld (b2n g.mcodeLoaded) 16))
  | 0x0C => some (word (g.faultCause + fld g.faultCount 8))
  | 0x10 => some (word (g.corrected + fld g.uncorrected 16))
  | _ =>
    match (elem o 0x100 4 16).bind (fin? 16), (elem o 0x140 4 16).bind (fin? 16) with
    | some c, _ => some (if showsCounters s mid g then word g.tokens[c] else 0)
    | _, some c => some (if showsCounters s mid g then word g.credits[c] else 0)
    | _, _ => none

/-! ### Eyepiece's registers (R392) -/

/-- An operator session is open. -/
def sessionOpen (s : State) : Bool := s.spdm.sessions.toList.any fun y => y.any fun y => y.target == operatorTarget

/-- The entry of the trace buffer at an index: entry i lies at index i mod 2,048. -/
def traceAt (s : State) (idx : Nat) : BitVec 64 := s.eye.trace.getD ((s.eye.traceCount + 2 ^ 32 - 1 - idx) % 2048) 0

/-- The core that EYE_CORE_CTL names is halted. -/
def coreHalted (s : State) (t : Nat) : Bool :=
  if t = 0xE then s.mer.halted
  else match fin? 8 t with
    | some n => s.keeper[svcOf n].dbgHalted
    | none => false

/-- EYE registers but EYE_MEM_DATA for the operator and Eyepiece; the System Port sees two. -/
def eyeWord (s : State) (mid o : Nat) : Option Word :=
  let e := s.eye
  let v : Option Word :=
    match o with
    | 0x00 => some 0x47594501
    | 0x04 => some (word (b2n e.tapUnlocked + fld (b2n (sessionOpen s)) 1 + fld (b2n e.err) 2))
    | 0x10 => some (word (e.reachEn.toNat + fld (b2n e.sluEn) 8 + fld (b2n e.merEn) 9 + fld (b2n e.freeze) 10))
    | 0x14 => some (word e.traceCount)
    | 0x18 => some (word e.traceIdx)
    | 0x1C => some (word ((traceAt s e.traceIdx).toNat % 2 ^ 32))
    | 0x20 => some (word ((traceAt s e.traceIdx).toNat / 2 ^ 32))
    | 0x30 => some (word (e.memTarget + fld e.memReach 2 + fld e.memLogical 5))
    | 0x34 => some (word e.memAddr)
    | 0x38 => some 0
    | 0x40 => some (word (e.coreTarget + fld (b2n e.haltBit) 4 + fld (b2n (coreHalted s e.coreTarget)) 6))
    | _ => none
  if debugMid mid || o = 0 || o = 4 then v else v.map fun _ => 0

/-! ### The security region (R216, R231, R261, R278, R329, R354, R386) -/

def slotStateCode : SlotState → Nat
  | .invalid => 0
  | .valid => 1
  | .orphaned => 2
  | .expired => 3
  | .exhausted => 4

def lifetimeCode : Lifetime → Nat
  | .unlimited => 0
  | .counted => 1
  | .expire => 2

def engineBit : Engine → Nat
  | .culvertXts => 0
  | .culvertTag => 1
  | .loadGcm => 2
  | .aqueduct => 3
  | .astrolabe => 4
  | .kdf => 5
  | .meridianGcm => 6

/-- EPH_SLOT_ATTR_n (R261). -/
def slotAttr (s : State) (n : SlotId) : Word :=
  let x := s.eph.slots[n]
  let parent := match x.parent with
    | some p => p.val
    | none => n.val
  word (slotStateCode x.state + fld (lifetimeCode x.lifetime) 4 + fld x.klen 6 + fld parent 8 + fld x.owner 16 + fld x.depth 20
    + fld (mask ((List.range 7).map fun i => x.engines.any fun e => engineBit e == i)) 24)

def astStateCode : AstState → Nat
  | .idle => 0
  | .running => 1
  | .wiping => 2
  | .faulted => 3

/-- AST_STATUS (R278). -/
def astStatusWord (s : State) : Word :=
  let a := s.ast
  word (b2n (astBusy a) + fld (astStateCode a.state) 1 + fld a.owner 8 + fld a.iter 16 + fld a.invFails 24)

/-- ALM_CMD_STATUS (R329). The full read of step 2 is a read too. -/
def almCmdStatus (s : State) : Word :=
  let a := s.alm
  word (b2n (a.busy.isSome || s.mer.step == .almanac) + fld (b2n a.resMarginal) 1 + fld a.status 8 + fld a.marginalWords.length 16)

/-- What Eyepiece reads of the security region in every state but SCRAP (R386). -/
def eyeSecurity (s : State) (o : Nat) : Option Word :=
  if s.mer.lc = .scrap ∧ !s.mer.lcMarginal then none
  else
    match o with
    | 0x840008 => some (astStatusWord s)
    | 0x840030 => some (word (s.ast.progVersion + fld (b2n s.ast.progLoaded) 16))
    | 0x850004 => some (almCmdStatus s)
    | _ => ((elem o 0x830000 8 256).bind (fin? 256)).map (slotAttr s)

/-- EPH_STATUS (R261). -/
def ephStatusWord (s : State) : Word :=
  let e := s.eph
  word (b2n (slotValid s 0) + fld (b2n (slotValid s 1)) 1 + fld (b2n e.tamper) 2 + fld (b2n e.drbgOk) 3
    + fld (e.slots.toList.filter fun x => x.state == .valid).length 8)

/-- Ephemeris's registers for Meridian (R261): OP, context and key are write-only. -/
def ephWord (s : State) (o : Nat) : Option Word :=
  let e := s.eph
  match (elem o 0 8 256).bind (fin? 256), (elem o 4 8 256).bind (fin? 256) with
  | some n, _ => some (slotAttr s n)
  | _, some n => some (if e.slots[n].lifetime = .counted then word e.slots[n].uses else 0)
  | _, _ =>
    match o with
    | 0x1000 => some 0
    | 0x1004 => some (word (e.engines.toNat + fld e.lifetime.toNat 8 + fld e.klen.toNat 10 + fld e.ctxLen 12))
    | 0x1008 => some e.usesReg
    | 0x100C => some (word (b2n e.busy + fld e.status 8))
    | 0x1010 => some (ephStatusWord s)
    | _ => if (elem o 0x1100 4 32).isSome || (elem o 0x1200 4 16).isSome then some 0 else none

/-- AST_RESULT_HDR: BUSY alone while Astrolabe is busy (R276, R278). -/
def astResultHdr (s : State) : Word :=
  let a := s.ast
  if astBusy a then 1 else word (fld a.resStatus 8 + fld a.resLength 16 + fld (b2n a.resVerdict) 29)

/-- AST_RESULT_w: the first 64 bytes of the result area, zero while Astrolabe is busy (R276, R278). -/
def astResultWord (s : State) (w : Nat) : Word := if astBusy s.ast then 0 else word (beNat (memBytes s.ast.mem (astResult + 4 * w) 4))

/-- Astrolabe's registers for Meridian (R278). -/
def astWord (s : State) (o : Nat) : Option Word :=
  let a := s.ast
  match o with
  | 0x00 => some 0
  | 0x04 => some (word (b2n a.argSeed + fld a.argLabel 4 + fld a.argSlot 8))
  | 0x08 => some (astStatusWord s)
  | 0x10 => some (astResultHdr s)
  | 0x20 => some (word a.dmaAddr)
  | 0x24 => some (word (fld (b2n a.dmaOut) 1 + fld (b2n a.dmaBoot) 2 + fld a.dmaLine 3 + fld a.dmaCount 16 + fld a.dmaOwner 25))
  | 0x28 => some (word (b2n a.dma.isSome + fld a.dmaStatus 8))
  | 0x30 => some (word (a.progVersion + fld (b2n a.progLoaded) 16))
  | _ => (elem o 0x40 4 16).map (astResultWord s)

/-- The Almanac controller's registers for Meridian (R329). -/
def almWord (s : State) (o : Nat) : Option Word :=
  match o with
  | 0x0 => some 0
  | 0x4 => some (almCmdStatus s)
  | 0x8 => some (word (s.alm.data.toNat % 2 ^ 32))
  | 0xC => some (word (s.alm.data.toNat / 2 ^ 32))
  | _ => none

/-- MER_MEAS_i_w and MER_MEAS_CNT_i of the attestation window (R231, R244, R429). -/
def measWord (s : State) (o : Nat) : Option Word :=
  (fin? 16 ((o - 0x810000) / 0x40)).map fun i =>
    let x := s.meas[i]
    let k := o % 0x40
    if k < 0x30 then word (beNat (slice x.value k 4)) else if k = 0x30 then word x.count else 0

/-- The Towpath mirror's channel at an address, of those that have a side of the System Port (R354). -/
def mirrorChan (s : State) (o : Nat) : Option ChanId :=
  if 0x860000 ≤ o ∧ o < 0x862000 then
    (fin? 32 ((o - 0x860000) / 0x100)).bind fun c =>
      let x := s.twp.chan[c]
      if x.valid && (hostMid x.sender || hostMid x.receiver) then some c else none
  else none

/-- What Meridian reads of the security region. -/
def merSecurity (s : State) (o : Nat) : Option Word :=
  if 0x810000 ≤ o ∧ o < 0x810400 then measWord s o
  else if 0x830000 ≤ o ∧ o < 0x840000 then ephWord s (o - 0x830000)
  else if 0x840000 ≤ o ∧ o < 0x850000 then astWord s (o - 0x840000)
  else if 0x850000 ≤ o ∧ o < 0x860000 then almWord s (o - 0x850000)
  else none

/-- What the System Port reads of the security region; elsewhere it reads zero (R216). -/
def hostSecurity (s : State) (mid o : Nat) : Option Word :=
  if 0x810000 ≤ o ∧ o < 0x810400 then measWord s o
  else (mirrorChan s o).bind fun c => chanWord s mid c (o % 0x100)

/-! ### The window -/

/-- The word that a master identity reads at a window offset; none where no register answers it. EYE_MEM_DATA is an access of
its own. -/
def regWord (s : State) (mid off : Nat) : Option Word :=
  if 0x800000 ≤ off then
    if hostMid mid then hostSecurity s mid off else if debugMid mid then eyeSecurity s off
    else if mid = 3 then merSecurity s off else none
  else if off < 0x10000 then glbWord s off
  else if off < 0x20000 then (fin? 9 ((off - 0x10000) / 0x1000)).bind fun r => hrgWord s r (off % 0x1000)
  else if off < 0x30000 then twpWord s mid (off - 0x20000)
  else if off < 0x40000 then sluWord s mid (off - 0x30000)
  else if off < 0x50000 then chrWord s mid (off - 0x40000)
  else if off < 0x60000 then colWord s mid (off - 0x50000)
  else if off < 0x70000 then (fin? 4 ((off - 0x60000) / 0x4000)).bind fun l => aqdWord s l (off % 0x4000)
  else if off < 0x80000 then eyeWord s mid (off - 0x70000)
  else if off < 0x100000 then (fin? 8 ((off - 0x80000) / 0x10000)).bind fun n => lkpWord s n (off % 0x10000)
  else if off < 0x200000 then bsnWord s (off - 0x100000)
  else if off < 0x300000 then (fin? 16 ((off - 0x200000) / 0x10000)).bind fun p => mptWord s p (off % 0x10000)
  else if 0x400000 ≤ off ∧ off < 0x620000 then (fin? 34 ((off - 0x400000) / 0x10000)).bind fun b => brgWord s mid b (off % 0x10000)
  else none

/-! ### Writes (R7 to R9, R214) -/

/-- An enumerated field with an unused code keeps its previous value, with a record (R214). -/
def encodingAudit (offset lsb width written applied mid : Nat) (s : State) : State :=
  audit { offset, lsb, written, applied, rule := AuditRule.encoding, mid, width } s

/-- Write of GLB_IRQ_ROUTE_s (R221). -/
def writeRoute (i : Fin 16) (mid : Nat) (data : Word) (s : State) : State :=
  let d := data.toNat
  let old := s.sys.route[i].mode
  let mode := bits d 0 2
  let s := s.onSys fun y => { y with route := upd y.route i fun x => { x with mode := if mode = 3 then x.mode else mode, line := bits d 2 3 } }
  if mode = 3 then encodingAudit (0x940 + 4 * i.val) 0 2 3 old mid s else s

/-- Write of a GLB_MSG register (R221). -/
def writeMsg (i : Fin 16) (k : Nat) (data : Word) (s : State) : State :=
  s.onSys fun y => { y with route := upd y.route i fun x =>
    match k with
    | 0 => { x with addrLo := data.toNat / 4 * 4 }
    | 4 => { x with addrHi := bits data.toNat 0 16 }
    | _ => { x with data } }

/-- Write of AQD_XCHG_CTL_r: locked while the channel is not CLOSED; LEN clamped; one that sets EN to 1 needs both areas below the
input area, and is refused whole otherwise: each field that it would have changed leaves a record (R206, R309). -/
def writeXchgCtl (l : LinkId) (r : Fin 8) (mid : Nat) (data : Word) (s : State) : State :=
  let c : Fin 9 := ⟨r.val, by omega⟩
  if s.link[l].chan[c].state ≠ .closed then s
  else
    let x := s.link[l].xchg[r]
    let off := 0x60000 + 0x4000 * l.val + 0x100 + 0x10 * r.val
    let z := bits data.toNat 16 14
    let len := max 1 (min 8192 z)
    let en := bit data.toNat 0
    let room := inputAreaOff s (svcOf r)
    if en ∧ (room < x.tx + 128 * len ∨ room < x.rx + 128 * len) then
      let s := if x.len = z then s else
        audit { offset := off, lsb := 16, written := z, applied := x.len, rule := AuditRule.state, mid, width := 14 } s
      audit { offset := off, lsb := 0, written := 1, applied := b2n x.en, rule := AuditRule.state, mid, width := 1 } s
    else
      let s := s.onLink l fun k => { k with xchg := upd k.xchg r fun y => { y with en, len } }
      if z = len then s else audit { offset := off, lsb := 16, written := z, applied := len, rule := AuditRule.range, mid, width := 14 } s

/-- Write of AQD_XCHG_TX_r or AQD_XCHG_RX_r. -/
def writeXchgArea (l : LinkId) (r : Fin 8) (rx : Bool) (data : Word) (s : State) : State :=
  let c : Fin 9 := ⟨r.val, by omega⟩
  if s.link[l].chan[c].state ≠ .closed then s
  else
    let v := bits data.toNat 7 17 * 128
    s.onLink l fun k => { k with xchg := upd k.xchg r fun y => if rx then { y with rx := v } else { y with tx := v } }

/-- The next state of a meaning that always answers one. -/
def nextOf (o : Out) (s : State) : State :=
  match o with
  | .next t => t
  | _ => s

/-- Write of a channel window's register (R349, R350). -/
def writeChan (mid : Nat) (c : ChanId) (o : Nat) (data : Word) (s : State) : State :=
  match (elem o 0 4 16).bind (fin? 16) with
  | some w => nextOf (execTwpMsgWrite mid c w data s) s
  | none =>
    if o = 0x40 then
      let s := if data.getLsbD 0 then nextOf (execSend mid c s) s else s
      if data.getLsbD 1 then nextOf (execTaken mid c s) s else s
    else s

/-- Write of an endpoint's register: its own identity only (R352). -/
def writeEndpoint (mid : Nat) (e : Fin 13) (k : Nat) (data : Word) (s : State) : State :=
  if mid ≠ e.val then s
  else
    match k with
    | 0x0 => nextOf (execTwpDbClear mid e data s) s
    | 0x4 => twpIrq e.val (onEndpoint e.val (fun x => { x with dbMask := data }) s)
    | 0x8 => nextOf (execTwpEmptyClear mid e data s) s
    | _ => twpIrq e.val (onEndpoint e.val (fun x => { x with emptyMask := data }) s)

def writeTwp (mid o : Nat) (data : Word) (s : State) : State :=
  if o < 0x2000 then
    match fin? 32 (o / 0x100) with
    | some c => writeChan mid c (o % 0x100) data s
    | none => s
  else
    match (elem o 0x2000 4 32).bind (fin? 32) with
    | some c => nextOf (execTwpBindWrite mid c data s) s
    | none =>
      if o = 0x2080 then (if data.getLsbD 0 then nextOf (execTwpLock mid s) s else s)
      else if 0x3000 ≤ o then
        match fin? 13 ((o - 0x3000) / 0x10) with
        | some e => writeEndpoint mid e ((o - 0x3000) % 0x10) data s
        | none => s
      else s

/-- Write of an HRG register by the System Port. -/
def writeHrg (r : SvcId) (o mid : Nat) (data : Word) (s : State) : State :=
  match o with
  | 0x00 => writeRingBase r .sq0 false data s
  | 0x04 => writeRingBase r .sq0 true data s
  | 0x08 => writeRingCtl r .sq0 mid data s
  | 0x0C => writeDoorbell r 0 mid data s
  | 0x20 => writeRingBase r .sq1 false data s
  | 0x24 => writeRingBase r .sq1 true data s
  | 0x28 => writeRingCtl r .sq1 mid data s
  | 0x2C => writeDoorbell r 1 mid data s
  | 0x40 => writeRingBase r .cq false data s
  | 0x44 => writeRingBase r .cq true data s
  | 0x48 => writeRingCtl r .cq mid data s
  | 0x4C => writeCqHead r mid data s
  | _ => s

/-! ### Eyepiece's accesses (R381 to R386, R391, R392) -/

/-- A reach is at OPEN, the Dredge of R383 over. -/
def openNow (s : State) (n : ReachId) : Bool :=
  s.reach[n].debug == .opened && s.reach[n].dredge == .none && s.reach[n].state != .dredging

/-- The barge whose scratchpad EYE_MEM shows. -/
def eyeBarge (s : State) : Option BargeId :=
  match fin? 8 s.eye.memReach with
  | some n => if s.slu.reach[n].dozing then none else bargeAt s (svcOf n) s.eye.memLogical
  | none => none

/-- EYE_MEM serves the word at ADDR now (R383, R389). -/
def eyeMemOk (s : State) : Bool :=
  match fin? 8 s.eye.memReach with
  | none => false
  | some n =>
    openNow s n && s.slu.state != .keep && s.slu.state != .off &&
    match s.eye.memTarget with
    | 0 => (eyeBarge s).isSome && decide (s.eye.memAddr + 4 ≤ spadBytes)
    | 1 => decide (s.eye.memAddr + 4 ≤ shareSize s (svcOf n))
    | _ => decide (s.eye.memAddr + 4 ≤ 65536)

/-- The word at ADDR, when it is delivered: a unit may refuse the access, and an error in it may not be corrected (R90, R134,
R135). -/
def eyeMemRead (s : State) : Option Word × State :=
  let a := s.eye.memAddr
  match fin? 8 s.eye.memReach with
  | none => (none, s)
  | some n =>
    match s.eye.memTarget with
    | 0 =>
      match eyeBarge s with
      | some b =>
        let (ok, t) := readSpad b a 4 s
        (if ok then some (word (leNat (memBytes s.barge[b].spad a 4))) else none, t)
      | none => (none, s)
    | 1 =>
      if refusingUnits s (svcOf n) a 4 = [] then
        let (ok, t) := readShare (svcOf n) a 4 s
        (if ok then some (word (leNat (shareGet s (svcOf n) a 4))) else none, t)
      else (none, s)
    | _ => (some (word (leNat (memBytes s.keeper[svcOf n].mem a 4))), s)

/-- Write the word at ADDR: half of a word with check bits, whose other half is read first. -/
def eyeMemWrite (data : Word) (s : State) : Bool × State :=
  let v := leBytes 4 data.toNat
  let (w, s) := eyeMemRead s
  if w.isNone then (false, s)
  else
    match fin? 8 s.eye.memReach with
    | none => (false, s)
    | some n =>
      (true, match s.eye.memTarget with
        | 0 => match eyeBarge s with
          | some b => s.onBarge b fun g => g.write s.eye.memAddr v
          | none => s
        | 1 => sharePut s (svcOf n) s.eye.memAddr v
        | _ => s.onKeeper (svcOf n) fun k => { k with mem := memPut k.mem s.eye.memAddr v })

/-- Record whether the last access was refused. -/
def setErr (refused : Bool) (s : State) : State := s.onEye fun e => { e with err := refused }

/-- An access to EYE_MEM_DATA: the word read, whether it was refused, and the state after it; ADDR advances (R392). -/
def eyeMemAccess (write : Bool) (data : Word) (s : State) : Word × Bool × State :=
  let next := (s.eye.memAddr + 4) % 2 ^ 24
  let (w, ok, s) :=
    if !eyeMemOk s then (0, false, s)
    else if write then ((0 : Word), eyeMemWrite data s)
    else ((eyeMemRead s).1.getD 0, (eyeMemRead s).1.isSome, (eyeMemRead s).2)
  (w, !ok, setErr (!ok) (s.onEye fun e => { e with memAddr := next }))

/-- A core may be halted and stepped (R381, R383, R386). -/
def coreVisible (s : State) (t : Nat) : Bool :=
  let lc := fun (x : Lc) => s.mer.lc == x && !s.mer.lcMarginal
  if t = 0xE then lc .test || lc .blank
  else match fin? 8 t with
    | some n => !lc .scrap && !lc .blank && (lc .test || openNow s n)
    | none => false

/-- Halt or resume a core. -/
def setHalt (t : Nat) (on : Bool) (s : State) : State :=
  if t = 0xE then s.onMer fun m => { m with halted := on }
  else match fin? 8 t with
    | some n => s.onKeeper (svcOf n) fun k => { k with dbgHalted := on }
    | none => s

/-- TARGET codes of EYE_CORE_CTL. -/
def coreTargetOk (t : Nat) : Bool := decide (t < 8) || t == 0xE

/-- Write of EYE_CORE_CTL: TARGET, then HALT and STEP judged for that core; whether the access was refused. A step runs one
instruction of the core's firmware, which is no interface of the block. -/
def coreCtl (mid t : Nat) (halt step : Bool) (s : State) : Bool × State :=
  let old := s.eye.coreTarget
  let (t, s) := if coreTargetOk t then (t, s.onEye fun e => { e with coreTarget := t })
    else (old, encodingAudit 0x70040 0 4 t old mid s)
  let refused := !coreVisible s t || (step && !(coreHalted s t && halt))
  if refused then (true, setErr true s)
  else (false, setErr false (setHalt t halt (s.onEye fun e => { e with haltBit := halt })))

/-- Write of an EYE register by the operator or Eyepiece: whether it was refused. -/
def writeEye (o mid : Nat) (data : Word) (s : State) : Bool × State :=
  let d := data.toNat
  match o with
  | 0x10 => (false, s.onEye fun e =>
      { e with reachEn := BitVec.ofNat 8 d, sluEn := bit d 8, merEn := bit d 9, freeze := bit d 10 })
  | 0x18 => (false, s.onEye fun e => { e with traceIdx := d % 2048 })
  | 0x30 =>
    let old := s.eye.memTarget
    let s := s.onEye fun e =>
      { e with memTarget := if d % 4 = 3 then e.memTarget else d % 4, memReach := bits d 2 3, memLogical := bits d 5 5 }
    (false, if d % 4 = 3 then encodingAudit 0x70030 0 2 3 old mid s else s)
  | 0x34 => (false, s.onEye fun e => { e with memAddr := bits d 2 22 * 4 })
  | 0x38 =>
    let r := eyeMemAccess true data s
    (r.2.1, r.2.2)
  | 0x40 => coreCtl mid (bits d 0 4) (bit d 4) (bit d 5) s
  | _ => (false, s)

/-- A write at a window offset, and whether the path refused it as a whole (R9): every field of the register is judged on its
own, and a register that does not accept the writer ignores it (R214). -/
def writeReg (mid off : Nat) (data : Word) (s : State) : Bool × State :=
  let lost : Bool × State := (true, auditAccess off data.toNat mid s)
  if 0x800000 ≤ off then
    match (if hostMid mid then mirrorChan s off else none) with
    | some c => if (chanWord s mid c (off % 0x100)).isSome then (false, writeChan mid c (off % 0x100) data s) else lost
    | none => lost
  else if 0x70000 ≤ off ∧ off < 0x80000 then
    if (eyeWord s mid (off - 0x70000)).isNone then lost
    else if debugMid mid then writeEye (off - 0x70000) mid data s
    else if off = 0x70000 ∨ off = 0x70004 then (false, s)
    else lost
  else if (regWord s mid off).isNone then lost
  else if 0x20000 ≤ off ∧ off < 0x30000 then (false, writeTwp mid (off - 0x20000) data s)
  else if 0x40000 ≤ off ∧ off < 0x42000 then
    (false, match fin? 71 ((off - 0x40000) / 0x40), fin? 8 (off % 0x40 / 4) with
      | some u, some k => if (readerClass mid).isSome then writeChrCfg mid u k data s else s
      | _, _ => s)
  else if 0x42000 ≤ off ∧ off < 0x50000 then
    (false, match (elem off 0x42000 0x20 4).bind (fin? 4) with
      | some m => if readerClass mid = some m then writeSnapSel mid m data s else s
      | none => s)
  else if !hostMid mid then (false, s)
  else if off < 0x10000 then
    (false,
      if off = 0x900 then clearPend data s
      else
        match (elem off 0x940 4 16).bind (fin? 16), fin? 16 ((off - 0xA00) / 16) with
        | some i, _ => writeRoute i mid data s
        | none, some i => if 0xA00 ≤ off ∧ off < 0xB00 then writeMsg i ((off - 0xA00) % 16) data s else s
        | none, none => s)
  else if off < 0x20000 then
    (false, match fin? 9 ((off - 0x10000) / 0x1000) with
      | some r => writeHrg r (off % 0x1000) mid data s
      | none => s)
  else if 0x60000 ≤ off ∧ off < 0x70000 then
    (false, match fin? 4 ((off - 0x60000) / 0x4000), fin? 8 ((off % 0x4000 - 0x100) / 0x10) with
      | some l, some r =>
        if off % 0x4000 < 0x100 then s
        else
          match off % 0x10 with
          | 0x0 => writeXchgCtl l r mid data s
          | 0x4 => writeXchgArea l r false data s
          | 0x8 => writeXchgArea l r true data s
          | _ => s
      | _, _ => s)
  else if 0x80000 ≤ off ∧ off < 0x100000 then
    (false, match fin? 8 ((off - 0x80000) / 0x10000), fin? 16 ((off % 0x10000 - 0x100) / 8) with
      | some n, some c =>
        let o := off % 0x10000
        if o < 0x100 ∨ 0x180 ≤ o then s else if o % 8 = 0 then writeTollCfg n c mid 0 data s else writeTollCap n c data s
      | _, _ => s)
  else (false, s)

/-! ### Accesses of Eyepiece and the operator to the window (R387 to R391) -/

/-- The access is to a barge's counters of a reach that is being Dredged or dozes (R389, R391). -/
def dredgedAccess (s : State) (off : Nat) : Bool :=
  if 0x400000 ≤ off ∧ off < 0x620000 ∧ 0x100 ≤ off % 0x10000 then
    match fin? 34 ((off - 0x400000) / 0x10000) with
    | some b => match fin? 8 s.barge[b].reach with
      | some n => s.reach[n].state == .dredging || s.slu.reach[n].dozing
      | none => false
    | none => false
  else false

/-- One 4-byte access at a window offset: whether it was refused, the word read, and the state after it. -/
def winAccess (mid : Nat) (write : Bool) (off : Nat) (data : Word) (s : State) : Bool × Word × State :=
  if off % 4 ≠ 0 ∨ dredgedAccess s off then (true, 0, setErr true (if write then auditAccess off data.toNat mid s else s))
  else if off = 0x70038 then
    let r := eyeMemAccess write data s
    (r.2.1, r.1, r.2.2)
  else if write then
    let r := writeReg mid off data s
    (r.1, 0, setErr r.1 r.2)
  else
    match regWord s mid off with
    | some w => (false, w, setErr false s)
    | none => (decide (0x800000 ≤ off), 0, setErr (decide (0x800000 ≤ off)) s)

end Sys2Proof.Machine
end

