-- ==== Sys2Proof/Machine/Eyepiece.lean ====
section
/-! DEFINITION. The accesses of the operator and of Eyepiece (R381 to R392). -/

namespace Sys2Proof.Machine

/-- Size of the configuration window in bytes. -/
def winSize : Nat := 0x1000000

/-- Read consecutive window words as the operator, each judged alone. -/
def winWords : Nat → Nat → State → Bytes × State
  | 0, _, s => ([], s)
  | n + 1, off, s =>
    let r := winAccess 2 false off 0 s
    let rest := winWords n (off + 4) r.2.2
    (leBytes 4 r.2.1.toNat ++ rest.1, rest.2)

/-- WIN_READ (R390). -/
def execWinRead (offset count : Nat) (s : State) : Out :=
  .next (operator "WIN_READ" (fun s =>
    if count = 0 ∨ 64 < count ∨ winSize < offset + 4 * count then refuseMgmt "WIN_READ" Code.badDescriptor s
    else
      let r := winWords count offset s
      answer Code.done r.1 r.2) s)

/-- WIN_WRITE (R390). -/
def execWinWrite (offset : Nat) (value : Word) (s : State) : Out :=
  .next (operator "WIN_WRITE" (fun s =>
    if winSize < offset + 4 then refuseMgmt "WIN_WRITE" Code.badDescriptor s
    else
      let r := winAccess 2 true offset value s
      if r.1 then refuseMgmt "WIN_WRITE" Code.badState r.2.2 else answer Code.done [] r.2.2) s)

/-- A write of an EYE register by the operator or by Eyepiece arrives: the operator's while a session of his is open, the TAP's
while it is unlocked (R378, R388). -/
def eyeReachable (s : State) (mid : Nat) : Bool :=
  (mid == 2 && sessionOpen s) || (mid == 0xD && s.eye.tapUnlocked)

/-- An access to an EYE register: the System Port's is ignored with an ACCESS record, one that cannot arrive is refused with ERR. -/
def eyeAccess (what : String) (mid off : Nat) (written : Word) (f : State → State) (s : State) : State :=
  if !mgmtUp s then refuse what Code.badState s
  else if hostMid mid then auditAccess off written.toNat mid s
  else if !debugMid mid then refuse what Code.badDescriptor s
  else if !eyeReachable s mid then refuse what Code.badState (setErr true s)
  else f s

/-- EYE_MEM_DATA: read or write the word at ADDR; ADDR advances (R392). The System Port reads zero. -/
def execEyeMemData (mid : Nat) (write : Bool) (data : Word) (s : State) : Out :=
  let off := 0x70038
  if mgmtUp s && hostMid mid && !write then .next (emit (.regRead mid off 0) s)
  else
    .next (eyeAccess "EYE_MEM_DATA" mid off data (fun s =>
      let r := eyeMemAccess write data s
      if write then r.2.2 else emit (.regRead mid off r.1) r.2.2) s)

/-- The word of EYE_CORE_CTL with these fields. -/
def coreCtlWord (t : Nat) (halt step : Bool) : Word := word (t % 16 + fld (b2n halt) 4 + fld (b2n step) 5)

/-- HALT: EYE_CORE_CTL.TARGET and HALT (R392). -/
def execHalt (mid : Nat) (target : Nat) (on : Bool) (s : State) : Out :=
  .next (eyeAccess "HALT" mid 0x70040 (coreCtlWord target on false) (fun s => (coreCtl mid target on false s).2) s)

/-- STEP: EYE_CORE_CTL.STEP, with HALT written as it stands (R392). -/
def execStep (mid : Nat) (target : Nat) (s : State) : Out :=
  let halt := s.eye.haltBit
  .next (eyeAccess "STEP" mid 0x70040 (coreCtlWord target halt true) (fun s => (coreCtl mid target halt true s).2) s)

/-- WIN_UPDATE: Update-DR on WIN starts an access, ignored when the scan's capture found the previous one not complete (R387). -/
def execWinUpdate (write : Bool) (offset : BitVec 24) (data : Word) (s : State) : Out :=
  if !mgmtUp s then .next (refuse "WIN_UPDATE" Code.badState s)
  else if s.eye.win.isSome || !s.eye.winDone then .next s
  else .next (s.onEye fun e => { e with win := some { write, offset := offset.toNat, data } })

/-- WIN_CAPTURE: Capture-DR on WIN (R387). -/
def execWinCapture (s : State) : Out :=
  if !mgmtUp s then .next (refuse "WIN_CAPTURE" Code.badState s)
  else if s.eye.win.isSome then .next (emit (.tap false false 0) (s.onEye fun e => { e with winDone := false }))
  else .next (emit (.tap true s.eye.winErr s.eye.winData) (s.onEye fun e => { e with winDone := true }))

/-- The TAP's access is answered: it is unlocked, and in KEEP only the EYE registers answer (R388, R389). -/
def tapServes (s : State) (off : Nat) : Bool :=
  s.eye.tapUnlocked && (s.slu.state != .keep || (decide (0x70000 ≤ off) && decide (off < 0x80000)))

/-- WIN_ACCESS_DONE: the access is performed as master identity 0x0D and completes (R387, R388). -/
def execWinAccessDone (s : State) : Out :=
  if !mgmtUp s then .next (refuse "WIN_ACCESS_DONE" Code.badState s)
  else
    match s.eye.win with
    | none => .next (refuse "WIN_ACCESS_DONE" Code.badState s)
    | some w =>
      let r := if tapServes s w.offset then winAccess 0xD w.write w.offset w.data s else (true, 0, setErr true s)
      .next (r.2.2.onEye fun e => { e with win := none, winErr := r.1, winData := if r.1 || w.write then 0 else r.2.1 })

end Sys2Proof.Machine
end

