-- ==== Sys2Proof/Machine/MemPort.lean ====
section
/-! DEFINITION. Meanings of the memory-port commands (R140, R144 to R148, R413). -/

namespace Sys2Proof.Machine

/-- MPT_CREDIT_GRANT: at most 64 unused credits of a kind are counted; the first make the controller ready (R162, R225, R413). -/
def execMptCreditGrant (p : PortId) (kind : Rw) (s : State) : Out :=
  if !portUp s p then .next (refuse "MPT_CREDIT_GRANT" Code.badState s)
  else
    .next (checkWait (s.onPort p fun x =>
      match kind with
      | .rd => { x with ctrlReady := true, rdCredits := min 64 (x.rdCredits + 1) }
      | .wr => { x with ctrlReady := true, wrCredits := min 64 (x.wrCredits + 1) }))

/-- WHEEL_SLOT: the next slot of a port's wheel (R146 to R148). -/
def execWheelSlot (p : PortId) (s : State) : Out :=
  if portUp s p then .next (wheelSlot p s) else .next (refuse "WHEEL_SLOT" Code.badState s)

/-- MPT_READ_RESPONSE. -/
def execMptReadResponse (p : PortId) (tag : Nat) (status : BitVec 2) (data : Bytes) (s : State) : Out :=
  if portUp s p then .next (readAnswer p tag status data s) else .next (refuse "MPT_READ_RESPONSE" Code.badState s)

/-- MPT_WRITE_ACK. -/
def execMptWriteAck (p : PortId) (tag : Nat) (status : BitVec 2) (s : State) : Out :=
  if portUp s p then .next (writeAnswer p tag status s) else .next (refuse "MPT_WRITE_ACK" Code.badState s)

/-- MPT_READ_TIMEOUT: 2^20 port cycles without a response; the tag stays out of the quota (R145). -/
def execMptReadTimeout (p : PortId) (tag : Nat) (s : State) : Out :=
  match findMem s p .rd tag with
  | none => .next (refuse "MPT_READ_TIMEOUT" Code.badState s)
  | some t =>
    if !portUp s p || t.answered || t.lost then .next (refuse "MPT_READ_TIMEOUT" Code.badState s)
    else
      let s := setMem p .rd tag (fun x => { x with lost := true }) (s.onPort p fun x => { x with timeout := satInc 8 x.timeout })
      .next (if t.discard then s else readLost p t 1 s)

/-- LATENCY_LEVEL_RELEASE: LAT_LEVEL port cycles after issue (R144). -/
def execLatencyLevelRelease (p : PortId) (kind : Rw) (tag : Nat) (s : State) : Out :=
  match findMem s p kind tag with
  | none => .next (refuse "LATENCY_LEVEL_RELEASE" Code.badState s)
  | some t =>
    if !portUp s p || t.due then .next (refuse "LATENCY_LEVEL_RELEASE" Code.badState s)
    else if t.req.block.isSome then
      .next (checkBlock p tag false (setMem p kind tag (fun x => { x with due := true }) s))
    else if t.answered then
      let s := dropMem p kind tag s
      .next (if t.discard then s else match kind with
        | .rd => deliverRead t s
        | .wr => deliverWrite t s)
    else .next (setMem p kind tag (fun x => { x with due := true }) s)

end Sys2Proof.Machine
end

