-- ==== Sys2Proof/Machine/PackageOps.lean ====
section
/-! DEFINITION. The Dorca package (R124 to R126), the load check of R128 over the plaintext released so far, and the placing and
writing of its regions (R125, R152, R154, R156). -/

namespace Sys2Proof.Machine

/-! ### Header and directory (R124, R125) -/

/-- What a package is checked against (R128, R232): flights, share, window and microcode of the service it is loaded for. -/
structure LoadCtx where
  flights : Nat
  share : Nat
  window : Nat
  mcode : Nat
  /-- Twilight admits no matrix operand but INT8 (R232). -/
  int8 : Bool
  deriving DecidableEq, Repr

def pkgFlights (img : Bytes) : Nat := leAt img 0xA 1
def pkgBasin (img : Bytes) : Nat := leAt img 0xC 4
def nSections (img : Bytes) : Nat := leAt img 0x10 2
def nRegions (img : Bytes) : Nat := leAt img 0x12 2
def nBuckets (img : Bytes) : Nat := leAt img 0x14 2
def nLayers (img : Bytes) : Nat := leAt img 0x16 2

/-- End of the directory. -/
def dirEnd (img : Bytes) : Nat := 0x100 + 32 * nSections img

/-- A field in a range. -/
def within (lo hi n : Nat) : Bool := decide (lo ≤ n) && decide (n ≤ hi)

/-- Every byte of a field is zero. -/
def zerosAt (img : Bytes) (off n : Nat) : Bool := (slice img off n).all (· == 0)

/-- Rows Header, Target and the first part of Size of reach (R124, R128, R177, R185, R206). -/
def headerOk (c : LoadCtx) (img : Bytes) : Bool :=
  slice img 0 4 == [0x44, 0x4F, 0x52, 0x43] && leAt img 4 2 == 2 && leAt img 6 2 == 0x0204 && decide (leAt img 8 2 ≤ c.mcode)
    && within 1 8 (pkgFlights img) && within 0x13 0x16 (leAt img 0xB 1) && within 1 80 (nSections img)
    && within 1 64 (nRegions img) && within 1 64 (nBuckets img) && within 1 4096 (nLayers img) && zerosAt img 0x20 224
    && decide (c.flights ≤ pkgFlights img) && decide (pkgBasin img + 32768 * c.flights + 32768 + 229376 ≤ c.share)

/-- The directory. -/
def sectionsOf (img : Bytes) : List Section :=
  (List.range (nSections img)).map fun i =>
    let o := 0x100 + 32 * i
    { typ := leAt img o 2, region := leAt img (o + 2) 1, offset := leAt img (o + 8) 8, size := leAt img (o + 16) 8 }

def Section.stop (x : Section) : Nat := x.offset + x.size

/-- The plaintext of a section has been released whole. -/
def Section.whole (x : Section) (img : Bytes) : Bool := decide (x.stop ≤ img.length)

def Section.bytes (x : Section) (img : Bytes) : Bytes := slice img x.offset x.size

/-- A section that holds a program image or a descriptor table. -/
def Section.code (x : Section) : Bool := x.typ == 5 || x.typ == 6

/-- Offset within region 0 of each section, each program image and descriptor table on a 256-byte boundary (R125). -/
def codeOffsets : List Section → Nat → List Nat
  | [], _ => []
  | x :: l, o => if x.code then o :: codeOffsets l (ceilDiv (o + x.size) 256 * 256) else 0 :: codeOffsets l o

/-- Bytes of region 0: the total of its sections, rounded up to 4 KiB (R125). -/
def codeSize (l : List Section) : Nat :=
  ceilDiv (l.foldl (fun o x => if x.code then ceilDiv o 256 * 256 + x.size else o) 0) 4096 * 4096

/-- The one section of a type. -/
def sectionOf (img : Bytes) (typ : Nat) : Option Section := (sectionsOf img).find? fun x => x.typ == typ

/-- Rows of the schedule table: 4F(4F + 1)/2. -/
def nScheds (img : Bytes) : Nat := 4 * pkgFlights img * (4 * pkgFlights img + 1) / 2

/-- A directory entry on its own (R124, R125). -/
def entryOk (img : Bytes) (i : Nat) (x : Section) : Bool :=
  let o := 0x100 + 32 * i
  zerosAt img (o + 3) 5 && zerosAt img (o + 24) 8 && (x.size == 0 || decide (dirEnd img ≤ x.offset)) &&
  match x.typ with
  | 1 => x.size == 16 * nRegions img
  | 2 => x.size == 16 * nBuckets img
  | 3 => x.size == 16 * nLayers img
  | 4 => x.size == 16 * nScheds img
  | 5 => x.region == 0 && x.size % 8 == 0 && decide (x.size ≤ 8 * 12288)
  | 6 => x.region == 0 && x.size == 64 * 256
  | 7 => within 1 (nRegions img) x.region
  | _ => false

/-- Two sections share a byte. -/
def Section.meets (x y : Section) : Bool :=
  decide (x.offset < y.stop) && decide (y.offset < x.stop) && x.size != 0 && y.size != 0

/-- No two of a list of sections overlap. -/
def disjoint : List Section → Bool
  | [] => true
  | x :: l => l.all (fun y => !x.meets y) && disjoint l

/-- The directory, once it has been released: overlaps, and the tables ahead of every other section (R128, R157). -/
def directoryOk (img : Bytes) : Bool :=
  let l := sectionsOf img
  (l.mapIdx fun i x => entryOk img i x).all id && disjoint l
    && l.all (fun x => !within 1 4 x.typ || l.all fun y => within 1 4 y.typ || y.size == 0 || decide (x.offset ≤ y.offset))

/-- Sections missing, duplicated or beyond the image, judged on the chunk with LAST; the image ends with its last section
(R125, R128, R157). -/
def wholeOk (img : Bytes) : Bool :=
  let l := sectionsOf img
  let count := fun t => (l.filter fun x => x.typ == t).length
  count 1 == 1 && count 2 == 1 && count 3 == 1 && count 4 == 1
    && (List.range (nRegions img)).all (fun i => (l.filter fun x => x.typ == 7 && x.region == i + 1).length == 1)
    && l.foldl (fun m x => max m x.stop) (dirEnd img) == img.length

/-! ### Tables (R125, R126, R156) -/

/-- Regions 0 to N_REGIONS as kind and size. -/
def regionSizes (img : Bytes) : List (Bool × Nat) :=
  match sectionOf img 1 with
  | none => []
  | some x =>
    (true, codeSize (sectionsOf img)) :: (List.range (nRegions img)).map fun i =>
      (leAt img (x.offset + 16 * i) 1 == 0, leAt img (x.offset + 16 * i + 8) 8)

/-- Place regions from an address: each on a 4 KiB boundary, a weight region followed by its tag array (R154, R156). -/
def placeRegions : List (Bool × Nat) → Nat → List Region × Nat
  | [], a => ([], a)
  | (weight, size) :: l, a =>
    let base := ceilDiv a 4096 * 4096
    let stop := base + size
    let (rs, stop') := placeRegions l (if weight then stop + ceilDiv (ceilDiv size 32) 4096 * 4096 else stop)
    ({ weight, base, size, tagBase := stop } :: rs, stop')

/-- The region table, its regions in the window, and the size of each region's data section (R125, R128). -/
def regionTableOk (c : LoadCtx) (img : Bytes) (x : Section) : Bool :=
  let sizes := regionSizes img
  (List.range (nRegions img)).all (fun i =>
    let o := x.offset + 16 * i
    let size := leAt img (o + 8) 8
    decide (leAt img o 1 ≤ 1) && zerosAt img (o + 1) 7 && (leAt img o 1 != 0 || size % 256 == 0)
      && (sectionsOf img).all fun y => y.typ != 7 || y.region != i + 1 || y.size == size || (leAt img o 1 == 1 && y.size == 0))
    && decide ((placeRegions sizes 0).2 ≤ c.window)

/-- CONTEXT of each layer. -/
def layerContexts (img : Bytes) (x : Section) : List Nat := (List.range (nLayers img)).map fun i => leAt img (x.offset + 16 * i + 6) 2

/-- One entry of the layer table (R87, R125, R128). -/
def layerOk (img : Bytes) (o : Nat) : Bool :=
  let kind := leAt img o 1
  let experts := leAt img (o + 1) 1
  let head := leAt img (o + 2) 2
  let context := leAt img (o + 6) 2
  within 1 0xA kind && decide (leAt img (o + 4) 2 ≤ 8192) && decide (context ≤ 8192) && zerosAt img (o + 8) 8
    && (if kind = 3 then (head == 64 || head == 128) && context != 0 else head == 0)
    && (if kind = 8 then within 1 8 experts else experts == 0)

def layersOk (img : Bytes) (x : Section) : Bool := (List.range (nLayers img)).all fun i => layerOk img (x.offset + 16 * i)

/-- The bucket table (R126). -/
def bucketsOf (img : Bytes) (x : Section) : List Bucket :=
  (List.range (nBuckets img)).map fun i =>
    let o := x.offset + 16 * i
    { maxPatches := leAt img o 2, maxPrompt := leAt img (o + 2) 2, maxContext := leAt img (o + 4) 2, maxNew := leAt img (o + 6) 2
      maxRows := leAt img (o + 8) 2, chunk := leAt img (o + 10) 2, patch := leAt img (o + 12) 1 }

/-- The bucket table on its own (R126, R180). -/
def bucketsOk (img : Bytes) (x : Section) : Bool :=
  (bucketsOf img x).all (fun b => within 1 256 b.maxRows && within 1 b.maxRows b.chunk && decide (b.maxContext ≤ 8192)
      && (b.patch == 14 || b.patch == 16))
    && (List.range (nBuckets img)).all fun i => zerosAt img (x.offset + 16 * i + 13) 3

/-- MAX_CONTEXT against the nonzero CONTEXT of every layer (R126). -/
def contextsOk (img : Bytes) (buckets layers : Section) : Bool :=
  (bucketsOf img buckets).all fun b => (layerContexts img layers).all fun c => c == 0 || decide (b.maxContext ≤ c)

/-- The schedule table (R125). -/
def schedsOf (img : Bytes) (x : Section) : List Sched :=
  (List.range (nScheds img)).map fun i =>
    let o := x.offset + 16 * i
    { progSection := leAt img o 2, descSection := leAt img (o + 2) 2, init := leAt img (o + 4) 2, step := leAt img (o + 6) 2
      resume := leAt img (o + 8) 2, progLen := leAt img (o + 10) 2 }

/-- A schedule entry names a program image and a descriptor table, its entry points inside the program, and the program inside
the image (R125, R128). -/
def schedOk (img : Bytes) (x : Sched) : Bool :=
  let l := sectionsOf img
  (match l[x.progSection]?, l[x.descSection]? with
    | some p, some d => p.typ == 5 && d.typ == 6 && decide (8 * x.progLen ≤ p.size)
    | _, _ => false)
    && decide (x.init < x.progLen) && decide (x.step < x.progLen) && decide (x.resume < x.progLen)

def schedTableOk (img : Bytes) (x : Section) : Bool :=
  (schedsOf img x).all (schedOk img) && (List.range (nScheds img)).all fun i => zerosAt img (x.offset + 16 * i + 12) 4

/-! ### Descriptors (R50, R51, R57, R59, R73, R74, R111, R112) -/

/-- Formats that permit the block-scaled flag. -/
def scalable (fmt : Nat) : Bool := fmt == 0 || within 3 7 fmt

/-- Elements stored in a row of `n` logical elements. -/
def storedRow (d : Desc) : Nat := if d.sp then d.dim0 / 2 else d.dim0

/-- Bytes of a descriptor's space: data area, share, or region. -/
def spaceSize (c : LoadCtx) (sizes : List (Bool × Nat)) (d : Desc) : Nat :=
  match d.space with
  | 0 => dataBytes
  | 1 => c.share
  | _ => (sizes[d.region]?.map (·.2)).getD 0

/-- End of each plane of a tensor at origin zero. -/
def extents (d : Desc) : List Nat :=
  let rows := d.dim1 * d.dim2 * d.dim3
  [d.base + (d.dim1 - 1) * d.stride1 + (d.dim2 - 1) * d.stride2 + (d.dim3 - 1) * d.stride3
    + ceilDiv (fmtBits d.fmt * storedRow d) 8]
  ++ (if d.bs then [d.scaleBase + d.dim0 / 32 * rows] else [])
  ++ (if d.sp then [d.metaBase + d.dim0 / 8 * rows] else [])

/-- One descriptor of a table. -/
def descOk (c : LoadCtx) (sizes : List (Bool × Nat)) (b : Bytes) : Bool :=
  let d := descOf b
  leAt b 13 1 < 128 && leAt b 14 1 < 8 && zerosAt b 15 1 && zerosAt b 36 12 && zerosAt b 56 8
    && decide (d.space ≤ 2) && (d.space == 2 || d.region == 0) && (d.space != 2 || decide (d.region < sizes.length))
    && decide (d.fmt ≤ 0xA) && (!d.bs || (scalable d.fmt && d.dim0 % 32 == 0))
    && (!d.sp || (isNarrow d.fmt && d.dim0 % 8 == 0))
    && (fmtBits d.fmt != 6 || d.dim0 % 4 == 0) && (fmtBits d.fmt != 4 || d.dim0 % 2 == 0)
    && d.dim0 != 0 && d.dim1 != 0 && d.dim2 != 0 && d.dim3 != 0
    && (if d.part then within 1 5 d.pdepth && d.fmt == 0xA && decide (d.space ≤ 1) && d.dim3 == 2 ^ d.pdepth else d.pdepth == 0)
    && (extents d).all fun e => decide (e ≤ spaceSize c sizes d)

/-- Descriptor `i` of a table. -/
def tableDesc (t : Bytes) (i : DescId) : Desc := descOf (slice t (64 * i.val) 64)

/-! ### Instructions (R113, R115, R117, R119, R128) -/

/-- Words of a program image. -/
def wordsOf (p : Bytes) : List Nat := (List.range (p.length / 8)).map fun i => leAt p (8 * i) 8

/-- Instructions of a program, of whatever barge. -/
def programOf (p : Bytes) : List (Option Instr) := (wordsOf p).map (decodeWord 0)

/-- Items of an instruction that need no descriptor table: a write outside the data area, DEPTH and PART (R128). -/
def formOk (i : Instr) : Bool :=
  match i with
  | .sst _ _ addr => decide (addr.toNat + 4 ≤ dataBytes)
  | .mma _ _ _ _ _ _ _ depth part => decide (depth.val ≤ 5) && decide (part.val < 2 ^ depth.val)
  | .vred _ _ _ _ _ depth part _ => decide (depth.val ≤ 5) && decide (part.val < 2 ^ depth.val)
  | _ => true

/-- A descriptor that a part result of a depth is written to, or joined from, holds parts of that depth. -/
def depthOk (d : Desc) (depth : Nat) : Bool := !d.part || d.pdepth == depth

/-- Items Operands, Parts and Moves of one instruction under a descriptor table, no more than R128 lists; `peer` gives the table
of another logical barge of the schedule, and `weight` says which regions are weight regions. -/
def operandsOk (int8 : Bool) (weight : Nat → Bool) (t : Bytes) (peer : Nat → Option Bytes) (i : Instr) : Bool :=
  let d := tableDesc t
  match i with
  | .mma _ dst a b _ _ _ depth _ =>
    pairOk (d a).fmt (d b).fmt && !(d a).part && !(d b).part && depthOk (d dst) depth.val
      && (!int8 || ((d a).fmt == 0 && (d b).fmt == 0))
  | .vld _ x _ _ _ => !(d x).part
  | .vst _ x _ _ _ => !(d x).part
  | .vqst _ x _ _ => !(d x).part
  | .vred _ x _ _ _ depth _ pd => !(d x).part && (depth.val == 0 || depthOk (d pd) depth.val)
  | .vjoin _ dst src _ depth => depthOk (d src) depth.val && !(d dst).part
  | .vsel _ p x _ _ _ _ => !(d p).part && !(d x).part
  | .mld _ dst src _ _ _ _ => movesAgree (d src) (d dst) && !(d src).part
  | .mst _ dst src _ _ _ _ =>
    movesAgree (d src) (d dst) && !(d dst).part && !((d dst).space == 2 && weight (d dst).region)
  | .mxfr _ dst src lb _ _ _ _ =>
    match peer lb.val with
    | none => true
    | some t' => movesAgree (d src) (tableDesc t' dst)
  | .mgth _ dst src _ _ _ => movesAgree (d src) (d dst) && !(d src).part && !(d dst).part
  | _ => true

/-! ### Control flow (R113) -/

/-- Body of the loop at index `i`: first index and the index after it. -/
def loopBody (i : Nat) (x : Option Instr) : Option (Nat × Nat) :=
  match x with
  | some (.loop _ _ len) => some (i + 1, i + 1 + len.toNat)
  | _ => none

/-- Loop bodies of a program. -/
def bodiesOf (prog : List (Option Instr)) : List (Nat × Nat) := (prog.mapIdx loopBody).filterMap id

def inBody (i : Nat) (x : Nat × Nat) : Bool := decide (x.1 ≤ i) && decide (i < x.2)

/-- Loops inside the program, bodies nested whole and no deeper than four, and branches that stay in the bodies they start in;
the target of a branch is an instruction of the program (R113; assumption 92). -/
def controlOk (prog : List (Option Instr)) : Bool :=
  let bodies := bodiesOf prog
  bodies.all (fun x => decide (x.2 ≤ prog.length)
      && bodies.all (fun y => decide (y.2 ≤ x.1) || decide (x.2 ≤ y.1) || decide (x.1 < y.1 ∧ y.2 ≤ x.2) || decide (y.1 < x.1 ∧ x.2 ≤ y.2)
          || x == y))
    && (List.range prog.length).all (fun i => decide ((bodies.filter (inBody i)).length ≤ 4))
    && (prog.mapIdx fun i x =>
        match x with
        | some (.br _ _ _ _ off) =>
          let t := i + 1 + off.toNat
          decide (t < prog.length) && bodies.all fun y => inBody i y == inBody t y
        | _ => true).all id

/-! ### Values fixed in the package (R115, R128) -/

/-- Scalar registers at an instruction: a value, or none where it depends on a run-time value. -/
abbrev Env := Vector (Option Word) 32

/-- Registers at a program's entry on logical barge `i` of `c` (R109). -/
def entryEnv (c i : Nat) : Env :=
  tab 32 fun r => match r.val with
    | 1 => none
    | 2 => none
    | 3 => some (BitVec.ofNat 32 c)
    | 4 => some (BitVec.ofNat 32 i)
    | 5 => none
    | _ => some 0

def setEnv (e : Env) (d : SReg) (w : Option Word) : Env := if d = 0 then e else put e d w

/-- Registers after one instruction that goes on to the next. -/
def envStep (x : Option Instr) (e : Env) : Env :=
  match x with
  | some (.li _ d imm) => setEnv e d (some imm)
  | some (.salu _ d a b fn) => setEnv e d (e[a].bind fun x => e[b].map fun y => sfn fn x y)
  | some (.sld _ d _) => setEnv e d none
  | some (.vsel _ _ _ _ _ d _) => setEnv e d none
  | _ => e

/-- What two ways to reach an instruction have in common. -/
def meet (a b : Env) : Env := tab 32 fun r => if a[r] = b[r] then a[r] else none

/-- Register an instruction writes. -/
def writesReg (x : Option Instr) : Option SReg :=
  match x with
  | some (.li _ d _) => some d
  | some (.salu _ d _ _ _) => some d
  | some (.sld _ d _) => some d
  | some (.vsel _ _ _ _ _ d _) => some d
  | _ => none

/-- Forget every register that a stretch of the program writes. -/
def forget (l : List (Option Instr)) (e : Env) : Env := (l.filterMap writesReg).foldl (fun e d => setEnv e d none) e

/-- Registers ahead of every instruction from an entry: branches forward and loops leave only what every way agrees on. `wait`
holds the registers that ways ahead bring to later indices. -/
def envs : (rest : List (Option Instr)) → (i : Nat) → Env → List (Nat × Env) → List Env
  | [], _, _, _ => []
  | x :: rest, i, e, wait =>
    let e := (wait.filter fun w => w.1 == i).foldl (fun e w => meet e w.2) e
    let (e', wait) := match x with
      | some (.loop _ _ len) => (forget (rest.take len.toNat) e, (i + 1 + len.toNat, e) :: wait)
      | some (.br _ _ _ _ off) => (e, (i + 1 + off.toNat, e) :: wait)
      | _ => (envStep x e, wait)
    e :: envs rest (i + 1) e' wait

/-- Registers ahead of each instruction from an entry point. -/
def envsFrom (prog : List (Option Instr)) (entry c i : Nat) : List (Nat × Env) :=
  (envs (prog.drop entry) entry (entryEnv c i) []).mapIdx fun k e => (entry + k, e)

/-- The leaves of the part of an MMA stay below 512: by the value its K has in the package, else by the bucket limits (R85, R115). -/
def leavesOk (p buckets t : Bytes) (pc : Nat) (e : Env) (i : Option Instr) : Bool :=
  match i with
  | some (.mma _ _ a _ _ _ kreg depth part) =>
    match e[kreg] with
    | none => Config.leafBound p pc buckets
    | some k =>
      let n := if isNarrow (tableDesc t a).fmt then (k.toNat + 31) / 32 else k.toNat
      match (parts depth.val 0 n)[if depth = 0 then 0 else part.val]? with
      | some x => decide (x.2 ≤ 511)
      | none => true
  | _ => true

/-! ### Tokens of a STEP (R94, R95, R128) -/

/-- The instructions that one STEP of a program runs, with how often each runs where that is fixed in the package: through the
first STEPDONE outside a loop that no branch passes over. -/
def stepTimes (prog : List (Option Instr)) (entry c i : Nat) : List (Instr × Option Nat) :=
  let at_ := envsFrom prog entry c i
  let taken : Nat → Option Instr → Env → Option Bool := fun _ x e => match x with
    | some (.br _ a b cond _) => e[a].bind fun x => e[b].map fun y => brHolds cond x y
    | _ => some false
  let brs := at_.filterMap fun x => match prog.getD x.1 none with
    | some (.br _ _ _ _ off) => some (x.1, x.1 + 1 + off.toNat, taken x.1 (prog.getD x.1 none) x.2)
    | _ => none
  let loops := at_.filterMap fun x => match prog.getD x.1 none with
    | some (.loop _ a len) => some ((x.1 + 1, x.1 + 1 + len.toNat), x.2[a])
    | _ => none
  let times : Nat → Option Nat := fun k =>
    let across := brs.filter fun y => decide (y.1 < k) && decide (k < y.2.1)
    if across.any fun y => y.2.2 == some true then some 0
    else if across.any fun y => y.2.2 == none then none
    else (loops.filter fun y => inBody k y.1).foldl (fun n y => n.bind fun n => y.2.map fun w => n * w.toNat) (some 1)
  let ends : Nat → Bool := fun k => (match prog.getD k none with
    | some (.stepdone _) => true
    | _ => false) && times k == some 1
  let run := at_.takeWhile fun x => !ends x.1
  run.filterMap fun x => (prog.getD x.1 none).map fun y => (y, times x.1)

/-- Tokens an instruction of logical barge `i` sends: target, channel and count. -/
def tokensSent (i : Nat) (x : Instr) : List (Nat × Nat × Nat) :=
  match x with
  | .signal _ .self _ ch amt _ _ => [(i, ch.val, amt.toNat)]
  | .signal _ .logical lb ch amt _ _ => [(lb.val, ch.val, amt.toNat)]
  | .mld _ _ _ tv ch _ _ => if tv then [(i, ch.val, 1)] else []
  | .mst _ _ _ tv ch _ _ => if tv then [(i, ch.val, 1)] else []
  | .mxfr _ _ _ lb tv ch _ _ => if tv then [(lb.val, ch.val, 1)] else []
  | .mgth _ _ _ _ tv ch => if tv then [(i, ch.val, 1)] else []
  | _ => []

/-- Tokens an instruction waits for: channel and count. -/
def tokensWaited (x : Instr) : List (Nat × Nat) :=
  match x with
  | .wait _ ta ca tb cb tc cc => [(ta.val, ca.toNat), (tb.val, cb.toNat), (tc.val, cc.toNat)]
  | _ => []

/-- Token counts of one STEP of a schedule, by logical barge: sent to each channel and waited on it. None where a count depends
on a run-time value. -/
def balance (steps : List (List (Instr × Option Nat))) : Option Bool :=
  let moves := steps.mapIdx fun i l => l.flatMap fun x =>
    (tokensSent i x.1).map (fun y => (y.1, y.2.1, y.2.2, true, x.2)) ++ (tokensWaited x.1).map fun y => (i, y.1, y.2, false, x.2)
  let all := (moves.flatMap id).filter fun y => y.2.2.1 != 0
  if all.any fun y => y.2.2.2.2.isNone then none
  else
    let sum : Nat → Nat → Bool → Nat := fun b ch sent => total (all.map fun y =>
      if y.1 = b ∧ y.2.1 = ch ∧ y.2.2.2.1 = sent then y.2.2.1 * y.2.2.2.2.getD 0 else 0)
    some ((List.range 32).all fun b => (List.range 16).all fun ch => sum b ch true == sum b ch false)

/-- Credit counter that an instruction uses. -/
def creditUsed (x : Instr) : Option (Fin 16) :=
  match x with
  | .signal _ _ _ _ _ cv cc => if cv then some cc else none
  | .mld _ _ _ _ _ cv cc => if cv then some cc else none
  | .mst _ _ _ _ _ cv cc => if cv then some cc else none
  | .mxfr _ _ _ _ _ _ cv cc => if cv then some cc else none
  | _ => none

/-- Every credit counter a STEP uses has had its limit set by an earlier CLIM. -/
def creditsOk : List (Instr × Option Nat) → List (Fin 16) → Bool
  | [], _ => true
  | (i, _) :: l, set =>
    (match creditUsed i with
      | some c => set.contains c
      | none => true)
      && creditsOk l (match i with
        | .clim _ ch _ => ch :: set
        | _ => set)

/-! ### The load check (R128) -/

/-- The program bytes of a schedule entry, its image released. -/
def progBytes (img : Bytes) (x : Sched) : Option Bytes :=
  ((sectionsOf img)[x.progSection]?).bind fun y => if y.whole img then some ((y.bytes img).take (8 * x.progLen)) else none

/-- The descriptor table of a schedule entry, released. -/
def tableBytes (img : Bytes) (x : Sched) : Option Bytes :=
  ((sectionsOf img)[x.descSection]?).bind fun y => if y.whole img then some (y.bytes img) else none

/-- Checks of one schedule entry: logical barge `i` of `c`. -/
def entryProgramOk (int8 : Bool) (img buckets : Bytes) (sizes : List (Bool × Nat)) (sched : Nat → Option Sched) (c i : Nat) : Bool :=
  match sched i with
  | none => true
  | some x =>
    match progBytes img x, tableBytes img x with
    | some p, some t =>
      let prog := programOf p
      let weight := fun k => (sizes[k]?.map (·.1)).getD false
      let peer := fun j => if j < c then (sched j).bind (tableBytes img) else none
      let envs := [x.init, x.step, x.resume].flatMap fun e => envsFrom prog e c i
      controlOk prog && prog.all (fun y => (y.map (operandsOk int8 weight t peer)).getD false)
        && envs.all (fun y => leavesOk p buckets t y.1 y.2 (prog.getD y.1 none))
        && creditsOk (stepTimes prog x.step c i) []
    | some p, none => controlOk (programOf p)
    | _, _ => true

/-- Checks of the schedule for `c` logical barges. -/
def scheduleOk (int8 : Bool) (img buckets : Bytes) (sizes : List (Bool × Nat)) (scheds : List Sched) (c : Nat) : Bool :=
  let sched := fun i => scheds[c * (c - 1) / 2 + i]?
  (List.range c).all (entryProgramOk int8 img buckets sizes sched c) &&
    match (List.range c).mapM fun i => (sched i).bind fun x => (progBytes img x).map fun p => (p, x.step) with
    | none => true
    | some ps =>
      (balance (ps.mapIdx fun i p => stepTimes (programOf p.1) p.2 c i)).getD (Config.tokensBalance (ps.map (·.1)))

/-- A check that needs a section waits until the section has been released. -/
def onceWhole (img : Bytes) (x : Option Section) (f : Section → Bool) : Bool :=
  match x with
  | some x => !x.whole img || f x
  | none => true

/-- What the plaintext released so far shows: false at the first failure. `last`: the chunk with LAST has been released. -/
def loadCheck (c : LoadCtx) (img : Bytes) (last : Bool) : Bool :=
  if img.length < 256 then !last
  else
    headerOk c img &&
    if img.length < dirEnd img then !last
    else
      let l := sectionsOf img
      let buckets := sectionOf img 2
      let layers := sectionOf img 3
      let sizes := regionSizes img
      let both := onceWhole img buckets fun b => onceWhole img layers fun y => contextsOk img b y
      directoryOk img && (!last || wholeOk img)
        && onceWhole img (sectionOf img 1) (regionTableOk c img) && onceWhole img buckets (bucketsOk img)
        && onceWhole img layers (layersOk img) && both && onceWhole img (sectionOf img 4) (schedTableOk img)
        && l.all (fun x => x.typ != 5 || !x.whole img || (programOf (x.bytes img)).all fun y => y.any formOk)
        && l.all (fun x => x.typ != 6 || !x.whole img ||
          (List.range 256).all fun i => descOk c sizes (slice (x.bytes img) (64 * i) 64))
        && onceWhole img (sectionOf img 4) fun x =>
          (List.range (4 * pkgFlights img)).all fun k =>
            scheduleOk c.int8 img ((buckets.map fun y => y.bytes img).getD []) sizes (schedsOf img x) (k + 1)

/-! ### The loaded package (R125, R126, R156) -/

/-- What the keeper core and Culvert keep of an image placed from an address. -/
def packageOf (img : Bytes) (base : Nat) : Package :=
  { flights := pkgFlights img, basinBytes := pkgBasin img
    regions := (placeRegions (regionSizes img) base).1
    buckets := ((sectionOf img 2).map (bucketsOf img)).getD []
    scheds := ((sectionOf img 4).map (schedsOf img)).getD []
    codeOff := codeOffsets (sectionsOf img) 0 }

/-- Region and offset within it where a section's bytes go. -/
def sectionPlace (img : Bytes) (i : Nat) (x : Section) : Option (Nat × Nat) :=
  if x.code then some (0, (codeOffsets (sectionsOf img) 0).getD i 0) else if x.typ = 7 then some (x.region, 0) else none

/-- `n` bytes from `o` of a section's blocks, what lies past its end open. -/
def blockBytes (owner gen addr : Nat) (d : Bytes) (o n : Nat) : Bytes :=
  (List.range n).map fun k => match d[o + k]? with
    | some v => v
    | none => Config.loadFill owner gen (addr + k)

/-- Writes of the plaintext of a section whose last byte is released between two lengths of the image: blocks of 256 bytes of a
weight region, lines of 64 bytes of another, each line one write (R140, R153, R156). -/
def sectionWrites (owner gen : Nat) (img : Bytes) (from_ : Nat) (regions : List Region) (i : Nat) (x : Section) : List MemReq :=
  match sectionPlace img i x with
  | none => []
  | some (k, o) =>
    match regions[k]? with
    | none => []
    | some rg =>
      let b := if rg.weight then 256 else 64
      let d := slice img x.offset (min x.size (img.length - x.offset))
      (List.range (ceilDiv x.size b)).flatMap fun j =>
        let stop := min (x.offset + b * (j + 1)) x.stop
        if from_ < stop ∧ stop ≤ img.length then
          (List.range (b / 64)).map fun h =>
            let a := rg.base + o + b * j + 64 * h
            { kind := .wr, addr := a, region := k, use := .load, data := blockBytes owner gen a d (b * j + 64 * h) 64 }
        else []

/-- Writes of everything released beyond the first `from_` bytes of the image. -/
def releasedWrites (owner gen : Nat) (img : Bytes) (from_ : Nat) (regions : List Region) : List MemReq :=
  ((sectionsOf img).mapIdx fun i x => sectionWrites owner gen img from_ regions i x).flatten

/-- Zero lines of the read-write regions whose data section is empty (R156). -/
def zeroWrites (img : Bytes) (regions : List Region) : List MemReq :=
  (sectionsOf img).flatMap fun x =>
    match if x.typ = 7 ∧ x.size = 0 then regions[x.region]? else none with
    | none => []
    | some rg => (List.range (ceilDiv rg.size 64)).map fun j =>
        { kind := .wr, addr := rg.base + 64 * j, region := x.region, use := .load, data := zeros 64 }

/-- Tag of each block of a weight region that holds a section's bytes: its address and its 8 bytes (R152, R154). -/
def sectionTags (kd kt kg : Bytes) (owner gen : Nat) (img : Bytes) (regions : List Region) (i : Nat) (x : Section) :
    List (Nat × Bytes) :=
  match sectionPlace img i x with
  | none => []
  | some (k, o) =>
    match regions[k]? with
    | none => []
    | some rg =>
      if rg.weight then
        (List.range (ceilDiv x.size 256)).map fun j =>
          let a := rg.base + o + 256 * j
          let c := (List.range 4).flatMap fun h =>
            xtsEncrypt kd kt (a + 64 * h) (blockBytes owner gen (a + 64 * h) (x.bytes img) (256 * j + 64 * h) 64)
          (tagAddr rg ((o + 256 * j) / 256), weightTag kg a gen k c)
      else []

/-- Writes of the tag arrays, a line of 64 bytes each (R154). -/
def tagWrites (owner gen : Nat) (tags : List (Nat × Bytes)) : List MemReq :=
  ((tags.map fun t => t.1 / 64).eraseDups).map fun l =>
    let base := (List.range 64).map fun k => Config.loadFill owner gen (64 * l + k)
    { kind := .wr, addr := 64 * l, use := .tagLine
      data := (tags.filter fun t => t.1 / 64 == l).foldl (fun d t => d.take (t.1 % 64) ++ t.2 ++ d.drop (t.1 % 64 + 8)) base }

/-- The tags of a whole image under a service's keys. -/
def imageTags (s : State) (r : SvcId) (img : Bytes) (regions : List Region) : List (Nat × Bytes) :=
  let (a, b, g) := memSlots s r
  ((sectionsOf img).mapIdx fun i x =>
    sectionTags (slotKey s a) (slotKey s b) (slotKey s g) r.val (loadGenOf s r) img regions i x).flatten

/-- The last writes of a load: empty read-write regions and the tag arrays. -/
def lastWrites (s : State) (r : SvcId) (img : Bytes) (regions : List Region) : List MemReq :=
  zeroWrites img regions ++ tagWrites r.val (loadGenOf s r) (imageTags s r img regions)

/-- Version of the loaded microcode (R93, R128). -/
def loadedMcode (s : State) : Nat :=
  match (idxs 34).find? fun b => s.barge[b].mcodeLoaded with
  | some b => s.barge[b].mcodeVersion
  | none => 0

/-- What a reach's package is checked against. -/
def reachCtx (s : State) (n : ReachId) : LoadCtx :=
  { flights := s.reach[n].flights, share := shareSize s (svcOf n), window := 4096 * s.reach[n].memPages
    mcode := loadedMcode s, int8 := false }

end Sys2Proof.Machine
end

