-- ==== Sys2Proof/Machine/Package.lean ====
section
/-! DEFINITION. Meanings of the package rows: LOAD_CHUNK (R155 to R158) and TWILIGHT_PACKAGE_LOAD (R232, R233, R237). -/

namespace Sys2Proof.Machine

/-! ### Chunks -/

/-- LENGTH and LAST of a chunk whose header has the form of R155 in the stream of R203. -/
def chunkForm (j : LoadJob) (h : Bytes) : Option (Nat × Bool) :=
  let n := leAt h 16 4
  let last := bit (leAt h 20 1) 0
  let ok := slice h 0 4 == [0x44, 0x43, 0x48, 0x4B] && leAt h 4 4 == j.chunk && leAt h 8 8 == 65536 * j.chunk
    && decide (leAt h 20 1 ≤ 1) && zerosAt h 21 11 && within 1 65536 n && (last || n == 65536) && n + 48 == j.fetchLen
    && last == (j.imageBytes == chunkBytes * j.chunk + n + 48)
  if ok then some (n, last) else none

/-- Plaintext of a chunk is released: digest and check, its regions' writes, and the next chunk or the end (R156, R157). -/
def releaseChunk (j : LoadJob) (m : Bytes) (last : Bool) (s : State) : State :=
  let r := svcOf j.reach
  let img := j.image ++ m
  if !loadCheck (reachCtx s j.reach) img last then failLoad Code.badDescriptor s
  else
    let pkg := packageOf img s.reach[j.reach].memBase
    let ws := releasedWrites r.val (loadGenOf s r) img j.image.length pkg.regions
      ++ (if last then lastWrites s r img pkg.regions else [])
    let j := { j with
      image := img, complete := last, writesLeft := j.writesLeft + ws.length, chunk := if last then j.chunk else j.chunk + 1 }
    let s := forAll ws (memEnqueue r) { s with loader := { s.loader with job := some j } }
    if last then finishLoad (s.onReach j.reach fun x => { x with pkg := some pkg })
    else
      match fetchChunk s with
      | some s => s
      | none => failLoad Code.badDescriptor s

/-- LOAD_CHUNK: a chunk staged whole is verified, and only then released (R155, R156). -/
def execLoadChunk (s : State) : Out :=
  match s.loader.job with
  | none => .next (refuse "LOAD_CHUNK" Code.badState s)
  | some j =>
    if j.fetchLeft ≠ 0 ∨ j.fetchLen = 0 ∨ j.complete then .next (refuse "LOAD_CHUNK" Code.badState s)
    else
      let d := memBytes j.staged 0 j.fetchLen
      let h := d.take 32
      match chunkForm j h with
      | none => .next (failLoad Code.badDescriptor s)
      | some (n, last) =>
        let (st, key, s) := useKey (keySlot s j.reach 3) .loadGcm j.reach.val s
        if st ≠ Code.done then .next (failLoad st s)
        else
          match gcmOpen key (s.reach[j.reach].nonce ++ beBytes 4 j.chunk) h (slice d 32 n) (slice d (32 + n) 16) with
          | none => .next (failLoad Code.packageAuthFail (alert Code.packageAuthFail AlertUnit.loader 34 (alertReach j.reach.val) 0xFFFF 0 s))
          | some m => .next (releaseChunk j m last s)

/-! ### Twilight -/

/-- An island twilight uses has failed in the quick pass (R226). -/
def twilightIslandFailed (s : State) : Bool :=
  (idxs 64).any fun i => s.col.isl[i].failed && (i.val == 34 || within 38 53 i.val || i.val == 58 || i.val == 59)

/-- The barges of twilight: the four lowest that passed (R232). -/
def twilightBarges (s : State) : List BargeId := ((idxs 34).filter fun b => s.barge[b].role == .spare).take 4

/-- Step 6 ends without a model (R237). -/
def noTwilight (s : State) : State := extend 8 (zeros 48) (s.onMer fun m => { m with step := .package, twilightModel := false })

/-- Step 6 ends without a model, the operator alerted of why. -/
def twilightRefused (status : Nat) (s : State) : State := noTwilight (alert status AlertUnit.meridian 60 0xFF 0xFFFF 0 s)

/-- A twilight key slot is filled from CTR_DRBG (R233). -/
def twilightKey (i : SlotId) (e : Engine) (s : State) : State :=
  let (k, s) := draw 32 s
  writeSlot i k 0 none 8 [e] .expire 0 s

/-- Slots 0, 8, … 56 of a wheel belong to twilight (R232). -/
def twilightWheel (w : Vector Nat 64) : Vector Nat 64 := vmapIdx (fun i o => if i.val % 8 = 0 then 8 else o) w

/-- Twilight takes the resources of R232. -/
def takeTwilight (s : State) : State :=
  let bs := twilightBarges s
  let s := (bs.zipIdx).foldl (fun s x => clockBarge x.1 (s.onBarge x.1 fun g =>
    { g with role := .twilight, reach := 8, logical := x.2, epoch := twilightEpoch, cleared := false })) s
  let s := setUnitEpoch 0 twilightEpoch (setUnitOwner 0 8 s)
  let s := { s with
    port := vmap (fun (p : Port) => { p with nextWheel := some (twilightWheel (p.nextWheel.getD p.wheel)) }) s.port
    sys := { s.sys with wheel := twilightWheel s.sys.wheel } }
  twilightKey 29 .culvertTag (twilightKey 31 .culvertXts (twilightKey 30 .culvertXts s))

/-- The package is written to the twilight window and its program enters INIT (R224, R233). -/
def startTwilight (img : Bytes) (s : State) : State :=
  let r := twilightSvc
  let s := takeTwilight s
  let pkg := packageOf img s.params.twilightBase
  let ws := releasedWrites r.val (loadGenOf s r) img 0 pkg.regions ++ lastWrites s r img pkg.regions
  let s := forAll ws (memEnqueue r) { s with twPkg := some pkg }
  let s := extend 8 (sha384 img) (s.onMer fun m => { m with step := .package, twilightModel := true })
  runOnAll r .init (s.onKeeper r fun k => { k with core := .running, nextCycle := 0, cycle := 0 })

/-- TWILIGHT_PACKAGE_LOAD: step 6 (R224, R225, R232, R233, R237). A model's random keys wait for a healthy CTR_DRBG (R255). -/
def execTwilightPackageLoad (s : State) : Out :=
  if s.mer.step ≠ .firmware ∨ s.mer.halted ∨ !s.col.quickDone ∨ s.mer.waitMem ∨ !(s.port.toList.all fun p => p.ctrlReady) then
    .next (refuse "TWILIGHT_PACKAGE_LOAD" Code.badState s)
  else
    let len := leNat (memBytes s.stc.watch 0 4)
    let img := memBytes s.stc.watch 4 len
    let ctx : LoadCtx :=
      { flights := 1, share := unitBytes, window := s.params.twilightSize, mcode := loadedMcode s, int8 := true }
    if len = 0 then .next (twilightRefused Code.watchEmpty s)
    else if twilightBarges s = [] ∨ twilightIslandFailed s then .next (noTwilight s)
    else if watchBytes < 4 + len ∨ !loadCheck ctx img true then .next (twilightRefused Code.badDescriptor s)
    else if !s.eph.drbgOk then .next (refuse "TWILIGHT_PACKAGE_LOAD" Code.badState s)
    else .next (startTwilight img s)

end Sys2Proof.Machine
end

