-- ==== Sys2Proof/Machine/ReachCmd.lean ====
section
/-! DEFINITION. Meanings of the operator's commands on reaches, debug levels, latency levels and logs (R45, R148, R165 to R170,
R340, R380 to R390). -/

namespace Sys2Proof.Machine

/-- Meridian has handled a reach command (R406). -/
def reachHandled (s : State) : State := chrAlways Chr.meridian 0 1 s

/-- A reach command by its judgement: its effect on the reach it names, or the refusal. -/
def reachCommand (what : String) (reach : Nat) (bad : State → ReachId → Option Nat) (f : ReachId → State → State)
    (s : State) : State :=
  operator what (fun s =>
    let s := reachHandled s
    match fin? 8 reach with
    | none => refuseMgmt what Code.badDescriptor s
    | some n => judged what (bad s n) (f n) s) s

/-- REACH_CREATE. -/
def execReachCreate (reach flights units k base pages keys : Nat) (aqd : Vector Nat 4) (s : State) : Out :=
  let a : CreateArgs := { flights, units, k, base, pages, keys, aqd }
  .next (reachCommand "REACH_CREATE" reach (fun s n => createBad s n.val a)
    (fun n s => match layoutFor s a with
      | some y => createReach n a y s
      | none => s) s)

/-- REACH_DRAIN: mode 0 FINISH, 1 CANCEL. -/
def execReachDrain (reach mode : Nat) (s : State) : Out :=
  .next (reachCommand "REACH_DRAIN" reach
    (fun s n => if 1 < mode then some Code.badDescriptor else drainBad s n (mode == 1))
    (fun n => drainReach n (mode == 1)) s)

/-! ### Shared spill (R148, R149, R170) -/

/-- Set or clear a reach's spill bit on every port; the status and history registers follow (R48, R49). -/
def setSpill (n : ReachId) (en : Bool) (s : State) : State :=
  let s := { s with port := vmap (fun (p : Port) => { p with spillEn := put p.spillEn n en }) s.port }
  if en then
    { s with iso := { s.iso with spillReach := put s.iso.spillReach n true, spillSince := Vector.replicate 8 true } }
  else settleSpill s

/-- SPILL. -/
def execSpill (reach en : Nat) (s : State) : Out :=
  .next (reachCommand "SPILL" reach
    (fun s n =>
      if 1 < en then some Code.badDescriptor
      else if s.reach[n].state = .empty ∨ s.reach[n].state = .dredging then some Code.badState else none)
    (fun n => setSpill n (en == 1)) s)

/-! ### Debug levels (R380, R383 to R385) -/

def debugOf : Nat → Option Debug
  | 0 => some .closed
  | 1 => some .observe
  | 2 => some .opened
  | _ => none

/-- The status a DEBUG_SET is refused with. -/
def debugBad (s : State) (n : ReachId) (level : Nat) : Option Nat :=
  if 2 < level then some Code.badDescriptor
  else if s.mer.lcMarginal ∧ level ≠ 0 then some Code.almMarginal
  else if s.reach[n].state = .draining ∨ s.reach[n].state = .dredging then some Code.badState
  else none

/-- The raise of a LOADING or SEALED reach to OPEN (R168, R383). -/
def openReach (n : ReachId) (s : State) : State :=
  let r := svcOf n
  let s := s.onReach n fun x => { x with debug := .opened }
  let s := match s.reach[n].state with
    | .loading => answerFailed n (stopLoad n Code.debugOpened s)
    | _ => endReqs r (fun _ => true) Code.debugOpened (endStep r Code.debugOpened none s)
  beginDredge n .forOpen s

/-- A debug level that Meridian sets; the keeper core of a reach lowered from OPEN resumes (R384). -/
def setDebug (n : ReachId) (d : Debug) (s : State) : State :=
  match s.reach[n].state with
  | .empty => s.onReach n fun x => { x with pendingDebug := d }
  | _ =>
    if d = .opened then (if s.reach[n].debug = .opened then s else openReach n s)
    else
      let was := s.reach[n].debug == .opened
      (s.onReach n fun x => { x with debug := d }).onKeeper (svcOf n) fun k => { k with dbgHalted := k.dbgHalted && !was }

/-- DEBUG_SET. -/
def execDebugSet (reach level : Nat) (s : State) : Out :=
  .next (reachCommand "DEBUG_SET" reach (fun s n => debugBad s n level) (fun n => setDebug n ((debugOf level).getD .closed)) s)

/-- DEBUG_TAP: in TEST the TAP stays unlocked (R385, R388). -/
def execDebugTap (value : Nat) (s : State) : Out :=
  .next (operator "DEBUG_TAP" (fun s =>
    judged "DEBUG_TAP"
      (if 1 < value then some Code.badDescriptor
        else if s.mer.lcMarginal ∧ value = 1 then some Code.almMarginal else none)
      (fun s => if s.mer.lc = .test ∧ !s.mer.lcMarginal then s else s.onEye fun e => { e with tapUnlocked := value == 1 }) s) s)

/-! ### Latency levels (R144, R214, R217, R221) -/

/-- A level out of its range is clamped, with one record at the first register that takes it. -/
def levelAudit (offset v applied width : Nat) (s : State) : State :=
  if v = applied then s
  else audit { offset, lsb := 0, written := v, applied, rule := AuditRule.range, mid := 2, width } s

/-- LAT_LEVEL: 0 leaves a value as it is. -/
def execLatLevel (sys mpt : Nat) (s : State) : Out :=
  .next (operator "LAT_LEVEL" (fun s =>
    if 2 ^ 16 ≤ sys ∨ 2 ^ 16 ≤ mpt then refuseMgmt "LAT_LEVEL" Code.badDescriptor s
    else
      let a := max 256 (min 2048 sys)
      let b := max 128 (min 1024 mpt)
      let s := if sys = 0 then s else levelAudit 0x800 sys a 12 (s.onSys fun y => { y with latLevel := a })
      let s := if mpt = 0 then s
        else levelAudit 0x200000 mpt b 11 { s with port := vmap (fun (p : Port) => { p with latLevel := b }) s.port }
      let clamped := (sys ≠ 0 ∧ sys ≠ a) ∨ (mpt ≠ 0 ∧ mpt ≠ b)
      answer (if clamped then Code.clamped else Code.done) [] s) s)

/-! ### Logs (R45, R340) -/

/-- ALERT_LOG: the records from a byte offset; a response that carries the newest record marks all as read (R45, R421). -/
def execAlertLog (offset : Nat) (s : State) : Out :=
  .next (operator "ALERT_LOG" (fun s =>
    if offset % 16 ≠ 0 ∨ 2 ^ 32 ≤ offset then refuseMgmt "ALERT_LOG" Code.badDescriptor s
    else
      let all := s.alerts.records.flatMap Alert.bytes
      let s' := if offset < all.length then { s with alerts := { s.alerts with readUpTo := s.alerts.nextSeq } } else s
      answer Code.done (leBytes 4 all.length ++ all.drop offset) s') s)

/-- ACK_LOG. -/
def execAckLog (s : State) : Out :=
  .next (operator "ACK_LOG" (fun s => answer Code.done s.stc.acks.flatten s) s)

end Sys2Proof.Machine
end

