-- ==== Sys2Proof/Machine/Registers.lean ====
section
/-! DEFINITION. A System Port register write (R9, R214). -/

namespace Sys2Proof.Machine

/-- An HRG or TWP register: a write to one leaves KEEP (R372). -/
def wakesKeep (off : Nat) : Bool := decide (0x10000 ≤ off) && decide (off < 0x30000)

/-- What a read over the System Port returns: the register's word, or zero where the size or the alignment is wrong, nothing
answers the offset, or the system island does not run (R216, R427). No row of the table is a read: it changes nothing, but
that EYE_MEM_DATA, which has a row, reads zero there (assumption 103). -/
def portRead (trusted : Bool) (addr : BitVec 24) (size : Nat) (s : State) : Word :=
  if !sysUp s ∨ size ≠ 4 ∨ addr.toNat % 4 ≠ 0 then 0 else (regWord s (portMid trusted) addr.toNat).getD 0

/-- REGISTER_WRITE: a 4-byte aligned write is judged by the register's fields; any other size or alignment is an ACCESS record. -/
def execRegisterWrite (trusted : Bool) (addr : BitVec 24) (size : Nat) (data : Word) (s : State) : Out :=
  let off := addr.toNat
  let mid := portMid trusted
  if !sysUp s then .next (refuse "REGISTER_WRITE" Code.badState s)
  else if size ≠ 4 ∨ off % 4 ≠ 0 then .next (auditAccess off data.toNat mid s)
  else
    let s := if wakesKeep off then keepWake s else s
    .next (writeReg mid off data s).2

end Sys2Proof.Machine
end

