-- ==== Sys2Proof/Machine/Sluice.lean ====
section
/-! DEFINITION. Sluice (R355 to R376, R414, R415): rails, sensors, decisions, the platform throttle, power states and the power
commands of the operator and of driver software. -/

namespace Sys2Proof.Machine

/-! ### Rails (R356, R414) -/

/-- PWR_ACK: the regulator has settled; clocks that waited for the voltage rise, and a start held by a rail begins (R423). -/
def execPwrAck (rail : Fin 6) (s : State) : Out :=
  let x := s.slu.rail[rail]
  if !s.pins.porN || x.settled then .next (refuse "PWR_ACK" Code.badState s)
  else
    let s := s.onSlu fun u => { u with rail := put u.rail rail { x with settled := true, late := false, heldMv := if x.on then x.targetMv else 0 } }
    if s.mer.step = .held ∧ s.mer.phase = .rom then .next (startIfFree (syncRails s))
    else .next (if s.slu.bootRom then syncRails s else drainFills (clockAll s))

/-- A rail's fault is recorded: FAULT, the operator alert and the notice of the latest rail (R356, R374). -/
def railFault (rail : Fin 6) (cause : Nat) (s : State) : State :=
  alert Code.railFault AlertUnit.sluice 61 0xFF rail.val cause
    (s.onSlu fun u => { u with rail := upd u.rail rail fun x => { x with fault := true }, noticeRail := some rail })

/-- PWR_FAULT: on VDD_OTP the Almanac command ends; on another rail the block is reset (R356). -/
def execPwrFault (rail : Fin 6) (s : State) : Out :=
  if !s.pins.porN || s.slu.state == .off then .next (refuse "PWR_FAULT" Code.badState s)
  else if rail = 5 then
    let s := railFault rail 2 s
    .next (if s.alm.busy.any (fun j => j.2.programs) then syncRail 5 (almInterrupt Code.otpWindow s) else s)
  else
    let wait := !s.slu.rail[rail].settled
    let s := enterReset Code.systemReset (railFault rail 2 s)
    .next (if wait then s else startIfFree s)

/-- RAIL_ACK_TIMEOUT: no acknowledgement of the request in progress within 10 ms; the rail is taken to be at its previous
value (R356). -/
def execRailAckTimeout (rail : Fin 6) (s : State) : Out :=
  let x := s.slu.rail[rail]
  if !s.pins.porN || x.settled || x.late then .next (refuse "RAIL_ACK_TIMEOUT" Code.badState s)
  else .next (railFault rail 1 (s.onSlu fun u => { u with rail := put u.rail rail { x with late := true } }))

/-! ### Sensors (R366, R368) -/

/-- SENSOR_UPDATE: field k with its strobe; in mode 0 field 3 is ignored (R366, R415). -/
def execSensorUpdate (k : Fin 4) (value : BitVec 16) (s : State) : Out :=
  if !s.pins.porN || (s.params.sensorMode == 0 && k == 3) then .next s
  else .next (s.onSlu fun u => { u with ext := put u.ext k { value, valid := true } })

/-- SENSOR_STALE: an input not updated for 1 s reads invalid (R366). -/
def execSensorStale (k : Fin 4) (s : State) : Out :=
  if !s.pins.porN || (s.params.sensorMode == 0 && k == 3) then .next (refuse "SENSOR_STALE" Code.badState s)
  else .next (s.onSlu fun u => { u with ext := upd u.ext k fun x => { x with valid := false, stale := true } })

/-- More than 15 °C away from a neighbour's reading. -/
def farFrom (a b : Int) : Bool := decide (60 < (a - b).natAbs)

/-- A sensor is to be excluded: its self-check fails, or it is far from both neighbours (R368). -/
def dieBad (v : Vector DieSample 64) (i : Fin 64) : Bool :=
  let n := Config.besideIslands i.val
  !v[i].selfCheck || (farFrom v[i].quarterC v[n.1].quarterC && farFrom v[i].quarterC v[n.2].quarterC)

/-- DIE_SENSOR_SAMPLE: exclusions, then the hottest and the mean over the valid sensors (R368). A record of an exclusion names
island 61, where Sluice detects it, and the sensor's island as INDEX (DEDUCED from R45, assumption 100). -/
def execDieSensorSample (samples : Vector DieSample 64) (s : State) : Out :=
  if !s.pins.porN || s.slu.state == .off then .next (refuse "DIE_SENSOR_SAMPLE" Code.badState s)
  else
    let fresh := (idxs 64).filter fun i => !s.slu.die[i].excluded && dieBad samples i
    let s := s.onSlu fun u =>
      let die := vmapIdx (fun (i : Fin 64) (d : Die) =>
        { quarterC := samples[i].quarterC, excluded := d.excluded || dieBad samples i }) u.die
      let v := (die.toList.filter fun d => !d.excluded).map fun d => d.quarterC
      match v with
      | [] => { u with die }
      | x :: l => { u with die, tempMax := l.foldl max x, tempMean := (x + l.foldl (· + ·) 0) / ((l.length + 1 : Nat) : Int) }
    let s := chrAlways Chr.sluice 4 64 s
    .next (forAll fresh (fun i s => alert Code.sensorExcluded AlertUnit.sluice 61 0xFF i.val 0 s) s)

/-! ### Estimates (R359) -/

/-- p_idle and p_busy of a step in hundredths of a watt. -/
def stepPower : Nat → Nat × Nat
  | 0 => (55, 185)
  | 1 => (45, 145)
  | 2 => (40, 120)
  | 3 => (35, 97)
  | 4 => (30, 74)
  | 5 => (25, 50)
  | _ => (25, 25)

/-- Barge islands of a reach that are powered. -/
def poweredBarges (s : State) (n : ReachId) : List BargeId :=
  (bargesOf s (svcOf n)).filter fun b => s.isl[islOf b].powered

/-- est(r, s) in eighths of a watt, rounded up (R359). -/
def estimate (s : State) (n : ReachId) (step : Nat) (a : Activity) : Nat :=
  let (idle, busy) := stepPower step
  let barges := (poweredBarges s n).mapIdx fun i _ =>
    let (x, y) := a.busy.getD i (0, 1)
    ((idle : Nat) : Rat) / 100 + (((busy - idle : Nat) : Nat) : Rat) / 100 * ((x : Rat) / (y : Rat))
  let units := s.reach[n].units.mapIdx fun i _ => (40 : Rat) / 100 + 18 * ((a.lines.getD i 0 : Nat) : Rat) / 100000000
  let w := (barges ++ units).foldl (· + ·) 0 + (36 * (a.reads : Rat) + 24 * (a.writes : Rat)) / 100000000
  (8 * w).ceil.toNat

/-! ### Causes of the platform throttle (R363) -/

/-- Sensor Port inputs in use. -/
def extUsed (s : State) : List (Fin 4) := if s.params.sensorMode = 0 then [0, 1, 2] else [0, 1, 2, 3]

/-- One held cause: active after a decision, and decisions its clearing condition has held. -/
def heldCause (active raise clear frozen : Bool) (need good : Nat) : Bool × Nat :=
  if frozen && !raise then (active, 0)
  else if raise then (true, 0)
  else if active && clear then (if need ≤ good + 1 then (false, 0) else (true, good + 1))
  else (active, 0)

/-- The causes after a decision. -/
def decideCauses (s : State) : Causes × Vector Nat 5 :=
  let u := s.slu
  let c := u.causes
  let v : Fin 4 → Int := fun k => u.ext[k].value.toInt
  let m0 := s.params.sensorMode == 0
  let inletMax : Int := 16 * (s.params.coolantInletMax : Int)
  let stackMax : Int := 16 * (s.params.stackTempMax : Int)
  let flow := u.ext[(2 : Fin 4)].value.toNat
  let rise := (u.means.headD 0) - (u.means.foldl min (u.means.headD 0))
  let inlet := heldCause c.inlet (m0 && u.ext[(0 : Fin 4)].valid && decide (inletMax ≤ v 0)) (m0 && decide (v 0 ≤ inletMax - 48))
    (!u.ext[(0 : Fin 4)].valid) 1000 u.good[(0 : Fin 5)]
  let flowC := heldCause c.flow (m0 && u.ext[(2 : Fin 4)].valid && decide (flow < s.params.coolantFlowMin))
    (m0 && decide (s.params.coolantFlowMin ≤ flow)) (!u.ext[(2 : Fin 4)].valid) 1000 u.good[(1 : Fin 5)]
  let stack := heldCause c.stack (!m0 && (idxs 4).any fun k => u.ext[k].valid && decide (stackMax ≤ v k))
    (!m0 && (idxs 4).all fun k => decide (v k ≤ stackMax - 48)) ((idxs 4).any fun k => !u.ext[k].valid) 1000 u.good[(2 : Fin 5)]
  let sensor := heldCause c.sensor (((extUsed s).any fun k => u.ext[k].stale) || decide (8 < excludedDies s)) true false 1000
    u.good[(3 : Fin 5)]
  let env := heldCause c.envelope (decide (8 * u.envelope < u.estW8)) (decide (u.estW8 ≤ 8 * u.envelope)) false 100
    u.good[(4 : Fin 5)]
  ({ temp := if 380 ≤ u.tempMax then true else if u.tempMax < 368 then false else c.temp
     crit := if 412 ≤ u.tempMax then true else if u.tempMax < 368 then false else c.crit
     ramp := if 40 < rise then true else if rise < 32 then false else c.ramp
     inlet := inlet.1, flow := flowC.1, stack := stack.1, sensor := sensor.1, envelope := env.1 },
    ⟨#[inlet.2, flowC.2, stack.2, sensor.2, env.2], rfl⟩)

/-- The causes that Sluice's boot ROM acts on: the envelope and the bound of the rise (R228). -/
def Causes.ofBootRom (c : Causes) : Causes := { ramp := c.ramp, envelope := c.envelope }

def Causes.any (c : Causes) : Bool := c.temp || c.crit || c.ramp || c.inlet || c.flow || c.stack || c.sensor || c.envelope

/-- Slowest target of the active causes at a step (R363). -/
def targetStep (s : State) (c : Causes) (p : Nat) : Nat :=
  let t := fun (b : Bool) (k : Nat) => if b then k else 0
  [t c.temp (if 380 ≤ s.slu.tempMax then 5 else p), t c.crit 5, t c.ramp 5, t c.inlet 4, t c.flow 4, t c.stack 4,
    t c.sensor 4, t c.envelope 5].foldl max 0

/-- Slowest step of any barge island in RUN, on entry to the throttle (R364); under the boot ROM they all run at step 3 (R228).
With no barge island in RUN the spec names no step: the model takes 0, from which P moves as R364 has it (DESIGN CHOICE,
assumption 96). -/
def slowestStep (s : State) : Nat :=
  if s.slu.bootRom then 3 else
  ((idxs 34).filterMap fun b =>
    match s.barge[b].role with
    | .active => wantStep s b
    | .twilight => wantStep s b
    | _ => none).foldl max 0

/-- The platform step after a decision with the throttle in force (R364, R365). -/
def movePlatform (s : State) (c : Causes) (p : Nat) : Nat :=
  if 420 ≤ s.slu.tempMax ∧ !s.slu.bootRom then 6
  else if p = 6 then (if s.slu.tempMax < 400 then 5 else 6)
  else if c.crit then 5
  else
    let t := targetStep s c p
    if p < t then p + 1 else if t < p then p - 1 else p

/-- The platform throttle at a decision: entered, moved or ended (R364, R365, R375). -/
def decidePlatform (s : State) : State :=
  let (c, good) := decideCauses s
  let u := s.slu
  let c := if u.bootRom then c.ofBootRom else c
  let s := s.onSlu fun u => { u with causes := c, good }
  if c.any then
    let p := if u.platform then movePlatform s c u.pstep
      else if 420 ≤ u.tempMax ∧ !u.bootRom then 6 else slowestStep s
    let s := if p = 6 ∧ !(u.platform && u.pstep == 6) then
        let i := ((idxs 64).find? fun i => !u.die[i].excluded && u.die[i].quarterC == u.tempMax).map (·.val)
        alert Code.thermalTrip AlertUnit.sluice 61 0xFF (i.getD 0xFFFF) 0 s
      else s
    setThermal true (s.onSlu fun u => { u with platform := true, pstep := p })
  else if u.platform then
    setThermal false (s.onSlu fun v =>
      { v with platform := false, pstep := 0, reach := vmap (fun x => { x with step := min 5 u.pstep }) v.reach })
  else s

/-! ### Decisions of the reaches (R361) -/

def floorStep (s : State) (n : ReachId) : Nat :=
  if s.alm.boost && !s.slu.trimOn && s.slu.reach[n].boostEn then 0 else 1

/-- The step of a reach after a decision. -/
def decideStep (s : State) (n : ReachId) (a : Activity) : Nat :=
  let x := s.slu.reach[n]
  let e := effBudget s n
  let p := estimate s n x.step a
  let low := x.history.foldl min p
  let up := estimate s n (x.step - 1) a
  if x.step < floorStep s n then floorStep s n
  else if e < p ∨ 6 * e < 10 * (p - low) then (if x.step < 5 then x.step + 1 else x.step)
  else if floorStep s n < x.step ∧ 10 * up ≤ 9 * e ∧ 10 * (up - low) ≤ 6 * e then x.step - 1
  else x.step

/-- Estimates of the window that has ended (R359, R376). -/
def formEstimates (v : Vector Activity 8) (s : State) : State :=
  let est := (idxs 8).map fun n =>
    if (poweredBarges s n).isEmpty && s.reach[n].units.isEmpty then 0 else estimate s n (reachStep s n) v[n]
  s.onSlu fun u =>
    { u with
      estW8 := 64 + total est
      reach := vmapIdx (fun (n : Fin 8) (x : SluReach) =>
        { x with estW8 := est.getD n.val 0, history := (est.getD n.val 0 :: x.history).take 100 }) u.reach }

/-- Step changes that a decision has made: of reaches, and of the platform step. -/
def stepChanges (a b : State) : Nat :=
  ((idxs 8).filter fun n => a.slu.reach[n].step != b.slu.reach[n].step).length
    + b2n (a.slu.platform != b.slu.platform || a.slu.pstep != b.slu.pstep)

/-- SLUICE_DECISION: the 1 ms decision (R359, R361, R363 to R365), by Sluice's firmware or its boot ROM (R228). A clock that
starts again lets what waited in its crossings arrive (R24). -/
def execSluiceDecision (activity : Vector Activity 8) (s : State) : Out :=
  if !s.pins.porN || s.slu.state == .off then .next (refuse "SLUICE_DECISION" Code.badState s)
  else
    .next (withNotice (fun s =>
      let before := s
      let was := s.slu.platform
      let s := decidePlatform (formEstimates activity s)
      let s := if was || s.slu.platform || s.slu.bootRom then s
        else s.onSlu fun u => { u with reach := vmapIdx (fun (n : Fin 8) (x : SluReach) =>
          if (poweredBarges s n).isEmpty then x else { x with step := decideStep s n activity[n] }) u.reach }
      let s := if s.slu.platform then
          s.onSlu fun u =>
            if u.throttleMs + 1 = 1000 then { u with throttleMs := 0, throttleS := satInc 16 u.throttleS }
            else { u with throttleMs := u.throttleMs + 1 }
        else s
      let n := stepChanges before s
      drainFills <| clockAll (chrAlways Chr.sluice 0 1 (chrAlways Chr.sluice 1 n (chrEvent Chr.sluice 2 0xF n s)))) s)

/-! ### Once a second (R363, R367) -/

/-- SLUICE_SECOND_TICK: the mean is recorded, and swings of more than 30 °C are counted. -/
def execSluiceSecondTick (s : State) : Out :=
  if !s.pins.porN || s.slu.state == .off then .next (refuse "SLUICE_SECOND_TICK" Code.badState s)
  else
    .next (s.onSlu fun u =>
      let t := u.tempMean
      let u := { u with means := (t :: u.means).take 60 }
      let e := u.extreme.getD t
      if u.dirUp then
        if e < t then { u with extreme := some t }
        else if 120 < e - t then { u with swings := satInc 16 u.swings, dirUp := false, extreme := some t }
        else { u with extreme := some e }
      else
        if t < e then { u with extreme := some t }
        else if 120 < t - e then { u with swings := satInc 16 u.swings, dirUp := true, extreme := some t }
        else { u with extreme := some e })

/-! ### DOZE (R371) -/

/-- DOZE_ENTER: the reach has been idle for DWELL_MS, which the event asserts; its barges are unpowered when their crossings
are empty, and their epochs become 0 (R24, R371). -/
def execDozeEnter (n : ReachId) (s : State) : Out :=
  let x := s.slu.reach[n]
  let bs := bargesOf s (svcOf n)
  let idle := s.keeper[svcOf n].reqs.all fun q => !q.live
  let slices := bs.any fun b => s.col.barge == some b
  let crossing := s.flight.any fun m => bs.any fun b => m.touches b
  if s.reach[n].state = .sealed ∧ x.dwellMs ≠ 0 ∧ !x.dozing ∧ idle ∧ !migrationPending s (svcOf n) ∧ !slices
      ∧ !crossing ∧ !s.reach[n].restage ∧ s.slu.state ≠ .keep then
    .next (withNotice (fun s =>
      forAll bs clockBarge (s.onSlu fun u => { u with reach := upd u.reach n fun y => { y with dozing := true } })) s)
  else .next (refuse "DOZE_ENTER" Code.badState s)

/-! ### Commands (R360, R372, R373) -/

/-- PWR_TRIM judged (R373). -/
def trimBad (t : Nat) (s : State) : Option Nat :=
  if s.mer.phase ≠ .full then some Code.badState
  else if t < 32 ∨ 60 < t then some Code.badDescriptor else none

def doTrim (t : Nat) (s : State) : State :=
  withNotice (fun s => s.onSlu fun u => { u with trimOn := t != 60, envelope := t, state := .run }) s

/-- PWR_KEEP judged (R373). -/
def keepBad (s : State) : Option Nat :=
  let reachBusy := (idxs 8).any fun n =>
    s.reach[n].state == .loading || s.reach[n].state == .draining || s.reach[n].state == .dredging
  let ctx := s.keeper.toList.any fun k => !k.reqs.isEmpty
  let chan := (idxs 4).any fun l => s.link[l].chan.toList.any fun c => c.state == .opened
  if s.mer.phase ≠ .full || ctx || reachBusy || chan || s.ast.job.isSome || s.stc.job.isSome || s.alm.busy.isSome then
    some Code.badState
  else none

/-- KEEP is entered, or waits for the slice in progress and for the crossings (R24, R401). -/
def doKeep (s : State) : State := settleKeep (s.onSlu fun u => { u with keepPending := true })

/-- PWR_DWELL judged: a reach and 16 bits of milliseconds. -/
def dwellBad (reach ms : Nat) (s : State) : Option Nat :=
  if s.mer.phase ≠ .full then some Code.badState
  else if 8 ≤ reach ∨ 65536 ≤ ms then some Code.badDescriptor else none

def doDwell (reach ms : Nat) (s : State) : State :=
  match fin? 8 reach with
  | some n => s.onSlu fun u => { u with reach := upd u.reach n fun x => { x with dwellMs := ms } }
  | none => s

/-! ### Driver software on Towpath channels 2 and 3 (R374) -/

/-- The words of a channel-2 message that are not given a meaning for its KIND are zero. -/
def driverWords (s : State) : List Nat := s.twp.chan[(2 : ChanId)].words.toList.map BitVec.toNat

def driverKind (s : State) : Nat := (driverWords s).headD 0 % 256

/-- Unused words and bits of a channel-2 message are zero, by the widths of words 1 and 2. -/
def driverForm (s : State) (w1 w2 : Nat) : Bool :=
  let l := driverWords s
  l.headD 0 / 256 % 256 == 0 && decide (l.getD 1 0 < 2 ^ w1) && decide (l.getD 2 0 < 2 ^ w2) && (l.drop 3).all (· == 0)

/-- Sluice takes the message on channel 2 and holds its reply; KEEP is left first. -/
def driverReply (status : Nat) (extra : State → List Word) (f : State → State) (s : State) : State :=
  let w0 := (driverWords s).headD 0
  let s := f (takeMsg 2 s)
  let w : Word := BitVec.ofNat 32 (w0 % 256 ||| 0x80) ||| BitVec.ofNat 32 (fld (status % 256) 8) ||| BitVec.ofNat 32 (fld (w0 / 65536) 16)
  s.onSlu fun u => { u with replies := u.replies ++ [msgWords (w :: extra s)] }

/-- A message of the KIND waits on channel 2, and fewer than four replies are held. -/
def driverReady (kinds : Nat → Bool) (s : State) : Bool :=
  s.twp.chan[(2 : ChanId)].state == .full && kinds (driverKind s) && decide (s.slu.replies.length < 4) && !s.slu.bootRom
    && s.slu.state != .off

/-- A driver's request of one KIND, judged. -/
def driver (what : String) (kind w1 w2 : Nat) (bad : State → Option Nat) (f : State → State) (s : State) : State :=
  if driverReady (· == kind) s then
    let s := keepWake s
    match if driverForm s w1 w2 then bad s else some Code.badDescriptor with
    | some st => driverReply st (fun _ => []) (refuse what st) s
    | none => driverReply Code.done (fun _ => []) f s
  else refuse what Code.badState s

/-- PWR_TRIM (R373, R374, R390). -/
def execPwrTrim (fromDriver : Bool) (t : Nat) (s : State) : Out :=
  if fromDriver then
    if (driverWords s).getD 1 0 = t then .next (driver "PWR_TRIM" 1 6 0 (trimBad t) (doTrim t) s)
    else .next (refuse "PWR_TRIM" Code.badDescriptor s)
  else .next (fullOperator "PWR_TRIM" (fun s => judged "PWR_TRIM" (trimBad t s) (doTrim t) s) s)

/-- PWR_KEEP (R372, R373). -/
def execPwrKeep (fromDriver : Bool) (s : State) : Out :=
  if fromDriver then .next (driver "PWR_KEEP" 2 0 0 keepBad doKeep s)
  else .next (fullOperator "PWR_KEEP" (fun s => judged "PWR_KEEP" (keepBad s) doKeep s) s)

/-- PWR_WAKE: accepted with no change; a KEEP it meets has been left by its message (R372, R373). -/
def execPwrWake (s : State) : Out := .next (driver "PWR_WAKE" 3 0 0 (fun _ => none) id s)

/-- PWR_DWELL (R371, R373, R374). -/
def execPwrDwell (fromDriver : Bool) (reach ms : Nat) (s : State) : Out :=
  if fromDriver then
    let l := driverWords s
    if l.getD 1 0 = reach ∧ l.getD 2 0 = ms then .next (driver "PWR_DWELL" 4 3 16 (dwellBad reach ms) (doDwell reach ms) s)
    else .next (refuse "PWR_DWELL" Code.badDescriptor s)
  else .next (fullOperator "PWR_DWELL" (fun s => judged "PWR_DWELL" (dwellBad reach ms s) (doDwell reach ms) s) s)

/-- QUERY: a message of KIND 0x05, or of a KIND that does not exist, which is answered BAD_DESCRIPTOR (R374). -/
def execQuery (s : State) : Out :=
  if driverReady (fun k => k == 5 || k == 0 || decide (5 < k)) s then
    let s := keepWake s
    if driverKind s = 5 ∧ driverForm s 0 0 then .next (driverReply Code.done (fun s => [sluState s, sluPower s, sluTemp s]) id s)
    else .next (driverReply Code.badDescriptor (fun _ => []) (refuse "QUERY" Code.badDescriptor) s)
  else .next (refuse "QUERY" Code.badState s)

/-- SLUICE_REPLY_SEND: replies in request order, then notices, each when channel 3 is EMPTY (R374). -/
def execSluiceReplySend (s : State) : Out :=
  if s.twp.chan[(3 : ChanId)].state ≠ .empty then .next (refuse "SLUICE_REPLY_SEND" Code.badState s)
  else
    let send := fun (w : Vector Word 16) (s : State) => postMsg 3 (onTwpChan 3 (fun x => { x with words := w }) s)
    match s.slu.replies with
    | w :: l => .next (send w (s.onSlu fun u => { u with replies := l }))
    | [] =>
      if s.slu.noticeState then .next (send (msgWords [0xC0, sluState s]) (s.onSlu fun u => { u with noticeState := false }))
      else
        match s.slu.noticeRail with
        | some r => .next (send (msgWords [0xC1, BitVec.ofNat 32 r.val]) (s.onSlu fun u => { u with noticeRail := none }))
        | none => .next (refuse "SLUICE_REPLY_SEND" Code.badState s)

/-- The block in OFF: reset, every island unpowered, and every rail asked for removal as the regulator acknowledges what was
asked before (R369, R372, R414). -/
def enterOff (s : State) : State :=
  let s := enterReset Code.systemReset s
  syncRails { s with
    slu := { s.slu with state := .off }
    isl := vmap (fun (_ : Island) => ({} : Island)) s.isl }

/-- PWR_OFF: accepted in every phase; the block stays OFF until por_n (R372, R373). Outside FULL no session can be open, and the
operator's message is taken without one (assumption 116). -/
def execPwrOff (s : State) : Out :=
  let f := fun (s : State) => enterOff (answer Code.done [] s)
  if !s.pins.porN || s.slu.state == .off || !mgmtUp s || s.mer.halted then .next (refuse "PWR_OFF" Code.badState s)
  else if s.mer.phase = .full then .next (operator "PWR_OFF" f s) else .next (f (handled (mctpMessage s)))

/-- PWR_BUDGET: clamped to the minimum, or to the budget plus the headroom (R214, R360); W8 has two bytes (R390). -/
def execPwrBudget (reach w8 : Nat) (s : State) : Out :=
  .next (fullOperator "PWR_BUDGET" (fun s =>
    match fin? 8 reach with
    | none => refuseMgmt "PWR_BUDGET" Code.badDescriptor s
    | some n =>
      if 65536 ≤ w8 then refuseMgmt "PWR_BUDGET" Code.badDescriptor s
      else
        let v := min (max w8 (budgetMin s n)) (s.slu.reach[n].budgetW8 + headroom s)
        let s := s.onSlu fun u => { u with reach := upd u.reach n fun x => { x with budgetW8 := v } }
        if v = w8 then answer Code.done [] s
        else
          answer Code.clamped [] (audit { offset := 0x30100 + 16 * n.val, lsb := 0, written := w8, applied := v,
                                          rule := AuditRule.range, mid := 2, width := 10 } s)) s)

/-- PWR_BOOST_EN (R361, R373). -/
def execPwrBoostEn (reach en : Nat) (s : State) : Out :=
  .next (fullOperator "PWR_BOOST_EN" (fun s =>
    match fin? 8 reach with
    | none => refuseMgmt "PWR_BOOST_EN" Code.badDescriptor s
    | some n =>
      if 1 < en then refuseMgmt "PWR_BOOST_EN" Code.badDescriptor s
      else answer Code.done [] (s.onSlu fun u => { u with reach := upd u.reach n fun x => { x with boostEn := en == 1 } })) s)

end Sys2Proof.Machine
end

