-- ==== Sys2Proof/Machine/SpdmOps.lean ====
section
/-! DEFINITION. Shared operations of SPDM on the Management Port: refusals, requests that need Astrolabe, session keys, chains of
requesters, reports in parts, and package-key delivery (R255, R289 to R295, R378, R379). -/

namespace Sys2Proof.Machine

/-! ### Requests -/

/-- The error an SPDM request other than version, capabilities and algorithms is answered with: the first row of R295 that holds
(DESIGN CHOICE, assumption 107: the rows' order). -/
def spdmRefusal (s : State) : Option SpdmCode :=
  match s.mer.phase with
  | .full => if s.eph.tamper || s.ast.state == .faulted || !s.eph.drbgOk then some .unexpectedRequest else none
  | .rom => some .busy
  | .verify => some .busy
  | .twilight => some .busy
  | _ => some .unexpectedRequest

/-- A message of the Management Port that Meridian takes; none is taken while the island is down or Meridian halted. -/
def onMessage (what : String) (f : State → State) (s : State) : State :=
  if !mgmtUp s then refuse what Code.badState s
  else
    let s := mctpMessage (keepWake s)
    if s.mer.halted then refuse what Code.badState s else f (chrAlways Chr.meridian 3 1 (handled s))

/-- An SPDM error, logged (R10). -/
def spdmError (what : String) (code : SpdmCode) (s : State) : State := answerSpdm code [] (refuse what Code.badState s)

/-- An SPDM request in service. -/
def spdmRequest (what : String) (f : State → State) (s : State) : State :=
  onMessage what (fun s => match spdmRefusal s with
    | some c => spdmError what c s
    | none => f s) s

/-- A request for version, capabilities or algorithms: answered in every phase but service under a condition of R295's third
row. -/
def openRequest (what : String) (f : State → State) (s : State) : State :=
  onMessage what (fun s =>
    if s.mer.phase = .full then match spdmRefusal s with
      | some c => spdmError what c s
      | none => f s
    else f s) s

/-- Length of a response above which it is fetched in parts (R291). -/
def partBytes : Nat := 4096

/-- An SPDM response; one longer than a part is kept for CHUNK_GET, and its length is answered. -/
def spdmReply (ep : Nat) (data : Bytes) (s : State) : State :=
  if data.length ≤ partBytes then answerSpdm .ok data s
  else
    answerSpdm .ok (leBytes 4 data.length) (s.onSpdm fun x =>
      { x with large := (ep, data) :: x.large.filter fun y => y.1 != ep })

/-- TOTAL and the part from an offset (R291). -/
def replyPart (b : Bytes) (offset : Nat) (s : State) : State :=
  answer Code.done (leBytes 4 b.length ++ (b.drop offset).take partBytes) s

/-- A signature of a digest by the attestation P-384 key (R290). -/
def signDigest (d : Bytes) (s : State) : Bytes × State :=
  let (_, s) := evalKey 8 s
  let (_, sig, s) := astRun .p384Sign 0xE 0 none 0 d s
  (sig, s)

/-- An SPDM response that carries a result of Astrolabe: answered UnexpectedRequest where its operations have failed (R272,
R295). -/
def signedReply (what : String) (ep : Nat) (data : Bytes) (s : State) : State :=
  if astWell s then spdmReply ep data s else spdmError what .unexpectedRequest s

/-! ### Sessions (R292, R378, R379) -/

/-- Write both slots of a session, with USES 2^20. -/
def sessionKeys (i : Fin 8) (phase : Nat) (y : Session) (s : State) : State :=
  let one : SlotId → Bool → State → State := fun k resp s =>
    writeSlot k (Config.spdmKey phase resp y.secret y.th2).toList 0 none y.target [.meridianGcm] .counted (2 ^ 20)
      (if slotValid s k then invalidateSlot k s else s)
  one (sessSlots i).2 true (one (sessSlots i).1 false s)

/-- One to four P-384 certificates in at most 8 KiB, each after the first signed by its predecessor. -/
def chainForm (chain : List Bytes) : Bool :=
  decide (1 ≤ chain.length) && decide (chain.length ≤ 4) && decide (chain.flatten.length ≤ 8192)
    && chain.all Config.certificateP384 && chainSigned chain

/-- SPDM certificate chain of a requester: length, two reserved bytes, digest of the first certificate, certificates. -/
def requesterChain (chain : List Bytes) : Bytes :=
  let body := sha384 (chain.headD []) ++ chain.flatten
  leBytes 2 (body.length + 4) ++ zeros 2 ++ body

/-- The requester's chain is accepted for its target. -/
def chainAccepted (s : State) (target : Nat) (chain : List Bytes) : Bool :=
  let first := chain.headD []
  chainForm chain && (if target = operatorTarget then
      s.alm.anchors.contains (sha384 (Config.certificateKey first)) || (s.alm.anchors.isEmpty && s.mer.lc == .test)
    else Config.signedBy first (Config.certificateKey first))

/-- Why a session is refused at KEY_EXCHANGE; the free session otherwise. -/
def exchangeJudge (s : State) (target : Nat) : SpdmCode ⊕ Fin 8 :=
  let free : SpdmCode ⊕ Fin 8 := match (idxs 8).find? fun i => s.spdm.sessions[i].isNone with
    | some i => .inr i
    | none => .inl .sessionLimitExceeded
  if target = operatorTarget then
    if s.alm.anchors.isEmpty ∧ s.mer.lc ≠ .test then .inl .unexpectedRequest
    else if s.spdm.sessions.toList.any fun c => c.any fun y => y.target == target then .inl .sessionLimitExceeded
    else free
  else match fin? 8 target with
    | none => .inl .invalidRequest
    | some n => if s.reach[n].state = .empty ∨ s.reach[n].state = .dredging then .inl .unexpectedRequest else free

/-- A secured message of a session in a phase: discarded without an answer where the session has ended (R292). -/
def secured (what : String) (i : Fin 8) (phase : SessPhase) (f : Session → State → State) (s : State) : State :=
  onMessage what (fun s =>
    match s.spdm.sessions[i] with
    | none => refuse what Code.badState s
    | some y => inSession what i y (fun s =>
        if y.phase = phase then f y s else spdmError what .unexpectedRequest s) s) s

/-- An SPDM request inside a session. -/
def securedSpdm (what : String) (i : Fin 8) (phase : SessPhase) (f : Session → State → State) (s : State) : State :=
  secured what i phase (fun y s => match spdmRefusal s with
    | some c => spdmError what c s
    | none => f y s) s

/-- A GX request in service, outside any session or in one: the endpoint it comes from (R291). -/
def gxRequest (what : String) (sess : Option (Fin 8)) (ep : Nat) (f : Nat → State → State) (s : State) : State :=
  let g : Nat → State → State := fun ep s => match gxRefusal s with
    | some st => refuseMgmt what st s
    | none => f ep s
  match sess with
  | none => onMessage what (g ep) s
  | some i => secured what i .established (fun y => g y.ep) s

/-- A GX request inside a tenant session: the reach it names. -/
def tenantGx (what : String) (i : Fin 8) (f : Session → ReachId → State → State) (s : State) : State :=
  gxRequest what (some i) 0 (fun _ s =>
    match s.spdm.sessions[i] with
    | none => refuseMgmt what Code.badState s
    | some y => match fin? 8 y.target with
      | some n => f y n s
      | none => refuseMgmt what Code.badState s) s

/-- Change a session's record. -/
def onSession (i : Fin 8) (f : Session → Session) (s : State) : State :=
  s.onSpdm fun x => { x with sessions := upd x.sessions i fun c => c.map f }

/-! ### Package keys (R170, R243, R255, R258, R294) -/

/-- Derivation from the roots is stopped: the status it is refused with (R243, R251). -/
def rootsBad (s : State) : Option Nat :=
  if s.mer.rootsStopped || s.mer.lcMarginal then some Code.almMarginal
  else if s.alm.part 3 = .lockedInvalid then some Code.almLockedInvalid else none

/-- The reach is LOADING and holds no package key. -/
def wantsKey (s : State) (n : ReachId) : Bool := s.reach[n].state == .loading && !slotValid s (keySlot s n 3)

/-- Why an offer is refused. -/
def offerBad (s : State) (n : ReachId) : Option Nat := if wantsKey s n then rootsBad s else some Code.badState

/-- Why a delivery is refused before its operation runs; the memory keys derive from slot 1, which must be VALID (R251). -/
def deliverBad (s : State) (y : Session) (n : ReachId) : Option Nat :=
  if y.offer.isNone || !wantsKey s n then some Code.badState
  else if y.lapsed then some Code.keyExpired
  else match rootsBad s with
    | some st => some st
    | none => if slotValid s 1 then none else some Code.badState

/-- An accepted delivery: binding, package key and the three memory keys. -/
def deliverKey (n : ReachId) (chainDigest body : Bytes) (s : State) : State :=
  let nonce := slice body 32 8
  let limit := leAt body 40 4
  let binding := sha384 (chainDigest ++ nonce ++ [BitVec.ofNat 8 n.val])
  let s := chrAlways Chr.meridian 0 1 s
  let s := forAll [0, 1, 2] (fun k s => if slotValid s (keySlot s n k) then invalidateSlot (keySlot s n k) s else s) s
  let s := writeSlot (keySlot s n 3) (slice body 0 32) 0 none n.val [.loadGcm] .counted (if limit = 0 then 2 ^ 24 else limit) s
  let ctx := memContext s binding
  let one : Nat → Nat → Engine → State → State := fun k label e s =>
    writeSlot (keySlot s n k) (derivedKey s 1 label ctx) 0 (some 1) n.val [e] .unlimited 0 s
  let s := one 2 5 .culvertTag (one 1 4 .culvertXts (one 0 3 .culvertXts s))
  s.onReach n fun x => { x with binding, tenantChain := chainDigest, nonce }

end Sys2Proof.Machine
end

