-- ==== Sys2Proof/Machine/Spdm.lean ====
section
/-! DEFINITION. Meanings of the SPDM requests and of the GX requests of R291, of session and offer timers (R288 to R296), and of
step 8 of a start (R224, R280). -/

namespace Sys2Proof.Machine

/-- ROOT_DERIVATION_DONE: step 8; twilight's requests are then cancelled (R236). Where an operation of Astrolabe has failed, the
step is still to be done (R272). -/
def execRootDerivationDone (s : State) : Out :=
  if s.mer.step ≠ .twilight ∨ s.mer.halted then .next (refuse "ROOT_DERIVATION_DONE" Code.badState s)
  else
    match rootsBad s with
    | some st => .next (refuse "ROOT_DERIVATION_DONE" st s)
    | none =>
      if s.eph.tamper || astBusy s.ast || s.ast.state == .faulted || !s.eph.drbgOk then
        .next (refuse "ROOT_DERIVATION_DONE" Code.badState s)
      else
        let t := buildIdentity (deriveSeeds s)
        if astWell t then
          let t := t.onMer fun m => { m with step := .derived }
          .next (if t.mer.twilightModel then cancelAll twilightSvc t else t)
        else .next (refuse "ROOT_DERIVATION_DONE" Code.badState (t.onMer fun _ => s.mer))

/-! ### Version, capabilities, algorithms (R289) -/

/-- GET_VERSION: 1.1, 1.2 and 1.3. -/
def execGetVersion (_ep : Nat) (s : State) : Out :=
  .next (openRequest "GET_VERSION" (answerSpdm .ok [0x11, 0x12, 0x13]) s)

/-- The capability flags of R289 as DSP0274 places them: CHUNK from 1.2 (PRESUMED, assumption 108). -/
def capabilityFlags (version : Nat) : Nat := if version < 0x12 then 0x000073D6 else 0x000273D6

/-- GET_CAPABILITIES: CTExponent 15 and the flags; the endpoint speaks the version of its request from then on. -/
def execGetCapabilities (ep : Nat) (s : State) (version : Nat := 0x12) : Out :=
  .next (openRequest "GET_CAPABILITIES" (fun s =>
    if version < 0x11 ∨ 0x13 < version then spdmError "GET_CAPABILITIES" .invalidRequest s
    else answerSpdm .ok ((15 : Byte) :: leBytes 4 (capabilityFlags version)) (s.onSpdm fun x =>
      { x with versions := (ep, version) :: x.versions.filter fun v => v.1 != ep })) s)

/-- NEGOTIATE_ALGORITHMS. -/
def execNegotiateAlgorithms (_ep : Nat) (sel : AlgSel) (s : State) : Out :=
  .next (openRequest "NEGOTIATE_ALGORITHMS" (fun s =>
    if sel.asym && sel.hash && sel.dhe && sel.aead && sel.keySchedule then answerSpdm .ok [] s
    else spdmError "NEGOTIATE_ALGORITHMS" .invalidRequest s) s)

/-! ### Certificates and measurements (R290) -/

def execGetDigests (_ep : Nat) (s : State) : Out :=
  .next (spdmRequest "GET_DIGESTS" (fun s => answerSpdm .ok (sha384 (spdmChain s)) s) s)

/-- GET_CERTIFICATE: the portion's length, what remains after it, and the portion. -/
def execGetCertificate (ep slot offset length : Nat) (s : State) : Out :=
  .next (spdmRequest "GET_CERTIFICATE" (fun s =>
    let c := spdmChain s
    if slot ≠ 0 ∨ c.length ≤ offset then spdmError "GET_CERTIFICATE" .invalidRequest s
    else
      let d := (c.drop offset).take length
      spdmReply ep (leBytes 2 d.length ++ leBytes 2 (c.length - offset - d.length) ++ d) s) s)

/-- CHALLENGE: chain digest, a nonce, and a signature by the attestation P-384 key. -/
def serveChallenge (ep slot : Nat) (nonce : Vector Byte 32) (s : State) : State :=
  spdmRequest "CHALLENGE" (fun s =>
    if slot ≠ 0 then spdmError "CHALLENGE" .invalidRequest s
    else withAst ep 0xE (.challenge ep slot nonce) (fun s =>
      let (rnd, s) := draw 32 s
      let head := sha384 (spdmChain s) ++ rnd
      let (sig, s) := signDigest (Config.spdmDigest 0 (nonce.toList ++ head)).toList s
      signedReply "CHALLENGE" ep (head ++ sig) s) s) s

def execChallenge (ep slot : Nat) (nonce : Vector Byte 32) (s : State) : Out := .next (serveChallenge ep slot nonce s)

/-- Values of a measurement index: 1 to 10 one register, 0xFF all ten, 0 their number (PRESUMED: the standard's index 0). -/
def measurementBlock (s : State) (index : Nat) : Option Bytes :=
  let all := (s.meas.toList.take 10).map fun m => m.value
  if index = 0 then some [10]
  else if index = 0xFF then some all.flatten
  else if index ≤ 10 then all[index - 1]? else none

def serveMeasurements (ep index : Nat) (nonce : Vector Byte 32) (s : State) : State :=
  spdmRequest "GET_MEASUREMENTS" (fun s =>
    match measurementBlock s index with
    | none => spdmError "GET_MEASUREMENTS" .invalidRequest s
    | some b => withAst ep 0xE (.getMeasurements ep index nonce) (fun s =>
      let (rnd, s) := draw 32 s
      let (sig, s) := signDigest (Config.spdmDigest 4 (nonce.toList ++ b ++ rnd)).toList s
      signedReply "GET_MEASUREMENTS" ep (b ++ rnd ++ sig) s) s) s

def execGetMeasurements (ep index : Nat) (nonce : Vector Byte 32) (s : State) : Out :=
  .next (serveMeasurements ep index nonce s)

/-! ### Sessions (R292) -/

/-- VendorID of R290, which KEY_EXCHANGE's OpaqueData names. -/
def gxVendor : Nat := 0x475A4F56

/-- KEY_EXCHANGE accepted: an ephemeral key, the shared secret, the handshake keys; HeartbeatPeriod 60, and the encapsulated
GET_DIGESTS and GET_CERTIFICATE of mutual authentication, whose answers FINISH carries here. -/
def openExchange (i : Fin 8) (ep target : Nat) (exchange : Bytes) (s : State) : State :=
  let (made, q, s) := astRun .p384Keygen 0xE 120 none 0 [] s
  let (st, secret, s) := astRun .p384Ecdh 0xE 120 none 0 (padTo 0 96 exchange) s
  if made = Code.done ∧ st = Code.bnInputReject then spdmError "KEY_EXCHANGE" .invalidRequest s
  else
    let (rnd, s) := draw 32 s
    let th2 := (Config.spdmDigest 1 (leBytes 1 target ++ exchange ++ q ++ rnd ++ spdmChain s)).toList
    let (sig, s) := signDigest th2 s
    if made ≠ Code.done ∨ st ≠ Code.done ∨ !astWell s then spdmError "KEY_EXCHANGE" .unexpectedRequest s
    else
      let y : Session := { target, ep, phase := .exchanged, th2, secret, lastAt := secPs s }
      let s := sessionKeys i 0 y (s.onSpdm fun x =>
        { x with sessions := put x.sessions i (some y), drained := put x.drained i false })
      let s := spdmReply ep (leBytes 1 i.val ++ [60] ++ q ++ rnd ++ sig) s
      emit (.encap (mctp s) true) (emit (.encap (mctp s) false) s)

/-- An element of another vendor is no TARGET (DESIGN CHOICE, assumption 108: InvalidRequest). -/
def serveKeyExchange (ep : Nat) (vendor : Word) (target : Nat) (exchange : Bytes) (s : State) : State :=
  spdmRequest "KEY_EXCHANGE" (fun s =>
    if vendor.toNat ≠ gxVendor then spdmError "KEY_EXCHANGE" .invalidRequest s
    else match exchangeJudge s target with
    | .inl c => spdmError "KEY_EXCHANGE" c s
    | .inr i => withAst ep 0xE (.keyExchange ep target exchange vendor) (openExchange i ep target exchange) s) s

def execKeyExchange (ep target : Nat) (exchange : Bytes) (s : State) (vendor : Word := 0x475A4F56) : Out :=
  .next (serveKeyExchange ep vendor target exchange s)

/-- FINISH judged: the chain, then the signature under its last key. Each certificate and the signature is one
P384_VERIFY. -/
def finishExchange (i : Fin 8) (y : Session) (chain : List Bytes) (signature : Bytes) (s : State) : State :=
  let d := (Config.spdmDigest 2 (y.th2 ++ chain.flatten)).toList
  let s := chrAlways Chr.meridian 2 chain.length s
  let (st, _, s) := astRun .p384Verify 0xE 0 none 0
    (padTo 0 96 (Config.certificateKey (chain.getLastD [])) ++ d ++ padTo 0 96 signature) s
  if chainAccepted s y.target chain && st == Code.done && s.ast.resVerdict then
    let z : Session :=
      { y with
        phase := .established, chainDigest := sha384 (requesterChain chain), lastAt := secPs s
        th2 := (Config.spdmDigest 3 (y.th2 ++ chain.flatten ++ signature)).toList }
    answerSpdm .ok [] (sessionKeys i 1 z (onSession i (fun _ => z) s))
  else spdmError "FINISH" .invalidRequest (endSession i s)

def serveFinish (sess : Fin 8) (chain : List Bytes) (signature : Bytes) (s : State) : State :=
  securedSpdm "FINISH" sess .exchanged (fun y s =>
    withAst y.ep 0xE (.finish sess chain signature) (finishExchange sess y chain signature) s) s

def execFinish (sess : Fin 8) (chain : List Bytes) (signature : Bytes) (s : State) : Out :=
  .next (serveFinish sess chain signature s)

def execHeartbeat (sess : Fin 8) (s : State) : Out :=
  .next (securedSpdm "HEARTBEAT" sess .established (fun _ => answerSpdm .ok []) s)

/-- KEY_UPDATE: the next keys, with USES 2^20 again. -/
def execKeyUpdate (sess : Fin 8) (s : State) : Out :=
  .next (securedSpdm "KEY_UPDATE" sess .established (fun y s =>
    let z : Session := { y with secret := slotKey s (sessSlots sess).1 ++ slotKey s (sessSlots sess).2, lastAt := secPs s }
    answerSpdm .ok [] (sessionKeys sess 2 z (onSession sess (fun _ => z) s))) s)

def execEndSession (sess : Fin 8) (s : State) : Out :=
  .next (securedSpdm "END_SESSION" sess .established (fun _ s => endSession sess (answerSpdm .ok [] s)) s)

/-- SESSION_IDLE_TIMEOUT: no message for 120 s. -/
def execSessionIdleTimeout (sess : Fin 8) (s : State) : Out :=
  match s.spdm.sessions[sess] with
  | none => .next (refuse "SESSION_IDLE_TIMEOUT" Code.badState s)
  | some y =>
    if waited (secPs s) y.lastAt (120 * secondPs) && !s.mer.halted then .next (endSession sess s)
    else .next (refuse "SESSION_IDLE_TIMEOUT" Code.badState s)

/-! ### Large messages (R290) -/

/-- The SPDM version of an endpoint; 0 before its GET_CAPABILITIES. -/
def versionOf (s : State) (ep : Nat) : Nat := match s.spdm.versions.find? fun v => v.1 == ep with
  | some v => v.2
  | none => 0

/-- A request of 1.2 and later; any other request is answered UnsupportedRequest before. -/
def chunkRequest (what : String) (ep : Nat) (f : State → State) (s : State) : State :=
  spdmRequest what (fun s => if versionOf s ep < 0x12 then spdmError what .unsupportedRequest s else f s) s

/-- Request codes that R290 answers (PRESUMED: the numbers of DSP0274, assumption 108). -/
def requestCodes : List Nat :=
  [0x81, 0x82, 0x83, 0x84, 0x85, 0x86, 0xE0, 0xE1, 0xE3, 0xE4, 0xE5, 0xE8, 0xE9, 0xEA, 0xEB, 0xEC, 0xFE, 0xFF]

/-- GX opcodes of R291 and R390. -/
def gxOpcode (n : Nat) : Bool :=
  decide (1 ≤ n ∧ n ≤ 6) || decide (0x10 ≤ n ∧ n ≤ 0x1B) || decide (0x20 ≤ n ∧ n ≤ 0x22) || decide (0x24 ≤ n ∧ n ≤ 0x2A)
    || decide (0x30 ≤ n ∧ n ≤ 0x36) || decide (0x38 ≤ n ∧ n ≤ 0x3D)

/-- A message of no row of R290, or of no GX opcode, is answered by its code; any other is the command of its own row (R290,
R291, R390). Its header is that of DSP0274: version, request code, two parameters; then StandardID, the length of the VendorID,
the VendorID and the payload's length (PRESUMED, assumption 108). -/
def strayRequest (m : Bytes) : Option (State → State) :=
  let code := leAt m 1 1
  if code ∉ requestCodes then some (spdmError "CHUNK_SEND" .unsupportedRequest)
  else if code ≠ 0xFE then none
  else if leAt m 4 2 ≠ 4 ∨ leAt m 6 1 ≠ 4 ∨ leAt m 7 4 ≠ gxVendor then some (spdmError "CHUNK_SEND" .unsupportedRequest)
  else if gxOpcode (leAt m 13 1) then none
  else some (refuseMgmt "CHUNK_SEND" Code.badDescriptor)

/-- CHUNK_SEND: chunks of one large request, in order; the assembled request is then the command of its own row, or answered
here where it has none. -/
def execChunkSend (ep seqNo : Nat) (last : Bool) (data : Bytes) (s : State) : Out :=
  .next (chunkRequest "CHUNK_SEND" ep (fun s =>
    let held := s.spdm.chunks.find? fun c => c.1 == ep
    let others := s.spdm.chunks.filter fun c => c.1 != ep
    let want := match held with
      | some c => c.2.1
      | none => 0
    if seqNo ≠ 0 ∧ seqNo ≠ want then
      spdmError "CHUNK_SEND" .invalidRequest (s.onSpdm fun x => { x with chunks := others })
    else
      let sofar := if seqNo = 0 then [] else match held with
        | some c => c.2.2
        | none => []
      let s := s.onSpdm fun x => { x with chunks := if last then others else (ep, seqNo + 1, sofar ++ data) :: others }
      match if last then strayRequest (sofar ++ data) else none with
      | some f => f s
      | none => answerSpdm .ok (leBytes 2 seqNo) s) s)

/-- CHUNK_GET: a part of the large response kept for the endpoint. -/
def execChunkGet (ep seqNo : Nat) (s : State) : Out :=
  .next (chunkRequest "CHUNK_GET" ep (fun s =>
    match s.spdm.large.find? fun c => c.1 == ep with
    | none => spdmError "CHUNK_GET" .unexpectedRequest s
    | some c =>
      let off := partBytes * seqNo
      if c.2.length ≤ off then spdmError "CHUNK_GET" .invalidRequest s
      else
        let last := decide (c.2.length ≤ off + partBytes)
        answerSpdm .ok (leBytes 1 (b2n last) ++ leBytes 2 seqNo ++ (c.2.drop off).take partBytes)
          (if last then s.onSpdm fun x => { x with large := x.large.filter fun c => c.1 != ep } else s)) s)

/-! ### GX requests (R291, R294) -/

/-- A new report: sampled, signed and kept for its later parts; BAD_STATE where an operation of Astrolabe has failed (R272,
R283, R291). -/
def newReport (ep : Nat) (reach : Option ReachId) (fmt : Nat) (nonce : Bytes) (s : State) : State :=
  let (b, s) := if fmt = 0 then nativeReport reach nonce s else token reach nonce s
  if !astWell s then refuseMgmt "GX_REPORT" Code.badState s
  else
    let s := chrAlways Chr.meridian 4 1 s
    replyPart b 0 (s.onSpdm fun x =>
      { x with reports := { ep, nonce, bytes := b } :: x.reports.filter fun r => !(r.ep == ep && r.nonce == nonce) })

def serveReport (sess : Option (Fin 8)) (ep reach fmt : Nat) (nonce : Vector Byte 32) (offset : Nat) (s : State) : State :=
  gxRequest "GX_REPORT" sess ep (fun ep s =>
    if 1 < fmt ∨ (8 ≤ reach ∧ reach ≠ 0xFF) then refuseMgmt "GX_REPORT" Code.badDescriptor s
    else if 0 < offset then
      match s.spdm.reports.find? fun r => r.ep == ep && r.nonce == nonce.toList with
      | some r => replyPart r.bytes offset s
      | none => refuseMgmt "GX_REPORT" Code.badState s
    else if (fin? 8 reach).any fun n => s.reach[n].state == .empty || s.reach[n].state == .dredging then
      refuseMgmt "GX_REPORT" Code.badState s
    else withAst ep 0xE (.gxReport ep reach fmt nonce offset sess) (newReport ep (fin? 8 reach) fmt nonce.toList) s) s

def execGxReport (ep reach fmt : Nat) (nonce : Vector Byte 32) (offset : Nat) (s : State) (sess : Option (Fin 8) := none) : Out :=
  .next (serveReport sess ep reach fmt nonce offset s)

def execGxPqChain (ep offset : Nat) (s : State) (sess : Option (Fin 8) := none) : Out :=
  .next (gxRequest "GX_PQ_CHAIN" sess ep (fun _ s => replyPart (servedChain s true).flatten offset s) s)

/-- Identity fields of the Almanac: zero while its partition is LOCKED_INVALID (R310, R323). -/
def identityWords (s : State) : Bytes := (List.range 47).flatMap fun i => leBytes 8 (s.alm.used (0x050 + i)).toNat

/-- GX_IDENTITY, in every phase (R291, R295, R323). The identity fields follow the fields of R291 (DESIGN CHOICE, assumption
102). -/
def execGxIdentity (_ep : Nat) (s : State) : Out :=
  .next (onMessage "GX_IDENTITY" (fun s =>
    answer Code.done (padTo 0 48 s.mer.deviceId ++ leBytes 4 0x474F5258 ++ leBytes 4 0x00020400 ++ leBytes 4 (variantWord s).toNat
      ++ identityWords s) s) s)

/-- Key-area line of an offer: the lowest place of an ML-KEM entry that no other offer to the reach holds (DESIGN CHOICE,
assumption 109). -/
def offerLine (s : State) (n : ReachId) : Nat :=
  let taken := (s.spdm.sessions.toList.filterMap id).filterMap fun y => if y.target = n.val ∧ !y.lapsed then y.offer else none
  ([0, 50, 100, 150, 200].find? fun l => !taken.contains l).getD 0

/-- An offer is made: one whose key stood at the same line has lapsed. -/
def recordOffer (i : Fin 8) (n : ReachId) (line : Nat) (s : State) : State :=
  s.onSpdm fun x =>
    { x with
      sessions := vmapIdx (fun j (c : Option Session) => c.map fun y =>
        if j = i then { y with offer := some line, lapsed := false }
        else if y.target = n.val ∧ y.offer = some line then { y with lapsed := true } else y) x.sessions
      hold := some (i, n.val), holdAt := secPs s }

/-- An ML-KEM key pair for a delivery; Astrolabe is held for its reach (R293, R294). -/
def newOffer (i : Fin 8) (n : ReachId) (s : State) : State :=
  let line := offerLine s n
  let (st, ek, s) := astRun .mlkemKeygen n.val line none 0 [] s
  if st = Code.done then answer st ek (recordOffer i n line s) else refuseMgmt "GX_KEY_OFFER" Code.badState s

def serveKeyOffer (sess : Fin 8) (s : State) : State :=
  tenantGx "GX_KEY_OFFER" sess (fun y n s =>
    match offerBad s n with
    | some st => refuseMgmt "GX_KEY_OFFER" st s
    | none => withAst y.ep n.val (.gxKeyOffer sess) (newOffer sess n) s) s

def execGxKeyOffer (sess : Fin 8) (s : State) : Out := .next (serveKeyOffer sess s)

/-- The offer is spent, and Astrolabe no longer held for it. -/
def spendOffer (i : Fin 8) (s : State) : State :=
  (onSession i (fun y => { y with offer := none, lapsed := false }) s).onSpdm fun x =>
    { x with hold := if x.hold.any fun h => h.1 == i then none else x.hold }

/-- Meridian zeroes the key that it has moved out of Astrolabe (R294). -/
def zeroMoved (s : State) : State :=
  s.onMer fun m => { m with sram := memClear m.sram (0x80000 + 64 * (Config.astLine true).val) 64 }

/-- A delivery to an offer: MLKEM_DECAPS, then the GCM opened under K, which is zeroed (R294). -/
def takeDelivery (i : Fin 8) (y : Session) (n : ReachId) (c iv wrapped tag : Bytes) (s : State) : State :=
  let (st, k, s) := astRun .mlkemDecaps n.val (y.offer.getD 0) none 0 (padTo 0 1568 c) s
  let s := zeroMoved (spendOffer i s)
  if st ≠ Code.done then refuseMgmt "GX_KEY_DELIVER" Code.badState s
  else match gcmOpen k iv (BitVec.ofNat 8 n.val :: y.th2) wrapped tag with
  | some body => answer Code.done [] (deliverKey n y.chainDigest body s)
  | none => refuseMgmt "GX_KEY_DELIVER" Code.badDescriptor s

/-- A delivery in a session that the drain of its LOADING reach has ended is answered BAD_STATE (R296). -/
def lateDelivery (i : Fin 8) (s : State) : State :=
  onMessage "GX_KEY_DELIVER" (fun s =>
    refuseMgmt "GX_KEY_DELIVER" Code.badState (asType 0x06 (s.onSpdm fun x => { x with drained := put x.drained i false }))) s

def serveKeyDeliver (sess : Fin 8) (c iv wrapped tag : Bytes) (s : State) : State :=
  if s.spdm.sessions[sess].isNone && s.spdm.drained[sess] then lateDelivery sess s
  else tenantGx "GX_KEY_DELIVER" sess (fun y n s =>
    match deliverBad s y n with
    | some st => refuseMgmt "GX_KEY_DELIVER" st (spendOffer sess s)
    | none =>
      if c.length ≠ 1568 ∨ iv.length ≠ 12 ∨ wrapped.length ≠ 44 ∨ tag.length ≠ 16 then
        refuseMgmt "GX_KEY_DELIVER" Code.badDescriptor (spendOffer sess s)
      else withAst y.ep n.val (.gxKeyDeliver sess c iv wrapped tag) (takeDelivery sess y n c iv wrapped tag) s) s

def execGxKeyDeliver (sess : Fin 8) (c iv wrapped tag : Bytes) (s : State) : Out :=
  .next (serveKeyDeliver sess c iv wrapped tag s)

/-- GX_DRAIN: the tenant drains its own reach (R169, R291). -/
def execGxDrain (sess : Fin 8) (mode : Nat) (s : State) : Out :=
  .next (tenantGx "GX_DRAIN" sess (fun _ n s =>
    let s := chrAlways Chr.meridian 0 1 s
    judged "GX_DRAIN" (if 1 < mode then some Code.badDescriptor else drainBad s n (mode == 1)) (drainReach n (mode == 1)) s) s)

/-- KEY_OFFER_LAPSE: 100 ms since the offer; Astrolabe serves other owners again (R293). -/
def execKeyOfferLapse (s : State) : Out :=
  if s.spdm.hold.isSome && !s.mer.halted && waited (secPs s) s.spdm.holdAt (secondPs / 10) then
    .next (s.onSpdm fun x => { x with hold := none })
  else .next (refuse "KEY_OFFER_LAPSE" Code.badState s)

/-- RESPOND_IF_READY: the request behind a token is served; it may be answered ResponseNotReady again, with a new token. -/
def execRespondIfReady (ep token : Nat) (s : State) : Out :=
  match s.spdm.deferred.find? fun d => d.1 == ep && d.2.1 == token with
  | none => .next (spdmRequest "RESPOND_IF_READY" (spdmError "RESPOND_IF_READY" .unexpectedRequest) s)
  | some d =>
    let s := s.onSpdm fun x => { x with deferred := x.deferred.filter fun d => !(d.1 == ep && d.2.1 == token) }
    match d.2.2 with
    | .challenge ep slot nonce => .next (serveChallenge ep slot nonce s)
    | .getMeasurements ep index nonce => .next (serveMeasurements ep index nonce s)
    | .keyExchange ep target exchange vendor => .next (serveKeyExchange ep vendor target exchange s)
    | .finish sess chain signature => .next (serveFinish sess chain signature s)
    | .gxReport ep reach fmt nonce offset sess => .next (serveReport sess ep reach fmt nonce offset s)
    | .lcAdvance token => .next (serveLcAdvance token s)
    | .gxKeyOffer sess => .next (serveKeyOffer sess s)
    | .gxKeyDeliver sess c iv wrapped tag => .next (serveKeyDeliver sess c iv wrapped tag s)
    | _ => .next s

end Sys2Proof.Machine
end

