-- ==== Sys2Proof/Machine/Dispatch.lean ====
section
/-! DEFINITION. One arm per command: the meaning it calls. -/

namespace Sys2Proof.Machine

def exec (i : Instr) (s : State) : Host.Outcome State Fault Refusal :=
  match i with
  | .porNAssert recordCut => Sys2Proof.Machine.execPorNAssert s recordCut
  | .porNRelease => Sys2Proof.Machine.execPorNRelease s
  | .sysRstNAssert refCycles => Sys2Proof.Machine.execSysRstNAssert refCycles s
  | .sysRstNRelease => Sys2Proof.Machine.execSysRstNRelease s
  | .refClockLoss => Sys2Proof.Machine.execRefClockLoss s
  | .refClockRestored => Sys2Proof.Machine.execRefClockRestored s
  | .tamper input sluiceCycles => Sys2Proof.Machine.execTamper input sluiceCycles s
  | .securityRestart cause => Sys2Proof.Machine.execSecurityRestart cause s
  | .pwrAck rail => Sys2Proof.Machine.execPwrAck rail s
  | .pwrFault rail => Sys2Proof.Machine.execPwrFault rail s
  | .railAckTimeout rail => Sys2Proof.Machine.execRailAckTimeout rail s
  | .sensorUpdate k value => Sys2Proof.Machine.execSensorUpdate k value s
  | .sensorStale k => Sys2Proof.Machine.execSensorStale k s
  | .dieSensorSample samples => Sys2Proof.Machine.execDieSensorSample samples s
  | .calibrationWindowEnd counts keeperRefs upsets => Sys2Proof.Machine.execCalibrationWindowEnd counts s keeperRefs upsets
  | .almanacFullRead marginal spareMarginal => Sys2Proof.Machine.execAlmanacFullRead marginal spareMarginal s
  | .firmwareSetLoaded => Sys2Proof.Machine.execFirmwareSetLoaded s
  | .quickPassEnd fails => Sys2Proof.Machine.execQuickPassEnd fails s
  | .twilightPackageLoad => Sys2Proof.Machine.execTwilightPackageLoad s
  | .twilightBegin => Sys2Proof.Machine.execTwilightBegin s
  | .rootDerivationDone => Sys2Proof.Machine.execRootDerivationDone s
  | .twilightEnd => Sys2Proof.Machine.execTwilightEnd s
  | .mptCreditGrant p kind => Sys2Proof.Machine.execMptCreditGrant p kind s
  | .wheelSlot p => Sys2Proof.Machine.execWheelSlot p s
  | .mptReadResponse p tag status data => Sys2Proof.Machine.execMptReadResponse p tag status data s
  | .mptWriteAck p tag status => Sys2Proof.Machine.execMptWriteAck p tag status s
  | .mptReadTimeout p tag => Sys2Proof.Machine.execMptReadTimeout p tag s
  | .latencyLevelRelease p kind tag => Sys2Proof.Machine.execLatencyLevelRelease p kind tag s
  | .registerWrite trusted addr size data => Sys2Proof.Machine.execRegisterWrite trusted addr size data s
  | .sysObCredit kind => Sys2Proof.Machine.execSysObCredit kind s
  | .sysWheelSlot => Sys2Proof.Machine.execSysWheelSlot s
  | .sysObReadResponse tag ok data => Sys2Proof.Machine.execSysObReadResponse tag ok data s
  | .sysObWriteAck tag ok => Sys2Proof.Machine.execSysObWriteAck tag ok s
  | .sysObTimeout kind tag => Sys2Proof.Machine.execSysObTimeout kind tag s
  | .sysResponseRelease kind tag => Sys2Proof.Machine.execSysResponseRelease kind tag s
  | .sqDoorbell r q trusted data => Sys2Proof.Machine.execSqDoorbell r q trusted data s
  | .cqHeadWrite r trusted data => Sys2Proof.Machine.execCqHeadWrite r trusted data s
  | .ringEnable r ring trusted data => Sys2Proof.Machine.execRingEnable r ring trusted data s
  | .ringDisable r ring trusted data => Sys2Proof.Machine.execRingDisable r ring trusted data s
  | .descriptorFetched r q => Sys2Proof.Machine.execDescriptorFetched r q s
  | .submit r q kc => Sys2Proof.Machine.execSubmit r q kc s
  | .cancel r q kc => Sys2Proof.Machine.execCancel r q kc s
  | .load r q kc => Sys2Proof.Machine.execLoad r q kc s
  | .descNop r q kc => Sys2Proof.Machine.execDescNop r q kc s
  | .stagingComplete r kc => Sys2Proof.Machine.execStagingComplete r kc s
  | .recordWritten r => Sys2Proof.Machine.execRecordWritten r s
  | .irqPendClear data => Sys2Proof.Machine.execIrqPendClear data s
  | .formCycle r kc => Sys2Proof.Machine.execFormCycle r kc s
  | .stepToken b => Sys2Proof.Machine.execStepToken b s
  | .stepRefusal r b => Sys2Proof.Machine.execStepRefusal r b s
  | .stepDoneToken r b kc => Sys2Proof.Machine.execStepDoneToken r b kc s
  | .commitPoint r kc => Sys2Proof.Machine.execCommitPoint r kc s
  | .deadlineTestTick r kc => Sys2Proof.Machine.execDeadlineTestTick r kc s
  | .tollCfgWrite n c trusted kc data => Sys2Proof.Machine.execTollCfgWrite n c trusted kc data s
  | .tollCapWrite n c trusted data => Sys2Proof.Machine.execTollCapWrite n c trusted data s
  | .nop b => Sys2Proof.Machine.execNop b s
  | .wait b ta ca tb cb tc cc => Sys2Proof.Machine.execWait b ta ca tb cb tc cc s
  | .signal b tgt lb ch amt cv cc => Sys2Proof.Machine.execSignal b tgt lb ch amt cv cc s
  | .cgive b lb ch amt => Sys2Proof.Machine.execCgive b lb ch amt s
  | .clim b ch lim => Sys2Proof.Machine.execClim b ch lim s
  | .stepdone b => Sys2Proof.Machine.execStepdone b s
  | .fence b => Sys2Proof.Machine.execFence b s
  | .li b d imm => Sys2Proof.Machine.execLi b d imm s
  | .salu b d ra rb fn => Sys2Proof.Machine.execSalu b d ra rb fn s
  | .sld b d off => Sys2Proof.Machine.execSld b d off s
  | .sst b ra addr => Sys2Proof.Machine.execSst b ra addr s
  | .tdset b desc dim ra => Sys2Proof.Machine.execTdset b desc dim ra s
  | .loop b ra len => Sys2Proof.Machine.execLoop b ra len s
  | .br b ra rb cond off => Sys2Proof.Machine.execBr b ra rb cond off s
  | .mma b dst srcA srcB mm1 nm1 kreg depth part => Sys2Proof.Machine.execMma b dst srcA srcB mm1 nm1 kreg depth part s
  | .vop b fn vd va vb vc lm1 => Sys2Proof.Machine.execVop b fn vd va vb vc lm1 s
  | .vld b desc vd oreg lm1 => Sys2Proof.Machine.execVld b desc vd oreg lm1 s
  | .vst b desc va oreg lm1 => Sys2Proof.Machine.execVst b desc va oreg lm1 s
  | .vqst b desc va oreg => Sys2Proof.Machine.execVqst b desc va oreg s
  | .vred b desc vd kind nreg depth part pdesc => Sys2Proof.Machine.execVred b desc vd kind nreg depth part pdesc s
  | .vjoin b dst src nreg depth => Sys2Proof.Machine.execVjoin b dst src nreg depth s
  | .vbc b vd va lane => Sys2Proof.Machine.execVbc b vd va lane s
  | .vspl b vd ra => Sys2Proof.Machine.execVspl b vd ra s
  | .vrng b vd seed tok draw domain lm1 => Sys2Proof.Machine.execVrng b vd seed tok draw domain lm1 s
  | .vsel b pdesc idesc nreg va d greedy => Sys2Proof.Machine.execVsel b pdesc idesc nreg va d greedy s
  | .mld b dst src tv tch cv cch => Sys2Proof.Machine.execMld b dst src tv tch cv cch s
  | .mst b dst src tv tch cv cch => Sys2Proof.Machine.execMst b dst src tv tch cv cch s
  | .mxfr b dst src lb tv tch cv cch => Sys2Proof.Machine.execMxfr b dst src lb tv tch cv cch s
  | .mgth b dst src p16 tv tch => Sys2Proof.Machine.execMgth b dst src p16 tv tch s
  | .tokenArrival b ch => Sys2Proof.Machine.execTokenArrival b ch s
  | .creditArrival b ch => Sys2Proof.Machine.execCreditArrival b ch s
  | .bargeWatchdog b => Sys2Proof.Machine.execBargeWatchdog b s
  | .bargeFault b cause => Sys2Proof.Machine.execBargeFault b cause s
  | .migrationStart b => Sys2Proof.Machine.execMigrationStart b s
  | .migrationComplete b => Sys2Proof.Machine.execMigrationComplete b s
  | .bargeDredgeComplete b => Sys2Proof.Machine.execBargeDredgeComplete b s
  | .basinUnitEpochLost u => Sys2Proof.Machine.execBasinUnitEpochLost u s
  | .basinDredgeComplete r => Sys2Proof.Machine.execBasinDredgeComplete r s
  | .loadChunk => Sys2Proof.Machine.execLoadChunk s
  | .reachCreate reach flights units k base pages keys aqd => Sys2Proof.Machine.execReachCreate reach flights units k base pages keys aqd s
  | .reachDrain reach mode => Sys2Proof.Machine.execReachDrain reach mode s
  | .spill reach en => Sys2Proof.Machine.execSpill reach en s
  | .debugSet reach level => Sys2Proof.Machine.execDebugSet reach level s
  | .debugTap value => Sys2Proof.Machine.execDebugTap value s
  | .winRead offset count => Sys2Proof.Machine.execWinRead offset count s
  | .winWrite offset value => Sys2Proof.Machine.execWinWrite offset value s
  | .latLevel sys mpt => Sys2Proof.Machine.execLatLevel sys mpt s
  | .linkOpen link channel => Sys2Proof.Machine.execLinkOpen link channel s
  | .alertLog offset => Sys2Proof.Machine.execAlertLog offset s
  | .ackLog => Sys2Proof.Machine.execAckLog s
  | .linkWrapKey key => Sys2Proof.Machine.execLinkWrapKey key s
  | .lcNonce => Sys2Proof.Machine.execLcNonce s
  | .lcAdvance token => Sys2Proof.Machine.execLcAdvance token s
  | .lcScrap => Sys2Proof.Machine.execLcScrap s
  | .almProvisionWrite word value => Sys2Proof.Machine.execAlmProvisionWrite word value s
  | .almGenRoots => Sys2Proof.Machine.execAlmGenRoots s
  | .almLock part digest => Sys2Proof.Machine.execAlmLock part digest s
  | .almLicenseeWrite word value => Sys2Proof.Machine.execAlmLicenseeWrite word value s
  | .almRevoke index => Sys2Proof.Machine.execAlmRevoke index s
  | .almCounterAdvance counter value => Sys2Proof.Machine.execAlmCounterAdvance counter value s
  | .almRepair => Sys2Proof.Machine.execAlmRepair s
  | .stcStream offset data => Sys2Proof.Machine.execStcStream offset data s
  | .stcAbort => Sys2Proof.Machine.execStcAbort s
  | .stcConfirm => Sys2Proof.Machine.execStcConfirm s
  | .stcDrydock => Sys2Proof.Machine.execStcDrydock s
  | .stcRoute mask => Sys2Proof.Machine.execStcRoute mask s
  | .stcPush link => Sys2Proof.Machine.execStcPush link s
  | .watchWrite offset data => Sys2Proof.Machine.execWatchWrite offset data s
  | .pwrTrim driver t => Sys2Proof.Machine.execPwrTrim driver t s
  | .pwrKeep driver => Sys2Proof.Machine.execPwrKeep driver s
  | .pwrOff => Sys2Proof.Machine.execPwrOff s
  | .pwrBudget reach w8 => Sys2Proof.Machine.execPwrBudget reach w8 s
  | .pwrBoostEn reach en => Sys2Proof.Machine.execPwrBoostEn reach en s
  | .pwrDwell driver reach ms => Sys2Proof.Machine.execPwrDwell driver reach ms s
  | .pwrWake => Sys2Proof.Machine.execPwrWake s
  | .query => Sys2Proof.Machine.execQuery s
  | .dozeEnter n => Sys2Proof.Machine.execDozeEnter n s
  | .sluiceDecision activity => Sys2Proof.Machine.execSluiceDecision activity s
  | .sluiceSecondTick => Sys2Proof.Machine.execSluiceSecondTick s
  | .sluiceReplySend => Sys2Proof.Machine.execSluiceReplySend s
  | .loadRoot slot => Sys2Proof.Machine.execLoadRoot slot s
  | .ephWrite slot parent owner engines lifetime klen uses key => Sys2Proof.Machine.execEphWrite slot parent owner engines lifetime klen uses key s
  | .derive slot source owner label engines lifetime klen uses ctx => Sys2Proof.Machine.execDerive slot source owner label engines lifetime klen uses ctx s
  | .invalidate slot => Sys2Proof.Machine.execInvalidate slot s
  | .invalidateOwner owner => Sys2Proof.Machine.execInvalidateOwner owner s
  | .expireOwner owner => Sys2Proof.Machine.execExpireOwner owner s
  | .ephCmdDone => Sys2Proof.Machine.execEphCmdDone s
  | .keyUse slot engine owner => Sys2Proof.Machine.execKeyUse slot engine owner s
  | .drbgReseed healthy => Sys2Proof.Machine.execDrbgReseed healthy s
  | .p384Verify owner keyline => Sys2Proof.Machine.execP384Verify owner keyline s
  | .p384Sign owner keyline => Sys2Proof.Machine.execP384Sign owner keyline s
  | .p384Keygen owner keyline seedSrc label slot => Sys2Proof.Machine.execP384Keygen owner keyline seedSrc label slot s
  | .p384Ecdh owner keyline => Sys2Proof.Machine.execP384Ecdh owner keyline s
  | .ed25519Verify owner keyline => Sys2Proof.Machine.execEd25519Verify owner keyline s
  | .rsa4096Verify owner keyline => Sys2Proof.Machine.execRsa4096Verify owner keyline s
  | .rsa4096Crt owner keyline => Sys2Proof.Machine.execRsa4096Crt owner keyline s
  | .mlkemKeygen owner keyline => Sys2Proof.Machine.execMlkemKeygen owner keyline s
  | .mlkemEncaps owner keyline => Sys2Proof.Machine.execMlkemEncaps owner keyline s
  | .mlkemDecaps owner keyline => Sys2Proof.Machine.execMlkemDecaps owner keyline s
  | .mldsaKeygen owner keyline seedSrc label slot => Sys2Proof.Machine.execMldsaKeygen owner keyline seedSrc label slot s
  | .mldsaSign owner keyline => Sys2Proof.Machine.execMldsaSign owner keyline s
  | .mldsaVerify owner keyline => Sys2Proof.Machine.execMldsaVerify owner keyline s
  | .selftest owner => Sys2Proof.Machine.execSelftest owner s
  | .abort => Sys2Proof.Machine.execAbort s
  | .astrolabeOpDone invariantHolds selftestPasses parityError => Sys2Proof.Machine.execAstrolabeOpDone invariantHolds selftestPasses parityError s
  | .astDma addr dirOut bootStream line count owner storeAddr go => Sys2Proof.Machine.execAstDma addr dirOut bootStream line count owner storeAddr s go
  | .astDmaDone => Sys2Proof.Machine.execAstDmaDone s
  | .almRead word => Sys2Proof.Machine.execAlmRead word s
  | .almProgram word value => Sys2Proof.Machine.execAlmProgram word value s
  | .almLockPart part digest => Sys2Proof.Machine.execAlmLockPart part s digest
  | .almRepairCmd => Sys2Proof.Machine.execAlmRepairCmd s
  | .seeCritical => Sys2Proof.Machine.execSeeCritical s
  | .genRoots => Sys2Proof.Machine.execGenRoots s
  | .almCmdDone outcome marginal spareFails => Sys2Proof.Machine.execAlmCmdDone outcome marginal spareFails s
  | .almanacCriticalRead cause => Sys2Proof.Machine.execAlmanacCriticalRead cause s
  | .twpMsgWrite mid c w data => Sys2Proof.Machine.execTwpMsgWrite mid c w data s
  | .send mid c => Sys2Proof.Machine.execSend mid c s
  | .taken mid c => Sys2Proof.Machine.execTaken mid c s
  | .twpBindWrite mid c data => Sys2Proof.Machine.execTwpBindWrite mid c data s
  | .twpLock mid => Sys2Proof.Machine.execTwpLock mid s
  | .twpDbClear mid e data => Sys2Proof.Machine.execTwpDbClear mid e data s
  | .twpEmptyClear mid e data => Sys2Proof.Machine.execTwpEmptyClear mid e data s
  | .towpathStreamPiece => Sys2Proof.Machine.execTowpathStreamPiece s
  | .drydockStream link offset data => Sys2Proof.Machine.execDrydockStream link offset data s
  | .streamApplied storeOk => Sys2Proof.Machine.execStreamApplied storeOk s
  | .staircaseAck link ack => Sys2Proof.Machine.execStaircaseAck link ack s
  | .streamTimeout => Sys2Proof.Machine.execStreamTimeout s
  | .counter0AdvanceTimer => Sys2Proof.Machine.execCounter0AdvanceTimer s
  | .aqdWindowSlot l bothKeyed => Sys2Proof.Machine.execAqdWindowSlot l s bothKeyed
  | .aqdInit l msg => Sys2Proof.Machine.execAqdInit l msg s
  | .aqdResp l c msg => Sys2Proof.Machine.execAqdResp l c msg s
  | .aqdFin l c msg => Sys2Proof.Machine.execAqdFin l c msg s
  | .aqdData l window => Sys2Proof.Machine.execAqdData l window s
  | .aqdCredit l window => Sys2Proof.Machine.execAqdCredit l window s
  | .aqdXack l window => Sys2Proof.Machine.execAqdXack l window s
  | .aqdRekey l window => Sys2Proof.Machine.execAqdRekey l window s
  | .aqdClose l window => Sys2Proof.Machine.execAqdClose l window s
  | .aqdPublic l window => Sys2Proof.Machine.execAqdPublic l window s
  | .aqdZero l window => Sys2Proof.Machine.execAqdZero l window s
  | .handshakeTimeout l c => Sys2Proof.Machine.execHandshakeTimeout l c s
  | .creditTimeout l c => Sys2Proof.Machine.execCreditTimeout l c s
  | .transportReadyDrop l => Sys2Proof.Machine.execTransportReadyDrop l s
  | .getVersion ep => Sys2Proof.Machine.execGetVersion ep s
  | .getCapabilities ep version => Sys2Proof.Machine.execGetCapabilities ep s version
  | .negotiateAlgorithms ep sel => Sys2Proof.Machine.execNegotiateAlgorithms ep sel s
  | .getDigests ep => Sys2Proof.Machine.execGetDigests ep s
  | .getCertificate ep slot offset length => Sys2Proof.Machine.execGetCertificate ep slot offset length s
  | .challenge ep slot nonce => Sys2Proof.Machine.execChallenge ep slot nonce s
  | .getMeasurements ep index nonce => Sys2Proof.Machine.execGetMeasurements ep index nonce s
  | .keyExchange ep target exchange vendor => Sys2Proof.Machine.execKeyExchange ep target exchange s vendor
  | .finish sess chain signature => Sys2Proof.Machine.execFinish sess chain signature s
  | .heartbeat sess => Sys2Proof.Machine.execHeartbeat sess s
  | .keyUpdate sess => Sys2Proof.Machine.execKeyUpdate sess s
  | .endSession sess => Sys2Proof.Machine.execEndSession sess s
  | .chunkSend ep seqNo last data => Sys2Proof.Machine.execChunkSend ep seqNo last data s
  | .chunkGet ep seqNo => Sys2Proof.Machine.execChunkGet ep seqNo s
  | .respondIfReady ep token => Sys2Proof.Machine.execRespondIfReady ep token s
  | .gxReport ep reach fmt nonce offset sess => Sys2Proof.Machine.execGxReport ep reach fmt nonce offset s sess
  | .gxPqChain ep offset sess => Sys2Proof.Machine.execGxPqChain ep offset s sess
  | .gxKeyOffer sess => Sys2Proof.Machine.execGxKeyOffer sess s
  | .gxKeyDeliver sess c iv wrapped tag => Sys2Proof.Machine.execGxKeyDeliver sess c iv wrapped tag s
  | .gxDrain sess mode => Sys2Proof.Machine.execGxDrain sess mode s
  | .gxIdentity ep => Sys2Proof.Machine.execGxIdentity ep s
  | .sessionIdleTimeout sess => Sys2Proof.Machine.execSessionIdleTimeout sess s
  | .keyOfferLapse => Sys2Proof.Machine.execKeyOfferLapse s
  | .collimatorPick => Sys2Proof.Machine.execCollimatorPick s
  | .sliceEnd => Sys2Proof.Machine.execSliceEnd s
  | .sliceDue island => Sys2Proof.Machine.execSliceDue island s
  | .astrolabeSelftestDue => Sys2Proof.Machine.execAstrolabeSelftestDue s
  | .reachDredgeComplete n => Sys2Proof.Machine.execReachDredgeComplete n s
  | .chrCfgWrite mid u k data => Sys2Proof.Machine.execChrCfgWrite mid u k data s
  | .chrSnapSel mid m data => Sys2Proof.Machine.execChrSnapSel mid m data s
  | .chrSampleDone m sinceWindow => Sys2Proof.Machine.execChrSampleDone m sinceWindow s
  | .eyeMemData mid write data => Sys2Proof.Machine.execEyeMemData mid write data s
  | .halt mid target on => Sys2Proof.Machine.execHalt mid target on s
  | .step mid target => Sys2Proof.Machine.execStep mid target s
  | .winUpdate write offset data => Sys2Proof.Machine.execWinUpdate write offset data s
  | .winCapture => Sys2Proof.Machine.execWinCapture s
  | .winAccessDone => Sys2Proof.Machine.execWinAccessDone s
  | .transportReadyRise l => Sys2Proof.Machine.execTransportReadyRise l s
  | .signatureCompared signature => Sys2Proof.Machine.execSignatureCompared signature s

end Sys2Proof.Machine
end

