-- ==== Sys2Proof/Safety.lean ====
section
/-! DEFINITION. The terms that claims are written in: when the Management Port serves a command, when a key may be used, and what holds
of every state that matters (fuses, canonical memories, queues of commands). -/

namespace Sys2Proof.Machine

/-! ### Who is served -/

/-- A key slot serves a use of this engine and owner, and is not spent by it (R256, R257). -/
def keyReady (s : State) (i : SlotId) (e : Engine) (owner : Nat) : Bool :=
  let x := s.eph.slots[i]
  judgeUse x e owner == Code.done && (x.lifetime != .counted || decide (2 ≤ x.uses))

/-- Both directions' keys of a session serve one message and its answer (R292). -/
def sessionReady (s : State) (i : Fin 8) (y : Session) : Bool :=
  keyReady s (sessSlots i).1 .meridianGcm y.target && keyReady s (sessSlots i).2 .meridianGcm y.target

/-- Meridian takes Management Port messages: its island runs, it is not halted, and the block is not in KEEP (R372, R386). -/
def servesMgmt (s : State) : Bool := mgmtUp s && s.slu.state != .keep && !s.mer.halted

/-- An SPDM request is served (R295). -/
def spdmReady (s : State) : Bool := servesMgmt s && (spdmRefusal s).isNone

/-- A GX request outside sessions is served (R295). -/
def gxReady (s : State) : Bool := servesMgmt s && (gxRefusal s).isNone

/-- A session in a phase serves a secured message (R292). -/
def sessionServed (s : State) (i : Fin 8) (y : Session) (p : SessPhase) : Bool :=
  servesMgmt s && s.spdm.sessions[i] == some y && y.phase == p && sessionReady s i y

/-- An operator command is served: FULL with nothing amiss (R295), in an established session of TARGET 0x0E (R292, R378). -/
def operatorReady (s : State) : Bool :=
  servesMgmt s && (gxRefusal s).isNone &&
  match sessionOf s operatorTarget with
  | some (i, y) => sessionReady s i y
  | none => false

/-- The signature of a FINISH verifies under the last key of the requester's chain (R292). -/
def finishVerdict (y : Session) (chain : List Bytes) (signature : Bytes) : Bool :=
  (astCompute { op := .p384Verify, owner := 0xE, keyline := 0 }
    (memPut [] astInput (padTo 0 96 (Config.certificateKey (chain.getLastD []))
      ++ (Config.spdmDigest 2 (y.th2 ++ chain.flatten)).toList ++ padTo 0 96 signature))).verdict

/-- A command that the ROM also takes in PROVISION is served: there, or from the operator in service (R226, R242, R327). -/
def provisionReady (s : State) : Bool := (s.mer.phase == .provision && !s.mer.halted) || operatorReady s

/-- The last answer on the Management Port is this one. -/
def answered (t : State) (status : Nat) (data : Bytes) : Prop := ∃ via : Mctp, t.out.head? = some (.mgmt via status data)

/-- A message of driver software on Towpath channel 2 is taken by Sluice: its KIND, words 1 and 2, everything else zero (R374). -/
def driverMessage (s : State) (kind w1 w2 : Nat) : Bool :=
  driverReady (· == kind) s && decide ((driverWords s).headD 0 / 256 % 256 = 0)
    && decide ((driverWords s).getD 1 0 = w1) && decide ((driverWords s).getD 2 0 = w2) && ((driverWords s).drop 3).all (· == 0)
    && s.slu.state != .keep

/-! ### Passage programs -/

/-- A command changed one barge and nothing else of the block. -/
def onlyBarge (s t : State) (b : BargeId) : Prop := t = { s with barge := t.barge } ∧ ∀ x : BargeId, x ≠ b → t.barge[x] = s.barge[x]

/-- The sequencer stands at the next instruction: one index on, or where a loop whose body ends there returns to (R113). -/
def goesOn (g h : Barge) : Prop := h.pc = g.advance.pc ∧ h.loops = g.advance.loops

/-- Tokens a WAIT asks of a channel: counts that name one channel add up (R113). -/
def waitNeed (l : List (Fin 16 × Nat)) (ch : Fin 16) : Nat := total ((l.filter fun x => x.1 == ch).map (·.2))

/-- The sequencer of a barge issues an instruction: it is the word at the program counter, and no word of the barge's scratchpad or
of Basin is in error (R90, R92, R108, R134). -/
def issues (s : State) (b : BargeId) (i : Instr) : Bool :=
  canIssue s b && isNext s b i && s.barge[b].weak.isEmpty && s.barge[b].bad.isEmpty && s.basin.weak.isEmpty && s.basin.bad.isEmpty

/-- The tensors of an instruction are in reach: no earlier load writes them, each lies inside its space and none is written in a
weight region, those in memory regions have been read, and no unit of the share refuses them (R92, R112, R135). -/
def inReach (s : State) (b : BargeId) (i : Instr) : Bool :=
  let g := s.barge[b]
  let rs := tensorsRead g i
  let ws := rangesWritten g i
  !(rs ++ ws).any (clashes g) && rs.all (rangeOk s g false) && ws.all (rangeOk s g true)
    && ((rs.filter (·.space == 2)).isEmpty || g.operandsIn) && (refusedUnits s g (rs ++ ws)).isEmpty

/-- Codes of `n` fields of `w` bits from field `k` of a row, read from bytes. -/
def fieldsAt (get : Nat → Nat → Bytes) (w row k n : Nat) : List Nat :=
  unpackBits w n (w * k % 8) (leNat (get (rowSpan w row k n).1 (rowSpan w row k n).2))

/-- First byte of the destination that a plane of a move covers, and how many. -/
def Plane.span (x : Plane) : Nat × Nat := rowSpan x.1 x.2.2.1.1 x.2.2.1.2 x.2.2.2

/-- Two ranges of bytes share none. -/
def apart (x y : Nat × Nat) : Bool := decide (x.1 + x.2 ≤ y.1) || decide (y.1 + y.2 ≤ x.1)

/-- An entry of data in a crossing (R21). -/
def Msg.isData : Msg → Bool
  | .fill _ _ _ _ _ => true
  | _ => false

/-! ### What holds of every state -/

/-- A bit of a fuse word is programmed. -/
def State.fuse (s : State) (w j : Nat) : Bool := (s.alm.raw w).getLsbD j

/-- Every byte memory of the block. -/
def State.memories (s : State) : List Mem :=
  [s.mer.sram, s.basin.mem, s.ast.prog, s.ast.mem, s.stc.watch, s.slu.istore]
    ++ s.barge.toList.flatMap (fun g => [g.mcode, g.spad, g.operands]) ++ s.keeper.toList.flatMap (fun k => [k.mem, k.istore])
    ++ s.loader.job.toList.map LoadJob.staged

/-- Every byte memory has its canonical form. -/
def State.memWf (s : State) : Bool := s.memories.all Mem.wf

end Sys2Proof.Machine
end

