-- ==== Sys2Proof/Certificates/Slice0/Obligations.lean ====
section
/-! DEFINITION. What is claimed of the block, for the provers. -/

open Sys2Proof Sys2Proof.Machine

/-! ### Resets and starts -/

/-- From R416 to R420: the reset inputs. POR_N_ASSERT with por_n high leaves State.reset but for the parameters, the pins (por_n low, tamper_ack low),
the fuses, the Boot Store's contents, transport_ready, what has been driven out, the log of R10, the queue and the model's counter of free values.
SYS_RST_N_ASSERT of at least four ref_clk cycles and REF_CLOCK_LOSS, with por_n high, not in OFF and no third security restart, leave State.reset
but for those, the alert log with one more record (SYSTEM_RESET, REF_CLOCK_LOSS), the window count, what Sluice has measured with its rails, the
count of security restarts, and the islands: each but 61 is in reset, and its output groups show their clamp values. No fuse bit is lost, and
without a running Almanac command the fuses are those from before. A SYS_RST_N_ASSERT pulse below four cycles changes nothing; with por_n low, or in
OFF, either input changes its pin alone. From R224, R229, R418, R419, R420: POR_N_RELEASE, SYS_RST_N_RELEASE and REF_CLOCK_RESTORED. When no other
reset input holds the block (and it is not in OFF, nor HALTED by a third security restart), a start begins: step 2 is next, phase ROM, every key
slot and Towpath channel at its reset value, every measurement register zero but MER_MEAS_0, which holds the ROM's digest, extended once; the fuses
and the Boot Store are as before, and the count of windows begins anew except at sys_rst_n. While another input still holds the block,
SYS_RST_N_RELEASE and REF_CLOCK_RESTORED change their pin and the window count alone, and POR_N_RELEASE leaves Meridian as it was. -/
def Obligations.ResetsBeginStarts : Prop :=
  ((∀ (s : State) (cut : Bool), s.pins.porN = true →
      ∃ t, exec (.porNAssert cut) s = .next t ∧
        t = { State.reset with
          params := s.params, pins := { s.pins with porN := false, tamperAck := false }, alm := t.alm
          stc := { s.stc.store with sectors := if cut = true ∧ s.stc.recordFresh = true then cutRecord s.stc else s.stc.sectors
                                    recordFresh := false }
          link := vmap (fun (k : Link) => { ready := k.ready }) s.link, freeCtr := t.freeCtr, out := s.out, events := s.events
          pending := s.pending } ∧
        (∀ w j : Nat, s.fuse w j = true → t.fuse w j = true) ∧ (s.alm.busy = none → t.alm = s.alm.fuses)) ∧
    (∀ (s : State) (c : Instr) (p : Pins) (n st : Nat),
      (c = .sysRstNAssert n ∧ 4 ≤ n ∧ p = { s.pins with sysRstN := false } ∧ st = Code.systemReset ∨
       c = .refClockLoss ∧ s.pins.refClkOk = true ∧ p = { s.pins with refClkOk := false } ∧ st = Code.refClockLoss) →
      s.pins.porN = true → s.slu.state ≠ .off → s.mer.lockstep ≠ 3 →
      ∃ t, exec c s = .next t ∧
        t = { State.reset with
          params := s.params, pins := p, alerts := t.alerts, windows := s.windows, isl := t.isl, mer := { lockstep := s.mer.lockstep }
          alm := t.alm, stc := s.stc.store, slu := s.slu.booted, link := vmap (fun (k : Link) => { ready := k.ready }) s.link
          freeCtr := t.freeCtr, out := s.out, events := s.events, pending := s.pending } ∧
        (∀ i : Fin 64, i.val ≠ 61 → t.isl[i].inReset = true) ∧
        (∀ (g : OutGroup) (k : Nat), g.island ≠ 61 → clampOut t g k = some ((g.clamp s.params).testBit k)) ∧
        t.alerts.nextSeq = s.alerts.nextSeq + 1 ∧ t.alerts.records.getLast?.map Alert.status = some st ∧
        (∀ w j : Nat, s.fuse w j = true → t.fuse w j = true) ∧ (s.alm.busy = none → t.alm = s.alm.fuses)) ∧
    (∀ (s : State) (n : Nat), n < 4 → exec (.sysRstNAssert n) s = .next s) ∧
    (∀ (s : State) (n : Nat), s.pins.porN = false ∨ s.slu.state = .off →
      (4 ≤ n → exec (.sysRstNAssert n) s = .next { s with pins := { s.pins with sysRstN := false } }) ∧
      (s.pins.refClkOk = true → exec .refClockLoss s = .next { s with pins := { s.pins with refClkOk := false } }))) ∧
  ((∀ (s : State) (c : Instr) (p : Pins),
      (c = .porNRelease ∧ s.pins.porN = false ∧ p = { s.pins with porN := true } ∨
       c = .sysRstNRelease ∧ s.pins.sysRstN = false ∧ p = { s.pins with sysRstN := true } ∨
       c = .refClockRestored ∧ s.pins.refClkOk = false ∧ p = { s.pins with refClkOk := true }) →
      p.porN = true → p.sysRstN = true → p.refClkOk = true → s.slu.state ≠ .off → s.mer.lockstep ≠ 3 →
      ∃ t, exec c s = .next t ∧ t.pins.porN = true ∧ t.pins.sysRstN = true ∧ t.pins.refClkOk = true ∧
        t.mer.step = .almanac ∧ t.mer.phase = .rom ∧ t.mer.lockstep = s.mer.lockstep ∧ t.eph.slots = State.reset.eph.slots ∧
        t.meas[(0 : Fin 16)] = { value := sha384 (zeros 48 ++ Config.romDigest.toList), count := 1 } ∧
        (∀ i : Fin 16, i ≠ 0 → t.meas[i] = {}) ∧ t.twp = {} ∧ (∀ w j : Nat, t.fuse w j = s.fuse w j) ∧ t.stc = s.stc ∧
        t.windows = if c = .sysRstNRelease then s.windows else 0) ∧
    (∀ s : State, s.pins.sysRstN = false → (s.pins.porN = false ∨ s.pins.refClkOk = false) →
      exec .sysRstNRelease s = .next { s with pins := { s.pins with sysRstN := true } }) ∧
    (∀ s : State, s.pins.refClkOk = false → (s.pins.porN = false ∨ s.pins.sysRstN = false) →
      exec .refClockRestored s = .next { s with pins := { s.pins with refClkOk := true }, windows := 0 }) ∧
    (∀ s : State, s.pins.porN = false → (s.pins.sysRstN = false ∨ s.pins.refClkOk = false) →
      ∃ t, exec .porNRelease s = .next t ∧ t.pins = { s.pins with porN := true } ∧ t.mer = s.mer ∧ t.windows = 0))

/-- From R171, R260, R388, R422: TAMPER. An input that is not masked and has been low for three sluice cycles, with por_n high and not in OFF, makes
every key slot invalid and zero, sets the tamper latch and tamper_ack, locks the TAP, ends every session, and alerts the operator. A shorter pulse,
and a masked input, change nothing; an input that is high again (0 cycles) changes its level alone. From R223: SECURITY_RESTART while the security
island runs. A restart is counted up to three, alerts the operator, empties every reach and leaves each keeper core nothing but its timer; the first
two begin a start, and the third leaves the block HALTED with CAUSE SECURITY_RESTART, where it stays until por_n: no other reset input, no event of
ref_clk and no further restart changes Meridian. -/
def Obligations.TamperAndRestart : Prop :=
  ((∀ (s : State) (i : Fin 4) (n : Nat), 3 ≤ n → s.params.tamperMask.getLsbD i.val = true → s.pins.porN = true → s.slu.state ≠ .off →
      ∃ t, exec (.tamper i n) s = .next t ∧ t.eph.tamper = true ∧ t.pins.tamperAck = true ∧ t.eye.tapUnlocked = false ∧
        (∀ k : SlotId, t.eph.slots[k].state ≠ .valid ∧ t.eph.slots[k].key = []) ∧ (∀ k : Fin 8, t.spdm.sessions[k] = none) ∧
        s.alerts.nextSeq < t.alerts.nextSeq) ∧
    (∀ (s : State) (i : Fin 4) (n : Nat), n ≠ 0 → (n < 3 ∨ s.params.tamperMask.getLsbD i.val = false) → exec (.tamper i n) s = .next s) ∧
    (∀ (s : State) (i : Fin 4), ∃ t, exec (.tamper i 0) s = .next t ∧ t = { s with pins := t.pins } ∧ t.pins.tamperN.getLsbD i.val = true)) ∧
  ((∀ (s : State) (c : RestartCause), s.mer.lockstep < 3 → s.isl[(60 : Fin 64)].powered = true → s.isl[(60 : Fin 64)].inReset = false →
      ∃ t, exec (.securityRestart c) s = .next t ∧ t.mer.lockstep = s.mer.lockstep + 1 ∧
        t.alerts.nextSeq = s.alerts.nextSeq + 1 ∧ t.alerts.records.getLast?.map Alert.status = some Code.securityRestart ∧
        t.reach = State.reset.reach ∧ (∀ n : SvcId, t.keeper[n] = s.keeper[n].timer) ∧
        (if s.mer.lockstep < 2 then t.mer.step = .almanac ∧ t.mer.phase = .rom
          else t.mer.phase = .halted ∧ t.mer.cause = Code.securityRestart)) ∧
    (∀ (s : State) (n : Nat) (x : RestartCause) (c : Instr), s.mer.lockstep = 3 →
      c = .sysRstNAssert n ∨ c = .sysRstNRelease ∨ c = .refClockLoss ∨ c = .refClockRestored ∨ c = .securityRestart x →
      ∃ t, exec c s = .next t ∧ t.mer = s.mer))

/-- From R226, R229, R388: ALMANAC_FULL_READ at step 2 changes no fuse, marks as marginal the words it is given (numbers below 2,048, once each),
measures into MER_MEAS_1, and decides the start from the life-cycle word: HALTED in SCRAP; PROVISION in BLANK, whose steps end there; otherwise slot
selection goes on in VERIFY or ends in DRYDOCK. A marginal life-cycle word is noted. The TAP is unlocked in BLANK and TEST alone. From R227, R229,
R262, R347: FIRMWARE_SET_LOADED at step 5 extends MER_MEAS_3 to MER_MEAS_7 with the digests of the slot's five components in turn, puts keeper
firmware into every keeper's store, Astrolabe's program and Sluice's firmware into theirs, ends Sluice's boot ROM, and binds and locks Towpath
(channel 0 from endpoint 1 to 3, channel 3 from endpoint 12 to 0); the next step is step 6. From R81, R229, R396: QUICK_PASS_END, once in a start,
is measured into MER_MEAS_9 and marks each barge and each other island that failed as failed. -/
def Obligations.StartReads : Prop :=
  (∀ (s : State) (m sp : List Nat), s.mer.step = .almanac → s.mer.halted = false →
      ∃ t, exec (.almanacFullRead m sp) s = .next t ∧ t.alm.words = s.alm.words ∧ t.alm.spares = s.alm.spares ∧
        t.alm.marginal = m.eraseDups.filter (· < 2048) ∧ t.mer.lcMarginal = t.alm.lc.isNone ∧
        t.meas[(1 : Fin 16)].count = satInc 16 s.meas[(1 : Fin 16)].count ∧
        t.eye.tapUnlocked = (t.alm.lc == some .blank || t.alm.lc == some .test) ∧
        (match t.alm.lc with
         | some .scrap => t.mer.phase = .halted ∧ t.mer.step = .done
         | some .blank => t.mer.phase = .provision ∧ t.mer.step = .done
         | _ => t.mer.phase = .verify ∧ t.mer.step = .slotChosen ∨ t.mer.phase = .drydock ∧ t.mer.step = .done)) ∧
  (∀ s : State, s.mer.step = .slotChosen → s.mer.halted = false →
      ∃ t, exec .firmwareSetLoaded s = .next t ∧ t.mer.step = .firmware ∧ t.slu.bootRom = false ∧ t.ast.progLoaded = true ∧
        t.ast.prog = memPut [] 0 (component (bootedSlot s) 3) ∧ t.slu.istore = memPut [] 0 (component (bootedSlot s) 4) ∧
        (∀ r : SvcId, t.keeper[r].istore = memPut [] 0 (component (bootedSlot s) 1)) ∧
        t.twp.lock = true ∧ t.twp.chan[(0 : ChanId)].sender = 1 ∧ t.twp.chan[(0 : ChanId)].receiver = 3 ∧
        t.twp.chan[(3 : ChanId)].sender = 12 ∧ t.twp.chan[(3 : ChanId)].receiver = 0 ∧
        (∀ (k : Fin 5) (i : Fin 16), i.val = 3 + k.val →
          t.meas[i] = { value := sha384 (s.meas[i].value ++ sha384 (component (bootedSlot s) k.val)), count := satInc 16 s.meas[i].count }) ∧
        (∀ i : Fin 16, i.val < 3 ∨ 7 < i.val → t.meas[i] = s.meas[i])) ∧
  (∀ (s : State) (f : List (Nat × Nat)), s.col.quickDone = false → s.mer.step ≠ .held → s.mer.step ≠ .almanac →
      ∃ t, exec (.quickPassEnd f) s = .next t ∧ t.col.quickDone = true ∧ t.meas[(9 : Fin 16)].count = satInc 16 s.meas[(9 : Fin 16)].count ∧
        (∀ i : Fin 16, i ≠ 9 → t.meas[i] = s.meas[i]) ∧
        (∀ b : BargeId, t.col.bargeInfo[b].failed = (s.col.bargeInfo[b].failed || f.any (·.1 == b.val))) ∧
        (∀ i : Fin 64, t.col.isl[i].failed = (s.col.isl[i].failed || f.any (·.1 == i.val))))

/-- From R224, R225, R232, R233, R237: TWILIGHT_PACKAGE_LOAD at step 6, with the quick pass ended and every memory port ready. Without a barge, or with
an island that twilight needs failed, no model runs. With an empty watch area no model runs and the operator is alerted WATCH_EMPTY. A package that
does not pass the load check is refused, alert BAD_DESCRIPTOR; one that does, with CTR_DRBG healthy, is taken: the model runs from it, on the keeper
core of the twilight service. In each case step 7 follows. From R224, R226, R236, R244: the end of a start. TWILIGHT_BEGIN at step 7, no INIT being
under way in twilight, enters TWILIGHT, or TWILIGHT_ONLY with its cause, and changes nothing but Meridian. TWILIGHT_END, once step 8 is done and
twilight's requests and records are over, enters FULL with the steps done and changes no fuse. Both note the milliseconds of the security island
since the start began, modulo 2^16. From R224, R236, R243, R249, R272, R279, R280: ROOT_DERIVATION_DONE at step 8, with usable roots, no tamper
latch, CTR_DRBG healthy and Astrolabe free. Where every operation of Astrolabe ends well, step 9 is next, ROOTS_OK is 1 and the identity is the one
derived; where one fails its invariants, Meridian is as before and the event is logged. Either way no fuse is programmed. -/
def Obligations.StartCompletes : Prop :=
  (∀ s : State, s.mer.step = .firmware → s.mer.halted = false → s.col.quickDone = true → s.mer.waitMem = false →
        (∀ p : PortId, s.port[p].ctrlReady = true) →
      (leNat (memBytes s.stc.watch 0 4) = 0 →
        ∃ t, exec .twilightPackageLoad s = .next t ∧ t.mer.step = .package ∧ t.mer.twilightModel = false ∧
          t.alerts.records.getLast?.map Alert.status = some Code.watchEmpty) ∧
      (leNat (memBytes s.stc.watch 0 4) ≠ 0 → twilightBarges s = [] ∨ twilightIslandFailed s = true →
        ∃ t, exec .twilightPackageLoad s = .next t ∧ t.mer.step = .package ∧ t.mer.twilightModel = false ∧ t.alerts = s.alerts) ∧
      (∀ (n : Nat) (img : Bytes) (ok : Bool), n = leNat (memBytes s.stc.watch 0 4) → img = memBytes s.stc.watch 4 n → 0 < n →
        ok = (decide (4 + n ≤ watchBytes) &&
          loadCheck { flights := 1, share := unitBytes, window := s.params.twilightSize, mcode := loadedMcode s, int8 := true } img true) →
        twilightBarges s ≠ [] → twilightIslandFailed s = false → s.eph.drbgOk = true →
        ∃ t, exec .twilightPackageLoad s = .next t ∧ t.mer.step = .package ∧
          (if ok = true then t.mer.twilightModel = true ∧ t.twPkg = some (packageOf img s.params.twilightBase) ∧ t.keeper[twilightSvc].core = .running
            else t.mer.twilightModel = false ∧ t.alerts.records.getLast?.map Alert.status = some Code.badDescriptor))) ∧
  ((∀ s : State, s.mer.step = .package → s.mer.halted = false → s.keeper[(8 : SvcId)].resuming = [] →
      ∃ t, exec .twilightBegin s = .next t ∧ t = { s with mer := t.mer } ∧
        t.mer.twilightMs = psMs (s.isl[(60 : Fin 64)].timePs - s.mer.startPs) % 65536 ∧
        (match s.mer.stopCause with
         | some st => t.mer.phase = .twilightOnly ∧ t.mer.cause = st ∧ t.mer.step = .done
         | none => t.mer.phase = .twilight ∧ t.mer.cause = 0 ∧ t.mer.step = .twilight)) ∧
    (∀ s : State, s.mer.step = .derived → s.mer.halted = false →
      (s.mer.twilightModel = false ∧ s.mer.twilightEnding = false ∨
        s.keeper[twilightSvc].form = none ∧ s.keeper[twilightSvc].reqs.any Req.live = false ∧ twilightRecords s = false) →
      ∃ t, exec .twilightEnd s = .next t ∧ t.mer.phase = .full ∧ t.mer.step = .done ∧
        t.mer.fullMs = psMs (s.isl[(60 : Fin 64)].timePs - s.mer.startPs) % 65536 ∧ t.alm = s.alm)) ∧
  (∀ s : State, s.mer.step = .twilight → s.mer.halted = false → rootsBad s = none → s.eph.tamper = false → astBusy s.ast = false →
      s.ast.state ≠ .faulted → s.eph.drbgOk = true →
      ∃ t, exec .rootDerivationDone s = .next t ∧ t.alm = s.alm ∧
        (if astWell (buildIdentity (deriveSeeds s)) = true then
          t.mer = { (buildIdentity (deriveSeeds s)).mer with step := .derived } ∧ t.mer.rootsOk = true ∧ t.mer.phase = s.mer.phase
         else t.mer = s.mer ∧ t.events = ⟨"ROOT_DERIVATION_DONE", Code.badState⟩ :: s.events))

/-! ### Sluice: rails, sensors, decisions, power commands -/

/-- From R356, R414: the Power Request Port, with por_n high. PWR_ACK of a rail that owes an acknowledgement leaves it held at the voltage asked for (0
for removal), its FAULT bit as it was, and no fuse or Boot Store byte changed (stated under Sluice's boot ROM, or with nothing in a crossing between
islands). RAIL_ACK_TIMEOUT, once a request, sets FAULT, notes the rail for a notice, alerts the operator once, and changes nothing else. PWR_FAULT
on VDD_OTP, rail 5, sets FAULT and alerts once, and changes no reach and no key; on another rail it resets the block, with two alerts, the last
SYSTEM_RESET. From R366, R368, R415: sensors, with por_n high. SENSOR_UPDATE writes its field and makes it valid, SENSOR_STALE makes it invalid and
stale and keeps its value; neither changes anything else. In mode 0, and with por_n low, an update of field 3 changes nothing. DIE_SENSOR_SAMPLE,
not in OFF, records every reading, excludes for good the sensors that fail their self-check or lie far from both neighbours, leaves TEMP_MAX no
lower than any sensor in use, and changes nothing but Sluice, the counters, and the alerts with their interrupt. -/
def Obligations.RailsAndSensors : Prop :=
  ((∀ (s : State) (r : Fin 6), s.pins.porN = true → s.slu.rail[r].settled = false → s.slu.bootRom = true ∨ s.flight = [] →
      ∃ t, exec (.pwrAck r) s = .next t ∧ t.slu.rail[r].heldMv = (if s.slu.rail[r].on then s.slu.rail[r].targetMv else 0) ∧
        (s.mer.step = .done → t.slu.rail[r].fault = s.slu.rail[r].fault) ∧ (∀ w j : Nat, t.fuse w j = s.fuse w j) ∧ t.stc = s.stc) ∧
    (∀ (s : State) (r : Fin 6), s.pins.porN = true → s.slu.rail[r].settled = false → s.slu.rail[r].late = false →
      ∃ t, exec (.railAckTimeout r) s = .next t ∧ t = { s with alerts := t.alerts, slu := t.slu, sys := t.sys } ∧
        t.slu = { s.slu with rail := upd s.slu.rail r fun x => { x with fault := true, late := true }, noticeRail := some r } ∧
        t.alerts.nextSeq = s.alerts.nextSeq + 1 ∧ t.alerts.records.getLast?.map Alert.status = some Code.railFault) ∧
    (∀ (s : State) (r : Fin 6), s.pins.porN = true → s.slu.state ≠ .off →
      ∃ t, exec (.pwrFault r) s = .next t ∧
        (if r = 5 then t.slu.rail[r].fault = true ∧ t.reach = s.reach ∧ t.eph = s.eph ∧ t.alerts.nextSeq = s.alerts.nextSeq + 1
          else t.reach = State.reset.reach ∧ t.keeper = State.reset.keeper ∧ t.alerts.nextSeq = s.alerts.nextSeq + 2 ∧
            t.alerts.records.getLast?.map Alert.status = some Code.systemReset))) ∧
  ((∀ (s : State) (k : Fin 4) (v : BitVec 16), s.pins.porN = true → (s.params.sensorMode ≠ 0 ∨ k ≠ 3) →
      ∃ t, exec (.sensorUpdate k v) s = .next t ∧ t = { s with slu := { s.slu with ext := put s.slu.ext k { value := v, valid := true } } }) ∧
    (∀ (s : State) (v : BitVec 16), s.params.sensorMode = 0 ∨ s.pins.porN = false → exec (.sensorUpdate 3 v) s = .next s) ∧
    (∀ (s : State) (k : Fin 4), s.pins.porN = true → (s.params.sensorMode ≠ 0 ∨ k ≠ 3) →
      ∃ t, exec (.sensorStale k) s = .next t ∧ t = { s with slu := { s.slu with ext := t.slu.ext } } ∧
        t.slu.ext[k].valid = false ∧ t.slu.ext[k].stale = true ∧ t.slu.ext[k].value = s.slu.ext[k].value ∧
        (∀ j : Fin 4, j ≠ k → t.slu.ext[j] = s.slu.ext[j])) ∧
    (∀ (s : State) (v : Vector DieSample 64), s.pins.porN = true → s.slu.state ≠ .off →
      ∃ t, exec (.dieSensorSample v) s = .next t ∧ t = { s with slu := t.slu, alerts := t.alerts, sys := t.sys, chr := t.chr } ∧
        (∀ i : Fin 64, t.slu.die[i].excluded = (s.slu.die[i].excluded || dieBad v i) ∧ t.slu.die[i].quarterC = v[i].quarterC) ∧
        (∀ i : Fin 64, t.slu.die[i].excluded = false → v[i].quarterC ≤ t.slu.tempMax)))

/-- From R15, R16, R19, R189, R367: time. CALIBRATION_WINDOW_END, with por_n high, ref_clk there and not in OFF, counts a window; every powered island
whose clock has been locked through it latches its cycles (modulo 2^20) and steps its sequence number, while GLB's island is out of reset; each
keeper's time goes on by 4,096 unless its island was in reset or left it in the window. Without an upset no barge, nothing of Basin or Astrolabe and
no failure of the Boot Store changes. SLUICE_SECOND_TICK records the mean, and counts a swing exactly when the mean has turned by more than 30 °C
from its extreme; it changes Sluice alone. From R371: DOZE_ENTER of a SEALED reach with DWELL_MS set, no live request, no migration, no slice and no
crossing of its barges, none of its shares staged again, and the block not in KEEP. The reach dozes; its ACTIVE barges lose their rail; no other
barge, no reach, no key and no fuse changes. -/
def Obligations.TimeAndDoze : Prop :=
  ((∀ (s : State) (n : Vector Nat 64) (k : Nat) (u : List Upset), s.pins.porN = true → s.pins.refClkOk = true → s.slu.state ≠ .off →
      ∃ t, exec (.calibrationWindowEnd n k u) s = .next t ∧ t.windows = s.windows + 1 ∧
        t = { s with windows := t.windows, isl := t.isl, chr := t.chr, keeper := t.keeper, freeCtr := t.freeCtr, stc := t.stc
                     barge := t.barge, basin := t.basin, ast := t.ast } ∧
        (u = [] → t.barge = s.barge ∧ t.basin = s.basin ∧ t.ast = s.ast ∧ t.stc.storeFaults = s.stc.storeFaults) ∧
        (∀ i : Fin 64, t.isl[i].powered = s.isl[i].powered ∧ t.isl[i].freqMhz = s.isl[i].freqMhz ∧
          (s.isl[i].powered = true → s.isl[i].clkLocked = true → s.isl[i].windowWhole = true → s.isl[(58 : Fin 64)].inReset = false →
            t.isl[i].cycles = n[i] % 2 ^ 20 ∧ t.isl[i].seq = (s.isl[i].seq + 1) % 256 ∧ t.isl[i].calValid = true)) ∧
        (∀ r : SvcId, s.isl[(59 : Fin 64)].inReset = false → s.isl[(59 : Fin 64)].fresh = false →
          t.keeper[r].timeCus = s.keeper[r].timeCus + 4096 ∧ t.keeper[r].nowCus = t.keeper[r].timeCus)) ∧
    (∀ (s : State) (e : Int), s.pins.porN = true → s.slu.state ≠ .off → e = s.slu.extreme.getD s.slu.tempMean →
      ∃ t, exec .sluiceSecondTick s = .next t ∧ t = { s with slu := t.slu } ∧
        t.slu.means = (s.slu.tempMean :: s.slu.means).take 60 ∧
        t.slu.swings = (if 120 < (if s.slu.dirUp then e - s.slu.tempMean else s.slu.tempMean - e) then satInc 16 s.slu.swings else s.slu.swings))) ∧
  (∀ (s : State) (n : ReachId), s.reach[n].state = .sealed → s.slu.reach[n].dwellMs ≠ 0 → s.slu.reach[n].dozing = false →
      (∀ q ∈ s.keeper[svcOf n].reqs, q.live = false) → migrationPending s (svcOf n) = false → s.reach[n].restage = false →
      (∀ b ∈ bargesOf s (svcOf n), s.col.barge ≠ some b ∧ ∀ m ∈ s.flight, m.touches b = false) → s.slu.state ≠ .keep →
      ∃ t, exec (.dozeEnter n) s = .next t ∧ t.slu.reach[n].dozing = true ∧ t.reach = s.reach ∧ t.alm = s.alm ∧ t.eph = s.eph ∧
        (∀ b : BargeId, b ∈ bargesOf s (svcOf n) → s.barge[b].role = .active → t.isl[islOf b].powered = false) ∧
        (∀ b : BargeId, b ∉ bargesOf s (svcOf n) → t.barge[b] = s.barge[b]))

/-- From R361, R363 to R365: SLUICE_DECISION, with por_n high and not in OFF, changes no fuse, and no pin. Stated further for nothing in a crossing
between islands: the throttle is in force exactly while a cause is active; a die at 105 °C or above, under Sluice's firmware, puts P at 6; a change
of the throttle is noted in the isolation status; and while it stays in force no reach's own step moves. Keys, sessions, rings and reaches stay. -/
def Obligations.SluiceDecision : Prop :=
  ∀ (s : State) (a : Vector Activity 8), s.pins.porN = true → s.slu.state ≠ .off →
    ∃ t, exec (.sluiceDecision a) s = .next t ∧ t.alm = s.alm ∧ t.pins = s.pins ∧
      (s.flight = [] →
        t.slu.platform = t.slu.causes.any ∧
        (420 ≤ s.slu.tempMax → s.slu.bootRom = false → t.slu.pstep = 6 ∧ t.slu.platform = true) ∧
        (s.slu.platform ≠ t.slu.platform → t.iso.thermal = t.slu.platform) ∧
        (∀ n : ReachId, s.slu.platform = true → t.slu.platform = true → t.slu.reach[n].step = s.slu.reach[n].step) ∧
        t.eph = s.eph ∧ t.spdm = s.spdm ∧ t.ring = s.ring ∧ t.reach = s.reach)

/-- From R371 to R374: driver software's message on Towpath channel 2, complete and with its unused bits zero, fewer than four replies held and the
block not in KEEP. Sluice takes the message (the channel becomes EMPTY), performs it and queues one reply. PWR_TRIM sets the envelope and PWR_DWELL
the reach's DWELL_MS and no other's, in FULL. PWR_KEEP, when nothing forbids it, enters KEEP at once if nothing is in a crossing, under test or
migrating. PWR_WAKE changes no power state. QUERY changes nothing but Towpath, Sluice and the interrupt. From R374: SLUICE_REPLY_SEND while channel
3 is EMPTY. The oldest reply stands in the channel, FULL, and leaves the queue; with no reply held, a notice of a change of state does (word 0 is
0xC0, word 1 the SLU_STATE word), and is no longer due. Nothing changes but Towpath, Sluice and the interrupt. -/
def Obligations.DriverMessages : Prop :=
  (∀ s : State,
      (∀ n : Nat, s.mer.phase = .full → driverMessage s 1 n 0 = true → 32 ≤ n → n ≤ 60 →
        ∃ t, exec (.pwrTrim true n) s = .next t ∧ t.slu.envelope = n ∧ t.slu.trimOn = (n != 60) ∧
          t.slu.replies.length = s.slu.replies.length + 1 ∧ t.twp.chan[(2 : ChanId)].state = .empty) ∧
      (driverMessage s 2 0 0 = true → keepBad s = none → s.flight = [] → s.col.barge = none → s.col.island = none →
        (∀ b : BargeId, s.barge[b].migrating = false) →
        ∃ t, exec (.pwrKeep true) s = .next t ∧ t.slu.state = .keep ∧ t.slu.replies.length = s.slu.replies.length + 1 ∧
          t.twp.chan[(2 : ChanId)].state = .empty) ∧
      (driverMessage s 3 0 0 = true →
        ∃ t, exec .pwrWake s = .next t ∧ t.slu.state = s.slu.state ∧ t.slu.replies.length = s.slu.replies.length + 1 ∧
          t.twp.chan[(2 : ChanId)].state = .empty) ∧
      (∀ (n : ReachId) (ms : Nat), s.mer.phase = .full → driverMessage s 4 n.val ms = true → ms < 65536 →
        ∃ t, exec (.pwrDwell true n.val ms) s = .next t ∧ t.slu.reach[n].dwellMs = ms ∧
          t.slu.replies.length = s.slu.replies.length + 1 ∧ t.twp.chan[(2 : ChanId)].state = .empty ∧
          (∀ m : ReachId, m ≠ n → t.slu.reach[m] = s.slu.reach[m])) ∧
      (driverMessage s 5 0 0 = true →
        ∃ t, exec .query s = .next t ∧ t = { s with twp := t.twp, slu := t.slu, sys := t.sys } ∧
          t.slu.replies.length = s.slu.replies.length + 1 ∧ t.twp.chan[(2 : ChanId)].state = .empty ∧
          t.twp.chan[(2 : ChanId)].words = Vector.replicate 16 0)) ∧
  ((∀ (s : State) (w : Vector Word 16) (l : List (Vector Word 16)), s.twp.chan[(3 : ChanId)].state = .empty → s.slu.replies = w :: l →
      ∃ t, exec .sluiceReplySend s = .next t ∧ t.slu = { s.slu with replies := l } ∧ t = { s with slu := t.slu, twp := t.twp, sys := t.sys } ∧
        t.twp.chan[(3 : ChanId)].words = w ∧ t.twp.chan[(3 : ChanId)].state = .full) ∧
    (∀ s : State, s.twp.chan[(3 : ChanId)].state = .empty → s.slu.replies = [] → s.slu.noticeState = true →
      ∃ t, exec .sluiceReplySend s = .next t ∧ t.slu = { s.slu with noticeState := false } ∧ t = { s with slu := t.slu, twp := t.twp, sys := t.sys } ∧
        t.twp.chan[(3 : ChanId)].words[(0 : Fin 16)] = 0xC0 ∧ t.twp.chan[(3 : ChanId)].words[(1 : Fin 16)] = sluState s ∧
        t.twp.chan[(3 : ChanId)].state = .full))

/-- From R360, R361, R372, R373, R390, R416: the operator's power commands over the Management Port, in FULL and in a session. PWR_BOOST_EN sets its
reach's bit and changes nothing but Sluice and what the message itself uses. PWR_BUDGET sets the budget, clamped to its minimum and to the present
one plus the headroom, and answers CLAMPED with one audit record when it was clamped. PWR_TRIM and PWR_DWELL set their field. PWR_KEEP, when nothing
forbids it, enters KEEP at once if nothing is in a crossing, under test or migrating. PWR_OFF, also in every other phase (there without a session,
assumption 116), leaves the block in OFF: every reach, key and island at reset or unpowered, no acknowledged rail on, every rail that owed none
asked off (from KEEP the block wakes first), and every output group at its clamp value (R416, R417). -/
def Obligations.OperatorPower : Prop :=
  (∀ s : State, operatorReady s = true →
    (∀ (n : ReachId) (en : Nat), en ≤ 1 →
      ∃ t, exec (.pwrBoostEn n.val en) s = .next t ∧ answered t Code.done [] ∧
        t = { s with slu := t.slu, eph := t.eph, spdm := t.spdm, chr := t.chr, out := t.out } ∧
        t.slu = { s.slu with keepPending := false, reach := upd s.slu.reach n fun x => { x with boostEn := en == 1 } }) ∧
    (∀ (n : ReachId) (w : Nat), w < 65536 →
      ∃ t, exec (.pwrBudget n.val w) s = .next t ∧ t.reach = s.reach ∧ t.alm = s.alm ∧
        t.slu.reach[n].budgetW8 = min (max w (budgetMin s n)) (s.slu.reach[n].budgetW8 + headroom s) ∧
        (∀ m : ReachId, m ≠ n → t.slu.reach[m] = s.slu.reach[m]) ∧
        answered t (if t.slu.reach[n].budgetW8 = w then Code.done else Code.clamped) [] ∧
        t.sys.auditCount = s.sys.auditCount + (if t.slu.reach[n].budgetW8 = w then 0 else 1)) ∧
    (∀ n : Nat, 32 ≤ n → n ≤ 60 →
      ∃ t, exec (.pwrTrim false n) s = .next t ∧ answered t Code.done [] ∧ t.slu.envelope = n ∧ t.slu.trimOn = (n != 60)) ∧
    (∀ (n : ReachId) (ms : Nat), ms < 65536 →
      ∃ t, exec (.pwrDwell false n.val ms) s = .next t ∧ answered t Code.done [] ∧ t.slu.reach[n].dwellMs = ms)) ∧
  (∀ s : State, operatorReady s = true → keepBad s = none → s.flight = [] → s.col.barge = none → s.col.island = none →
      (∀ b : BargeId, s.barge[b].migrating = false) →
    ∃ t, exec (.pwrKeep false) s = .next t ∧ t.slu.state = .keep ∧ answered t Code.done [] ∧ t.reach = s.reach) ∧
  (∀ s : State, s.pins.porN = true → s.slu.state ≠ .off → mgmtUp s = true → s.mer.halted = false →
      (s.mer.phase ≠ .full ∨ operatorReady s = true) →
    ∃ t, exec .pwrOff s = .next t ∧ t.slu.state = .off ∧ t.reach = State.reset.reach ∧ t.eph = {} ∧
      (∀ i : Fin 64, t.isl[i].powered = false) ∧ (∀ r : Fin 6, (t.slu.rail[r].settled = true → t.slu.rail[r].on = false) ∧
        (s.slu.state ≠ .keep → s.slu.rail[r].settled = true → t.slu.rail[r].on = false)) ∧
      (∀ (g : OutGroup) (k : Nat), clampOut t g k = some ((g.clamp s.params).testBit k)))

/-! ### The operator's commands -/

/-- From R163 to R168, R248, R297, R360, R383: REACH_CREATE from the operator in service, its fields in range and the resources free (layoutFor gives
what Meridian chooses). The entry is LOADING and LOCKED with the fields given and the debug level kept for it; the barges chosen are ACTIVE and its
own, the Basin units belong to it at its epoch, its positions are taken in the System Port's wheel and in the next wheel of every memory port, each
port gives it a quota of 16 for each of its slots, each link a CLOSED channel with its share; its budget is set, its keeper core runs, no other
reach changes, and no fuse does. -/
def Obligations.ReachCreate : Prop :=
  ∀ (s : State) (n : ReachId) (a : CreateArgs) (y : Layout), operatorReady s = true → createBad s n.val a = none → layoutFor s a = some y →
    ∃ t, exec (.reachCreate n.val a.flights a.units a.k a.base a.pages a.keys a.aqd) s = .next t ∧ answered t Code.done [] ∧
      t.reach[n].state = .loading ∧ t.reach[n].locked = true ∧ t.reach[n].flights = a.flights ∧ t.reach[n].units = y.units ∧
      t.reach[n].slotCount = a.k ∧ t.reach[n].slotPhase = y.phase ∧ t.reach[n].keyFirst = y.keyFirst ∧ t.reach[n].keyCount = a.keys ∧
      t.reach[n].memBase = a.base ∧ t.reach[n].memPages = a.pages ∧ t.reach[n].aqd = a.aqd ∧ t.reach[n].debug = s.reach[n].pendingDebug ∧
      (∀ b : BargeId, b ∈ y.barges → t.barge[b].role = .active ∧ t.barge[b].reach = n.val) ∧
      (∀ u : Fin 8, u.val ∈ y.units → t.basin.units[u].owner = n.val ∧ t.basin.units[u].epoch = t.reach[n].epoch) ∧
      t.sys.wheel = takeSlots (slotPositions a.k y.phase) n.val s.sys.wheel ∧
      (∀ p : PortId, t.port[p].quota[n] = 16 * a.k ∧
        t.port[p].nextWheel = some (takeSlots (slotPositions a.k y.phase) n.val (s.port[p].nextWheel.getD s.port[p].wheel))) ∧
      (∀ l : LinkId, t.link[l].chan[(⟨n.val, by omega⟩ : Fin 9)] = { share := a.aqd[l] }) ∧
      t.slu.reach[n].budgetW8 = y.budget ∧ t.keeper[svcOf n].core = .running ∧
      (∀ m : ReachId, m ≠ n → t.reach[m] = s.reach[m]) ∧ t.alm = s.alm

/-- From R148, R149, R380 to R388: the operator's SPILL, DEBUG_SET and DEBUG_TAP in service. SPILL sets or clears the reach's spill bit on every port,
no other reach's. DEBUG_SET of a LOADING or SEALED reach sets a level below OPEN, and the keeper core of a reach lowered from OPEN resumes; while
the reach is EMPTY it keeps the level for the next tenant; a raise to OPEN sets the level and puts the reach under the Dredge of R383. A level above
CLOSED, and an unlock, need a good life-cycle word. DEBUG_TAP locks or unlocks the TAP, and changes nothing in TEST. From R168, R169: REACH_DRAIN
from the operator in service. A SEALED reach enters DRAINING, or DREDGING at once, with its mode noted (1 cancels what is in flight); a LOADING one
enters DREDGING; a DRAINING one that was to finish takes the mode CANCEL. Of a SEALED or DRAINING reach's drain no other reach changes its state. No
fuse changes. -/
def Obligations.OperatorReach : Prop :=
  (∀ s : State, operatorReady s = true →
      (∀ (n : ReachId) (en : Nat), en ≤ 1 → s.reach[n].state ≠ .empty → s.reach[n].state ≠ .dredging →
        ∃ t, exec (.spill n.val en) s = .next t ∧ answered t Code.done [] ∧ t.reach = s.reach ∧
          (∀ p : PortId, t.port[p].spillEn[n] = (en == 1) ∧ ∀ m : Fin 8, m ≠ n → t.port[p].spillEn[m] = s.port[p].spillEn[m])) ∧
      (∀ (n : ReachId) (lv : Nat) (d : Debug), lv ≤ 1 → debugOf lv = some d → s.mer.lcMarginal = false ∨ lv = 0 →
        (s.reach[n].state = .loading ∨ s.reach[n].state = .sealed) →
        ∃ t, exec (.debugSet n.val lv) s = .next t ∧ answered t Code.done [] ∧
          t.reach = upd s.reach n (fun x => { x with debug := d }) ∧
          t.keeper[svcOf n].dbgHalted = (s.keeper[svcOf n].dbgHalted && s.reach[n].debug != .opened)) ∧
      (∀ (n : ReachId) (lv : Nat) (d : Debug), debugOf lv = some d → s.mer.lcMarginal = false ∨ lv = 0 → s.reach[n].state = .empty →
        ∃ t, exec (.debugSet n.val lv) s = .next t ∧ answered t Code.done [] ∧
          t.reach = upd s.reach n (fun x => { x with pendingDebug := d })) ∧
      (∀ n : ReachId, s.mer.lcMarginal = false → (s.reach[n].state = .loading ∨ s.reach[n].state = .sealed) → s.reach[n].debug ≠ .opened →
        ∃ t, exec (.debugSet n.val 2) s = .next t ∧ answered t Code.done [] ∧ t.reach[n].debug = .opened ∧ t.reach[n].dredge = .forOpen) ∧
      (∀ v : Nat, v ≤ 1 → s.mer.lcMarginal = false ∨ v = 0 →
        ∃ t, exec (.debugTap v) s = .next t ∧ answered t Code.done [] ∧
          t.eye = { s.eye with tapUnlocked := if s.mer.lc = .test ∧ s.mer.lcMarginal = false then s.eye.tapUnlocked else v == 1 })) ∧
  (∀ (s : State) (n : ReachId), operatorReady s = true →
      (∀ mode : Nat, mode ≤ 1 → s.reach[n].state = .sealed →
        ∃ t, exec (.reachDrain n.val mode) s = .next t ∧ answered t Code.done [] ∧
          (t.reach[n].state = .draining ∨ t.reach[n].state = .dredging) ∧ t.reach[n].drainCancel = (mode == 1) ∧
          (∀ m : ReachId, m ≠ n → t.reach[m].state = s.reach[m].state) ∧ t.alm = s.alm) ∧
      (∀ mode : Nat, mode ≤ 1 → s.reach[n].state = .loading →
        ∃ t, exec (.reachDrain n.val mode) s = .next t ∧ answered t Code.done [] ∧ t.reach[n].state = .dredging ∧ t.alm = s.alm) ∧
      (s.reach[n].state = .draining → s.reach[n].drainCancel = false →
        ∃ t, exec (.reachDrain n.val 1) s = .next t ∧ answered t Code.done [] ∧
          (t.reach[n].state = .draining ∨ t.reach[n].state = .dredging) ∧ t.reach[n].drainCancel = true ∧
          (∀ m : ReachId, m ≠ n → t.reach[m].state = s.reach[m].state) ∧ t.alm = s.alm))

/-- From R144, R214, R217: LAT_LEVEL from the operator in service, with 16-bit values, clamps the System Port's level to 256 to 2,048 and the memory
ports' to 128 to 1,024; 0 leaves a level as it is; the answer is CLAMPED exactly when a value was clamped. From R45, R340, R421: the logs, to the
operator in service. ALERT_LOG answers the total in bytes and the records from its offset (a multiple of 16 below 2^32), and marks all of them read
exactly when it carried the newest; ACK_LOG answers the ACKs. Neither changes anything else but what every operator message uses (its session and
slots, its counters, a waiting PWR_KEEP, the outputs). From R381, R386, R390: the operator's window, in service. WIN_READ of 1 to 64 words inside
the window answers four bytes for each word asked for, the word at offset 0 being GLB_ID; a WIN_WRITE of EYE_TRACE_CTL sets its fields, clears ERR,
and changes nothing else of Eyepiece. -/
def Obligations.OperatorReads : Prop :=
  (∀ (s : State) (a b : Nat), operatorReady s = true → a < 2 ^ 16 → b < 2 ^ 16 →
      ∃ t, exec (.latLevel a b) s = .next t ∧
        t.sys.latLevel = (if a = 0 then s.sys.latLevel else max 256 (min 2048 a)) ∧
        (∀ p : PortId, t.port[p].latLevel = if b = 0 then s.port[p].latLevel else max 128 (min 1024 b)) ∧
        answered t (if (a ≠ 0 ∧ (a < 256 ∨ 2048 < a)) ∨ (b ≠ 0 ∧ (b < 128 ∨ 1024 < b)) then Code.clamped else Code.done) [] ∧
        t.alm = s.alm ∧ t.reach = s.reach ∧ t.barge = s.barge) ∧
  (∀ s : State, operatorReady s = true →
      (∀ off : Nat, off % 16 = 0 → off < 2 ^ 32 →
        ∃ t d, exec (.alertLog off) s = .next t ∧ answered t Code.done d ∧
          d = leBytes 4 (16 * s.alerts.records.length) ++ (s.alerts.records.flatMap Alert.bytes).drop off ∧
          t.alerts = { s.alerts with readUpTo := if off < 16 * s.alerts.records.length then s.alerts.nextSeq else s.alerts.readUpTo } ∧
          t = { s with alerts := t.alerts, eph := t.eph, spdm := t.spdm, slu := t.slu, chr := t.chr, out := t.out }) ∧
      (∃ t, exec .ackLog s = .next t ∧ answered t Code.done s.stc.acks.flatten ∧
        t = { s with eph := t.eph, spdm := t.spdm, slu := t.slu, chr := t.chr, out := t.out })) ∧
  (∀ s : State, operatorReady s = true →
      (∀ off n : Nat, 1 ≤ n → n ≤ 64 → off + 4 * n ≤ 2 ^ 24 →
        ∃ t d, exec (.winRead off n) s = .next t ∧ answered t Code.done d ∧ d.length = 4 * n) ∧
      (∃ t, exec (.winRead 0 1) s = .next t ∧ answered t Code.done [0x58, 0x52, 0x4F, 0x47]) ∧
      (∀ w : Word,
        ∃ t, exec (.winWrite 0x70010 w) s = .next t ∧ answered t Code.done [] ∧
          t.eye = { s.eye with reachEn := BitVec.ofNat 8 w.toNat, sluEn := w.getLsbD 8, merEn := w.getLsbD 9, freeze := w.getLsbD 10,
                               err := false }))

/-- From R301, R390: LINK_OPEN from the operator in service, of a CLOSED channel whose link is up (a reach's own while the reach is SEALED and has a
share), enters HANDSHAKE and keeps the share. LINK_WRAP_KEY, while no generation 1 Meridian channel is OPEN, leaves slot 5 not VALID for the zero
key, and otherwise VALID with the key. -/
def Obligations.LinkCommands : Prop :=
  ∀ s : State, operatorReady s = true →
    (∀ (l : LinkId) (c : Fin 9), linkUp s l = true → s.link[l].chan[c].state = .closed →
      (∀ n : ReachId, n.val = c.val → s.reach[n].state = .sealed ∧ 0 < s.link[l].chan[c].share) →
      ∃ t, exec (.linkOpen l.val (chanCode c)) s = .next t ∧ answered t Code.done [] ∧
        t.link[l].chan[c].state = .handshake ∧ t.link[l].chan[c].share = s.link[l].chan[c].share) ∧
    (∀ key : Vector Byte 32, (∀ l : LinkId, s.link[l].chan[(8 : Fin 9)].state ≠ .opened ∨ s.link[l].chan[(8 : Fin 9)].gen2 = true) →
      ∃ t, exec (.linkWrapKey key) s = .next t ∧ answered t Code.done [] ∧
        (if key.toList = zeros 32 then t.eph.slots[(5 : SlotId)].state ≠ .valid
          else t.eph.slots[(5 : SlotId)].state = .valid ∧ t.eph.slots[(5 : SlotId)].key = key.toList))

/-- From R226, R238 to R242, R255: life cycle, from PROVISION or from the operator in service. LC_NONCE outside SCRAP with CTR_DRBG healthy answers 32
bytes and keeps them as a nonce of this start. LC_ADVANCE with a token whose fields are not in order is answered with their status and changes
neither the Almanac nor Meridian; one in order, with Astrolabe free and no Almanac job, is verified: when its hybrid signature holds, its nonce is
spent and the mark of the state it names becomes the running job; else it is refused BAD_STATE and no job begins. LC_SCRAP, once and outside an
advance, halts the block at once, every reach EMPTY, every keeper core nothing but its timer, and the SCRAP mark the running job. -/
def Obligations.LifeCycle : Prop :=
  ∀ s : State, provisionReady s = true →
    (s.mer.lc ≠ .scrap → s.eph.drbgOk = true →
      ∃ t d, exec .lcNonce s = .next t ∧ answered t Code.done d ∧ d.length = 32 ∧ t.mer = { s.mer with nonces := d :: s.mer.nonces }) ∧
    (∀ (tok : Bytes) (st : Nat), tokenBad s tok = some st →
      ∃ t, exec (.lcAdvance tok) s = .next t ∧ answered t st [] ∧ t.alm = s.alm ∧ t.mer = s.mer) ∧
    (∀ (tok : Bytes) (l : Lc), tokenBad s tok = none → lcStep s.mer.lc (leAt tok 49 1) = some l → astHeld 0xE s = false → s.alm.busy = none →
      s.mer.step ≠ .almanac →
      ∃ t, exec (.lcAdvance tok) s = .next t ∧
        (if (hybridVerify (Config.vendorP384 true).toList (Config.vendorMldsa true).toList 3 (tok.take 84) (tok.drop 84) s).1 = true then
          t.mer.lcBusy = true ∧ t.mer.nonces = s.mer.nonces.filter (· != slice tok 50 32) ∧ t.alm.busy = some (.mgmt, .lcMark l)
         else answered t Code.badState [] ∧ t.alm = s.alm ∧ t.mer.lcBusy = s.mer.lcBusy ∧ t.mer.nonces = s.mer.nonces)) ∧
    (s.mer.lc ≠ .scrap → s.mer.lcBusy = false → s.alm.busy = none →
      ∃ t, exec .lcScrap s = .next t ∧ t.mer.phase = .halted ∧ t.alm.busy = some (.mgmt, .lcMark .scrap) ∧
        t.reach = State.reset.reach ∧ (∀ r : SvcId, t.keeper[r] = s.keeper[r].timer) ∧ t.alm.words = s.alm.words)

/-! ### The Almanac -/

/-- From R322, R327, R329: the controller's registers, while Meridian runs, no job runs and the full read is over. A READ of a word below 2048, a
PROGRAM of a listed word (its value in ALM_DATA) that is not refused, a LOCK of partition 1 to 5 (its digest in ALM_DATA) that is not refused,
REPAIR, SEE_CRITICAL, and GEN_ROOTS while the roots are unlocked and CTR_DRBG is healthy become the running job; no word changes and nothing else of
the block but Sluice's rail of VDD_OTP, its counters and the outputs. A READ past the last word and a LOCK of another partition end with
BAD_DESCRIPTOR. -/
def Obligations.AlmanacRegisters : Prop :=
  ∀ s : State, controllerFree s = true → s.alm.busy = none → s.mer.step ≠ .almanac →
    (∀ w : Nat, w < 2048 → ∃ t, exec (.almRead w) s = .next t ∧
      t = { s with alm := { s.alm with busy := some (.regs, .read w) }, slu := t.slu, chr := t.chr, out := t.out }) ∧
    (∀ (w : Nat) (v : BitVec 64), listedWord w = true → jobBad s.alm [] (.program w v) = none →
      ∃ t, exec (.almProgram w v) s = .next t ∧
        t = { s with alm := { s.alm with data := v, busy := some (.regs, .program w v) }, slu := t.slu, chr := t.chr, out := t.out }) ∧
    (∀ (p : Nat) (d : BitVec 64), 1 ≤ p → p ≤ 5 → jobBad s.alm [] (.lock p d) = none →
      ∃ t, exec (.almLockPart p d) s = .next t ∧
        t = { s with alm := { s.alm with data := d, busy := some (.regs, .lock p d) }, slu := t.slu, chr := t.chr, out := t.out }) ∧
    (∃ t, exec .almRepairCmd s = .next t ∧
      t = { s with alm := { s.alm with busy := some (.regs, .repair) }, slu := t.slu, chr := t.chr, out := t.out }) ∧
    (∃ t, exec .seeCritical s = .next t ∧
      t = { s with alm := { s.alm with busy := some (.regs, .critical) }, slu := t.slu, chr := t.chr, out := t.out }) ∧
    (s.alm.part 3 = .unlocked → s.eph.drbgOk = true → ∃ t, exec .genRoots s = .next t ∧
      t = { s with alm := { s.alm with busy := some (.regs, .genRoots) }, slu := t.slu, chr := t.chr, out := t.out }) ∧
    (∀ (c : Instr) (d : BitVec 64) (n : Nat), (c = .almRead n ∧ 2048 ≤ n ∨ c = .almLockPart n d ∧ (n < 1 ∨ 5 < n)) →
      ∃ t, exec c s = .next t ∧ t = { s with alm := { s.alm with status := Code.badDescriptor, data := 0 }, events := t.events })

/-- From R316, R322, R327: the Almanac commands of the Management Port, from PROVISION or from the operator in service, while no job runs and the full
read is over. Each whose life-cycle state, partition and operands allow it becomes the running job and changes nothing else of the Almanac; in a
life-cycle state that does not allow it, it is answered BAD_STATE and changes nothing of the Almanac. -/
def Obligations.AlmanacCommands : Prop :=
  ∀ s : State, provisionReady s = true → s.alm.busy = none → s.mer.step ≠ .almanac →
    (∀ (w : Nat) (v : BitVec 64), lcIn s provisionStates = true → (partOf w = some 1 ∨ partOf w = some 2 ∨ partOf w = some 4) →
      jobBad s.alm [] (.program w v) = none →
      ∃ t, exec (.almProvisionWrite w v) s = .next t ∧ t.alm = { s.alm with busy := some (.mgmt, .program w v) }) ∧
    (lcIn s provisionStates = true → s.alm.part 3 = .unlocked → s.eph.drbgOk = true →
      ∃ t, exec .almGenRoots s = .next t ∧ t.alm = { s.alm with busy := some (.mgmt, .genRoots) }) ∧
    (∀ (p : Nat) (d : BitVec 64), 1 ≤ p → p ≤ 5 → lcIn s (if p = 5 then fieldStates else provisionStates) = true →
      jobBad s.alm [] (.lock p d) = none →
      ∃ t, exec (.almLock p d) s = .next t ∧ t.alm = { s.alm with busy := some (.mgmt, .lock p d) }) ∧
    (∀ (w : Nat) (v : BitVec 64), lcIn s fieldStates = true → partOf w = some 5 → jobBad s.alm [] (.program w v) = none →
      ∃ t, exec (.almLicenseeWrite w v) s = .next t ∧ t.alm = { s.alm with busy := some (.mgmt, .program w v) }) ∧
    (∀ i : Nat, lcIn s fieldStates = true → (i < 4 ∨ 8 ≤ i ∧ i < 12) → s.alm.lastSigner i = false →
      ∃ t, exec (.almRevoke i) s = .next t ∧ t.alm = { s.alm with busy := some (.mgmt, .revoke i) }) ∧
    (∀ c v : Nat, lcIn s fieldStates = true → 1 ≤ c → c ≤ 7 → v ≤ 4096 → s.alm.counters.toList.getD c 0 ≤ v →
      ∃ t, exec (.almCounterAdvance c v) s = .next t ∧ t.alm = { s.alm with busy := some (.mgmt, .counter c v) }) ∧
    (lcIn s fieldStates = true →
      ∃ t, exec .almRepair s = .next t ∧ t.alm = { s.alm with busy := some (.mgmt, .repair) }) ∧
    (∀ (c : Instr) (w n : Nat) (v : BitVec 64),
      (lcIn s provisionStates = false ∧ (c = .almProvisionWrite w v ∨ c = .almGenRoots) ∨
       lcIn s fieldStates = false ∧ (c = .almLicenseeWrite w v ∨ c = .almRevoke w ∨ c = .almCounterAdvance w n ∨ c = .almRepair)) →
      ∃ t, exec c s = .next t ∧ answered t Code.badState [] ∧ t.alm = s.alm)

/-- From R316, R319, R320, R325, R329: the end of a job. A READ ends DONE with the word as it may be used in ALM_DATA, zero for a word of the roots, and
no word changes. A PROGRAM that is not refused, in its window, with no word marginal and no spare row read for its word, ends DONE when it is
verified: its word holds the old bits and the new ones, every other word what it held; when its window is not met or lost at once, it ends
OTP_WINDOW and no word changes. A critical read leaves every word, and marks the critical words it saw and no others. A critical read becomes due
when the temperature has crossed, or 24 hours after the last. -/
def Obligations.AlmanacJobs : Prop :=
  (∀ (s : State) (who : AlmWho) (w : Nat) (o : ProgOutcome) (m sp : List Nat), s.alm.busy = some (who, .read w) →
    ∃ t, exec (.almCmdDone o m sp) s = .next t ∧ t.alm.status = Code.done ∧ t.alm.busy = s.alm.waiting.head? ∧ t.alm.words = s.alm.words ∧
      t.alm.spares = s.alm.spares ∧ t.alm.data = (if 0x080 ≤ w ∧ w ≤ 0x09E then 0 else s.alm.used w)) ∧
  (∀ (s : State) (who : AlmWho) (w : Nat) (v : BitVec 64), s.alm.busy = some (who, .program w v) → jobBad s.alm [] (.program w v) = none →
    windowMet s = true → s.alm.marginalWords = [] → s.alm.row w = none →
    ∃ t, exec (.almCmdDone .verified [] []) s = .next t ∧ t.alm.status = Code.done ∧ t.alm.raw w = s.alm.raw w ||| v ∧
      (∀ x : Nat, x ≠ w → t.alm.raw x = s.alm.raw x) ∧ t.alm.spares = s.alm.spares) ∧
  (∀ (s : State) (who : AlmWho) (w : Nat) (v : BitVec 64) (o : ProgOutcome) (sp : List Nat), s.alm.busy = some (who, .program w v) →
    jobBad s.alm [] (.program w v) = none → windowWaits s = false → (o = .windowLost ∨ windowMet s = false) →
    ∃ t, exec (.almCmdDone o [] sp) s = .next t ∧ t.alm.status = Code.otpWindow ∧ t.alm.words = s.alm.words ∧ t.alm.spares = s.alm.spares) ∧
  (∀ (s : State) (who : AlmWho) (o : ProgOutcome) (m sp : List Nat), s.alm.busy = some (who, .critical) →
    ∃ t, exec (.almCmdDone o m sp) s = .next t ∧ t.alm.status = Code.done ∧ t.alm.words = s.alm.words ∧ t.alm.readAt = secPs s ∧
      ∀ w : Nat, (w ∈ t.alm.marginal ↔ if criticalWord w = true then w ∈ m else w ∈ s.alm.marginal)) ∧
  (∀ (s : State) (c : CritCause), controllerFree s = true → s.alm.busy = none → s.alm.waiting = [] → s.mer.step ≠ .almanac →
    (match c with
     | .crossing => crossed s = true
     | .daily => waited (secPs s) s.alm.readAt (86400 * secondPs) = true) →
    ∃ t, exec (.almanacCriticalRead c) s = .next t ∧ t.alm = { s.alm with busy := some (.internal, .critical) } ∧
      t = { s with alm := t.alm, slu := t.slu })

/-- From R310, R325: fuses are programmed once. Whatever command comes, and whatever state it meets, a bit of an Almanac word that reads 1 never reads 0
again. -/
def Obligations.FusesNeverClear : Prop :=
  ∀ (s t : State) (w j : Nat), s.fuse w j = true → step s = .next t → t.fuse w j = true

/-! ### Ephemeris and Astrolabe -/

/-- From R245 to R251: Ephemeris's commands, while none runs and the security island does. LOAD_ROOT, WRITE and DERIVE that are not refused leave the
slot they name VALID with the key, owner, parent, depth and engines given, every other slot as it is, and BUSY 1; refused, they change no slot and
end with their status. INVALIDATE empties its slot, and a VALID child of a slot that was VALID leaves VALID; INVALIDATE_OWNER empties every slot of
the owner; EXPIRE_OWNER leaves each VALID slot of the owner with LIFETIME EXPIRE EXPIRED and empty. Nothing but Ephemeris and its counters changes
with the first three, and the memory ports besides with the invalidations. -/
def Obligations.EphemerisCommands : Prop :=
  ∀ s : State, s.eph.busy = false → securityUp s = true →
    (∀ i : SlotId, loadRootBad i s = none →
      ∃ t, exec (.loadRoot i) s = .next t ∧ t = { s with eph := t.eph, chr := t.chr } ∧ t.eph.busy = true ∧ t.eph.outcome = Code.done ∧
        t.eph.slots[i].state = .valid ∧ t.eph.slots[i].key = rootBytes s i ∧ t.eph.slots[i].owner = 0xE ∧
        t.eph.slots[i].engines = [.kdf] ∧ t.eph.slots[i].parent = none ∧ t.eph.slots[i].depth = 0 ∧
        (∀ j : SlotId, j ≠ i → t.eph.slots[j] = s.eph.slots[j])) ∧
    (∀ (i p : SlotId) (o : Nat) (e : BitVec 7) (lt kl : BitVec 2) (u : Word) (key : Bytes), ephWriteBad i p o lt kl u s = none →
      ∃ t, exec (.ephWrite i p o e lt kl u key) s = .next t ∧ t = { s with eph := t.eph, chr := t.chr } ∧ t.eph.busy = true ∧
        t.eph.outcome = Code.done ∧ t.eph.slots[i].state = .valid ∧
        t.eph.slots[i].key = (padTo 0 64 key).take (klenBytes kl.toNat) ∧ t.eph.slots[i].owner = o ∧
        t.eph.slots[i].engines = enginesOf e ∧ t.eph.slots[i].parent = (if p = i then none else some p) ∧
        t.eph.slots[i].depth = (if p = i then 0 else s.eph.slots[p].depth + 1) ∧
        (∀ j : SlotId, j ≠ i → t.eph.slots[j] = s.eph.slots[j])) ∧
    (∀ (i q : SlotId) (o : Nat) (lb : BitVec 4) (e : BitVec 7) (lt kl : BitVec 2) (u : Word) (ctx : Bytes), ctx.length < 128 →
      deriveBad i q o lb lt kl u s = none →
      ∃ t, exec (.derive i q o lb e lt kl u ctx) s = .next t ∧ t = { s with eph := t.eph, chr := t.chr } ∧ t.eph.busy = true ∧
        t.eph.outcome = Code.done ∧ t.eph.slots[i].state = .valid ∧ t.eph.slots[i].key = derivedKey s q lb.toNat ctx ∧
        t.eph.slots[i].owner = o ∧ t.eph.slots[i].engines = enginesOf e ∧ t.eph.slots[i].parent = some q ∧
        t.eph.slots[i].depth = s.eph.slots[q].depth + 1 ∧ (∀ j : SlotId, j ≠ i → t.eph.slots[j] = s.eph.slots[j])) ∧
    (∀ (c : Instr) (i p : SlotId) (o : Nat) (lb : BitVec 4) (e : BitVec 7) (lt kl : BitVec 2) (u : Word) (d : Bytes) (st : Nat),
      (c = .loadRoot i ∧ loadRootBad i s = some st ∨ c = .ephWrite i p o e lt kl u d ∧ ephWriteBad i p o lt kl u s = some st ∨
       c = .derive i p o lb e lt kl u d ∧ deriveBad i p o lb lt kl u s = some st) →
      ∃ t, exec c s = .next t ∧ t.eph.slots = s.eph.slots ∧ t.eph.busy = true ∧ t.eph.outcome = st) ∧
    (∀ i : SlotId,
      ∃ t, exec (.invalidate i) s = .next t ∧ t = { s with eph := t.eph, chr := t.chr, port := t.port } ∧ t.eph.busy = true ∧
        t.eph.slots[i].state = .invalid ∧ t.eph.slots[i].key = [] ∧
        (∀ j : SlotId, s.eph.slots[j].parent = some i → j ≠ i → s.eph.slots[i].state = .valid → t.eph.slots[j].state ≠ .valid)) ∧
    (∀ o : Nat,
      ∃ t, exec (.invalidateOwner o) s = .next t ∧ t = { s with eph := t.eph, chr := t.chr, port := t.port } ∧ t.eph.busy = true ∧
        (∀ j : SlotId, s.eph.slots[j].owner = o → t.eph.slots[j].state = .invalid ∧ t.eph.slots[j].key = [])) ∧
    (∀ o : Nat,
      ∃ t, exec (.expireOwner o) s = .next t ∧ t = { s with eph := t.eph, chr := t.chr } ∧ t.eph.busy = true ∧
        (∀ j : SlotId, s.eph.slots[j].owner = o → s.eph.slots[j].lifetime = .expire → s.eph.slots[j].state = .valid →
          t.eph.slots[j].state = .expired ∧ t.eph.slots[j].key = []))

/-- From R249, R255 to R257: EPH_CMD_DONE, while a command runs, ends it with its status and zeroes the key and context registers. A key use that its
slot grants, while the security island runs, changes nothing of a slot that is not COUNTED and counts down one that is; the last use leaves it
EXHAUSTED without its key. A use that is not granted changes no slot and raises an operator alert with its KEY_ status. DRBG_RESEED clears the
request count, and one whose health test fails stops CTR_DRBG and alerts the operator. -/
def Obligations.EphemerisUse : Prop :=
  (∀ s : State, s.eph.busy = true →
    ∃ t, exec .ephCmdDone s = .next t ∧ t = { s with eph := { s.eph with
      busy := false, status := s.eph.outcome, target := none, key := zeros 64, ctx := zeros 128 } }) ∧
  (∀ (s : State) (i : SlotId) (e : Engine) (o : Nat), securityUp s = true → judgeUse s.eph.slots[i] e o = Code.done →
    ∃ t, exec (.keyUse i e o) s = .next t ∧ t = { s with eph := { s.eph with slots := t.eph.slots } } ∧
      (if s.eph.slots[i].lifetime ≠ .counted then t = s
       else if 2 ≤ s.eph.slots[i].uses then
         t.eph.slots[i] = { s.eph.slots[i] with uses := s.eph.slots[i].uses - 1 } ∧ (∀ j : SlotId, j ≠ i → t.eph.slots[j] = s.eph.slots[j])
       else t.eph.slots[i].state = .exhausted ∧ t.eph.slots[i].key = [])) ∧
  (∀ (s : State) (i : SlotId) (e : Engine) (o : Nat), securityUp s = true → judgeUse s.eph.slots[i] e o ≠ Code.done →
    ∃ t, exec (.keyUse i e o) s = .next t ∧ t.eph = s.eph ∧
      t.alerts.records.getLast?.map Alert.status = some (judgeUse s.eph.slots[i] e o)) ∧
  (∀ s : State, securityUp s = true →
    (∃ t, exec (.drbgReseed true) s = .next t ∧ t = { s with eph := { s.eph with drbgOk := true, drbgRequests := 0 } }) ∧
    (∃ t, exec (.drbgReseed false) s = .next t ∧ t.eph = { s.eph with drbgOk := false } ∧
      t.alerts.records.getLast?.map Alert.status = some Code.drbgFail))

/-- From R263 to R269, R274: each operation of Astrolabe that is not refused, while the security island runs, begins: it is recorded with its owner and
key line, the owner holds the operand memory (wiped first when the owner changes), the result area is zero and the state RUNNING. For the operations
but the two key generations, and SELFTEST, nothing changes outside Astrolabe, Ephemeris, the session offers, the counters and the free values.
P384_KEYGEN and MLDSA_KEYGEN take the seed that AST_CMD_ARG chooses: evaluated from a slot, the use judged at the start, or drawn. -/
def Obligations.AstrolabeBegins : Prop :=
  ∀ (s : State) (o k : Nat), securityUp s = true →
    (∀ (c : Instr) (op : AstOp),
      (c = .p384Verify o k ∧ op = .p384Verify ∨ c = .p384Sign o k ∧ op = .p384Sign ∨ c = .p384Ecdh o k ∧ op = .p384Ecdh ∨
       c = .ed25519Verify o k ∧ op = .ed25519Verify ∨ c = .rsa4096Verify o k ∧ op = .rsa4096Verify ∨
       c = .rsa4096Crt o k ∧ op = .rsa4096Crt ∨ c = .mlkemKeygen o k ∧ op = .mlkemKeygen ∨
       c = .mlkemEncaps o k ∧ op = .mlkemEncaps ∨ c = .mlkemDecaps o k ∧ op = .mlkemDecaps ∨
       c = .mldsaSign o k ∧ op = .mldsaSign ∨ c = .mldsaVerify o k ∧ op = .mldsaVerify ∨
       c = .selftest o ∧ op = .selftest ∧ k = 0) →
      astRefusal op o k none s = none →
      ∃ t j, exec c s = .next t ∧ t.ast.job = some j ∧ j.op = op ∧ j.owner = o ∧ j.keyline = k ∧ j.keyStatus = Code.done ∧
        t.ast.owner = o ∧ t.ast.state = .running ∧ memBytes t.ast.mem astResult 0x2000 = zeros 0x2000 ∧
        (s.ast.owner ≠ o → t.ast.mem = []) ∧
        t = { s with ast := t.ast, eph := t.eph, spdm := t.spdm, chr := t.chr, freeCtr := t.freeCtr }) ∧
    (∀ (c : Instr) (op : AstOp) (src : Bool) (lb : BitVec 4) (slot : SlotId),
      (c = .p384Keygen o k src lb slot ∧ op = .p384Keygen ∨ c = .mldsaKeygen o k src lb slot ∧ op = .mldsaKeygen) →
      astRefusal op o k (if src = true then some lb.toNat else none) s = none →
      ∃ t j, exec c s = .next t ∧ t.ast.job = some j ∧ j.op = op ∧ j.owner = o ∧ j.keyline = k ∧
        j.keyStatus = (if src = true then judgeUse s.eph.slots[slot] .astrolabe o else Code.done) ∧
        t.ast.owner = o ∧ t.ast.state = .running ∧ memBytes t.ast.mem astResult 0x2000 = zeros 0x2000 ∧
        (s.ast.owner ≠ o → t.ast.mem = []))

/-- From R262, R265, R270, R272, R275, R395: the end of an operation other than SELFTEST whose key was granted. Where its invariants hold its outcome
stands in the result header; a failed invariant wipes the operand memory, is counted and alerted, and SELFTEST runs before any other command. A
SELFTEST ends IDLE, or FAULTED with an alert. A parity error in the program store aborts and leaves FAULTED: every later operation is refused
BAD_STATE. ABORT, with the store loaded and no SELFTEST of Astrolabe's own, wipes everything. An idle Astrolabe begins SELFTEST 14,400 s after the
last. From R273, R274, R278: AST_DMA while the security island runs. With GO, a transfer in range begins for its owner, the operand memory wiped
first when the owner changes; without GO, while nothing runs, it writes the fields alone. AST_DMA_DONE moves the lines out of the result area to
Meridian's SRAM, or into the input area from the SRAM or the Boot Store, and ends DONE. -/
def Obligations.AstrolabeEnds : Prop :=
  ((∀ (s : State) (j : AstJob) (p : Bool), s.ast.job = some j → j.op ≠ .selftest → j.keyStatus = Code.done → s.ast.upset = false →
      (astCompute j s.ast.mem).holds = true →
      ∃ t, exec (.astrolabeOpDone true p false) s = .next t ∧ t = { s with ast := t.ast } ∧ t.ast.job = none ∧ t.ast.state = .idle ∧
        t.ast.resStatus = (astCompute j s.ast.mem).status ∧ t.ast.resVerdict = (astCompute j s.ast.mem).verdict ∧
        t.ast.resLength = (astCompute j s.ast.mem).result.length ∧ t.ast.owner = s.ast.owner) ∧
    (∀ (s : State) (j : AstJob) (p : Bool), s.ast.job = some j → j.op ≠ .selftest → j.keyStatus = Code.done →
      ∃ t, exec (.astrolabeOpDone false p false) s = .next t ∧ t.ast.mem = [] ∧ t.ast.resStatus = Code.bnInvariantFail ∧
        t.ast.invFails = satInc 8 s.ast.invFails ∧ t.ast.job = some ownSelftest ∧
        t.alerts.records.getLast?.map Alert.status = some Code.bnInvariantFail) ∧
    (∀ (s : State) (j : AstJob) (h p : Bool), s.ast.job = some j → j.op = .selftest → s.ast.upset = false →
      ∃ t, exec (.astrolabeOpDone h p false) s = .next t ∧ t.ast.job = none ∧ t.ast.selftestAt = secPs s ∧
        (if p = true then t.ast.state = .idle ∧ t.alerts = s.alerts
         else t.ast.state = .faulted ∧ t.alerts.records.getLast?.map Alert.status = some Code.selftestFail)) ∧
    (∀ (s : State) (j : AstJob) (h p : Bool), s.ast.job = some j →
      ∃ t, exec (.astrolabeOpDone h p true) s = .next t ∧ t.ast.mem = [] ∧ t.ast.job = none ∧ t.ast.owner = 0xF ∧
        t.ast.state = .faulted ∧ t.ast.resStatus = Code.badState ∧
        ∀ (op : AstOp) (o k : Nat) (l : Option Nat), astRefusal op o k l t = some Code.badState) ∧
    (∀ s : State, securityUp s = true → s.ast.state ≠ .faulted → s.ast.progLoaded = true → s.ast.job ≠ some ownSelftest →
      ∃ t, exec .abort s = .next t ∧ t.ast.job = none ∧ t.ast.dma = none ∧ t.ast.mem = [] ∧ t.ast.entries = [] ∧ t.ast.owner = 0xF ∧
        t.ast.state = .idle ∧ t.ast.resStatus = (if s.ast.job = none then 0 else Code.badState)) ∧
    (∀ s : State, securityUp s = true → astBusy s.ast = false → s.ast.state ≠ .faulted →
      waited (secPs s) s.ast.selftestAt (14400 * secondPs) = true →
      ∃ t j, exec .astrolabeSelftestDue s = .next t ∧ t.ast.job = some j ∧ j.op = .selftest ∧ t.ast.state = .running)) ∧
  ((∀ (s : State) (a : Word) (out boot : Bool) (line n o sa : Nat), securityUp s = true →
      dmaBad out boot line n (a.toNat / 64 * 64) o s = none →
      ∃ t, exec (.astDma a out boot line n o sa true) s = .next t ∧
        t.ast.dma = some { out := out, line := line, count := n, addr := a.toNat / 64 * 64, storeAddr := sa, bootStream := boot && !out } ∧
        t.ast.owner = o ∧ t.ast.state = .running ∧ (s.ast.owner ≠ o → t.ast.mem = []) ∧ t = { s with ast := t.ast, spdm := t.spdm }) ∧
    (∀ (s : State) (a : Word) (out boot : Bool) (line n o sa : Nat), securityUp s = true → astBusy s.ast = false →
      exec (.astDma a out boot line n o sa false) s = .next { s with ast := { s.ast with
        dmaAddr := a.toNat / 64 * 64, dmaOut := out, dmaBoot := boot, dmaLine := line, dmaCount := n, dmaOwner := o } }) ∧
    (∀ (s : State) (m : AstDma), s.ast.dma = some m →
      ∃ t, exec .astDmaDone s = .next t ∧ t.ast.dma = none ∧ t.ast.dmaStatus = Code.done ∧ t = { s with ast := t.ast, mer := t.mer } ∧
        (if m.out = true then
            t.ast.mem = s.ast.mem ∧ t.mer = { s.mer with sram := memPut s.mer.sram m.addr (memBytes s.ast.mem (astResult + 64 * m.line) (64 * m.count)) }
          else t.mer = s.mer ∧ t.ast.mem = memPut s.ast.mem (astInput + 64 * m.line)
            (if m.bootStream = true then (List.range (64 * m.count)).map fun i => storeByte s.stc (m.storeAddr + i)
             else memBytes s.mer.sram m.addr (64 * m.count)))))

/-! ### Towpath -/

/-- From R349 to R352: messages on a channel, outside KEEP. The sender writes a word of an EMPTY channel and SENDs it, which makes it FULL and sets the
receiver's doorbell bit; the receiver TAKES it (no outcome of a Towpath stream waiting), which zeroes the words, makes it EMPTY and sets the
sender's EMPTY bit; an endpoint's own write of 1s clears its doorbell or EMPTY bits and nothing else. A word or SEND of the sender while FULL, and a
TAKEN of the receiver while EMPTY, change no channel and leave a record of rule STATE. -/
def Obligations.TowpathMessages : Prop :=
  ∀ (s : State) (c : ChanId), s.slu.state ≠ .keep →
    (∀ (w : Fin 16) (d : Word), s.twp.chan[c].state = .empty →
      ∃ t, exec (.twpMsgWrite s.twp.chan[c].sender c w d) s = .next t ∧ t = { s with twp := t.twp, slu := t.slu } ∧ t.twp.ep = s.twp.ep ∧
        t.twp.chan = upd s.twp.chan c (fun x => { x with words := put x.words w d })) ∧
    (∀ e : Fin 13, s.twp.chan[c].state = .empty → s.twp.chan[c].receiver = e.val →
      ∃ t, exec (.send s.twp.chan[c].sender c) s = .next t ∧ t = { s with twp := t.twp, slu := t.slu, sys := t.sys } ∧
        t.twp.chan = upd s.twp.chan c (fun x => { x with state := .full }) ∧
        t.twp.ep = upd s.twp.ep e (fun x => { x with db := put x.db c true })) ∧
    (∀ e : Fin 13, s.twp.chan[c].state = .full → s.twp.chan[c].sender = e.val → s.stc.outcomes = [] →
      ∃ t, exec (.taken s.twp.chan[c].receiver c) s = .next t ∧ t = { s with twp := t.twp, slu := t.slu, sys := t.sys, chr := t.chr } ∧
        t.twp.chan = upd s.twp.chan c (fun x => { x with state := .empty, words := Vector.replicate 16 0 }) ∧
        t.twp.ep = upd s.twp.ep e (fun x => { x with empty := put x.empty c true })) ∧
    (∀ (e : Fin 13) (d : Word),
      ∃ t, exec (.twpDbClear e.val e d) s = .next t ∧ t = { s with twp := t.twp, slu := t.slu } ∧ t.twp.chan = s.twp.chan ∧
        (∀ i : Fin 32, t.twp.ep[e].db[i] = (s.twp.ep[e].db[i] && !d.getLsbD i.val)) ∧ t.twp.ep[e].empty = s.twp.ep[e].empty ∧
        (∀ f : Fin 13, f ≠ e → t.twp.ep[f] = s.twp.ep[f])) ∧
    (∀ (e : Fin 13) (d : Word),
      ∃ t, exec (.twpEmptyClear e.val e d) s = .next t ∧ t = { s with twp := t.twp, slu := t.slu } ∧ t.twp.chan = s.twp.chan ∧
        (∀ i : Fin 32, t.twp.ep[e].empty[i] = (s.twp.ep[e].empty[i] && !d.getLsbD i.val)) ∧ t.twp.ep[e].db = s.twp.ep[e].db ∧
        (∀ f : Fin 13, f ≠ e → t.twp.ep[f] = s.twp.ep[f])) ∧
    (∀ (i : Instr) (w : Fin 16) (d : Word),
      (s.twp.chan[c].state = .full ∧ (i = .twpMsgWrite s.twp.chan[c].sender c w d ∨ i = .send s.twp.chan[c].sender c) ∨
       s.twp.chan[c].state = .empty ∧ i = .taken s.twp.chan[c].receiver c) →
      ∃ t, exec i s = .next t ∧ t = { s with slu := t.slu, sys := t.sys } ∧ t.sys.audit.getLast?.map Audit.rule = some AuditRule.state)

/-- From R346, R347, R372: bindings. Before LOCK a write of Meridian (identity 3) with VALID 1 that names two different permitted identities binds the
channel and changes no other; one that names an identity not permitted, or one identity twice, changes no binding and leaves a record of rule
ENCODING. A write of anybody else, or after LOCK, changes no binding (it leaves KEEP first, R372), and Meridian alone sets LOCK. A channel carries
messages only from its sender to its receiver and only while bound: outside KEEP a word or SEND of anybody else, a TAKEN of anybody else, and each
of them on an UNBOUND channel, leave every channel and endpoint as they are. -/
def Obligations.TowpathBindings : Prop :=
  ∀ (s : State) (c : ChanId),
    (∀ d : Word, s.twp.lock = false → bit d.toNat 16 = true → twpMaster (bits d.toNat 0 8) = true →
      twpMaster (bits d.toNat 8 8) = true → bits d.toNat 0 8 ≠ bits d.toNat 8 8 →
      ∃ t, exec (.twpBindWrite 3 c d) s = .next t ∧ t = { s with twp := t.twp } ∧ t.twp.chan[c].sender = bits d.toNat 0 8 ∧
        t.twp.chan[c].receiver = bits d.toNat 8 8 ∧ t.twp.chan[c].valid = true ∧ t.twp.chan[c].state ≠ .unbound ∧
        t.twp.ep = s.twp.ep ∧ (∀ x : ChanId, x ≠ c → t.twp.chan[x] = s.twp.chan[x])) ∧
    (∀ d : Word, s.twp.lock = false → bit d.toNat 16 = true →
      (twpMaster (bits d.toNat 0 8) = false ∨ twpMaster (bits d.toNat 8 8) = false ∨ bits d.toNat 0 8 = bits d.toNat 8 8) →
      ∃ t, exec (.twpBindWrite 3 c d) s = .next t ∧ t = { s with sys := t.sys } ∧ t.sys.auditCount = s.sys.auditCount + 1 ∧
        t.sys.audit.getLast?.map Audit.rule = some AuditRule.encoding) ∧
    (∀ (m : Nat) (d : Word), (m ≠ 3 ∨ s.twp.lock = true) → exec (.twpBindWrite m c d) s = .next (twpWake m s)) ∧
    (∃ t, exec (.twpLock 3) s = .next t ∧ t = { s with twp := { s.twp with lock := true } }) ∧
    (∀ m : Nat, m ≠ 3 → exec (.twpLock m) s = .next (twpWake m s)) ∧
    (s.slu.state ≠ .keep → ∀ (m : Nat) (w : Fin 16) (d : Word),
      ((s.twp.chan[c].state = .unbound ∨ m ≠ s.twp.chan[c].sender) →
        (∃ t, exec (.twpMsgWrite m c w d) s = .next t ∧ t = { s with slu := t.slu, sys := t.sys }) ∧
        (∃ t, exec (.send m c) s = .next t ∧ t = { s with slu := t.slu, sys := t.sys })) ∧
      ((s.twp.chan[c].state = .unbound ∨ m ≠ s.twp.chan[c].receiver) →
        ∃ t, exec (.taken m c) s = .next t ∧ t = { s with slu := t.slu, sys := t.sys })) ∧
    (∀ mid : Nat, twpMaster mid = true ↔ mid = 0 ∨ mid = 1 ∨ 3 ≤ mid ∧ mid ≤ 0x0C)

/-! ### Staircase and Drydock -/

/-- From R338, R343, R344: while no stream is in progress, a first piece (OFFSET 0) opens one on its route with the bytes it carries: 1 to 4,096 bytes
from the operator in service, the same in Drydock over the Management Port or over a link whose transport is ready, and 1 to 56 bytes of the message
that Meridian takes from Towpath channel 0, in FULL or Drydock and not halted. From R331, R334, R339 to R341, R343: the end of a stream, Meridian
not halted. When a stream outside Drydock has been received and its set can be built, STREAM_APPLIED with the Boot Store sound leaves its slot
PENDING with the manifest and the set where the set's digest is TARGET_DIGEST, and otherwise ends STORE_FAIL with a WRITING slot EMPTY; a store that
fails ends it STORE_FAIL, and a body that builds no set BAD_DESCRIPTOR. In Drydock a set whose digest is TARGET_DIGEST leaves its slot with the
manifest and the set, appends a control record that has it PENDING, and begins a start. STREAM_TIMEOUT, 10 s after the last piece, ends a stream
BAD_DESCRIPTOR; STC_ABORT, in Drydock or from the operator in service, ends one CANCELLED. After each but the start no stream is in progress and
LAST_STATUS is its outcome. -/
def Obligations.StreamsBeginAndEnd : Prop :=
  (∀ s : State, s.stc.job = none →
      (∀ d : Bytes, operatorReady s = true → d ≠ [] → d.length ≤ 4096 →
        ∃ t j, exec (.stcStream 0 d) s = .next t ∧ answered t Code.done [] ∧ t.stc.job = some j ∧ j.route = .mgmt ∧ j.recvd = d ∧
          j.drydock = false ∧ j.number = s.stc.nextStream ∧ j.phase = .manifest) ∧
      (∀ d : Bytes, s.mer.phase = .drydock → s.mer.halted = false → d ≠ [] → d.length ≤ 4096 →
        (∃ t j, exec (.drydockStream none 0 d) s = .next t ∧ answered t Code.done [] ∧ t.stc.job = some j ∧ j.route = .mgmt ∧ j.recvd = d ∧
          j.drydock = true ∧ j.phase = .manifest ∧ t = { s with stc := t.stc, spdm := t.spdm, out := t.out }) ∧
        (∀ l : LinkId, s.link[l].ready = true →
          ∃ t j, exec (.drydockStream (some l) 0 d) s = .next t ∧ t.stc.job = some j ∧ j.route = .link l ∧ j.recvd = d ∧ j.drydock = true ∧
            j.phase = .manifest ∧ t = { s with stc := t.stc })) ∧
      (∀ n : Nat, s.twp.chan[(0 : ChanId)].state = .full → (s.mer.phase = .full ∨ s.mer.phase = .drydock) → s.mer.halted = false →
        s.twp.chan[(0 : ChanId)].words[(0 : Fin 16)] = 0 → s.twp.chan[(0 : ChanId)].words[(1 : Fin 16)] = BitVec.ofNat 32 (1 + 256 * n) →
        1 ≤ n → n ≤ 56 →
        ∃ t j, exec .towpathStreamPiece s = .next t ∧ t.twp.chan[(0 : ChanId)].state = .empty ∧ t.stc.job = some j ∧ j.route = .towpath ∧
          j.recvd = (towpathData s).take n ∧ j.drydock = (s.mer.phase == .drydock))) ∧
  ((∀ (s : State) (j : Stream) (out : Bytes), s.stc.job = some j → j.phase = .applying → s.mer.halted = false → j.drydock = false →
      buildSet (j.recvd.take manifestBytes) (runningSet s) (j.recvd.drop manifestBytes) = some out →
      (s.stc.storeFaults = 0 → ∃ t, exec (.streamApplied true) s = .next t ∧ t.stc.job = none ∧
        (if sha384 out = targetDigest (j.recvd.take manifestBytes) then
            t.stc.lastStatus = Code.done ∧
            slotOf t j.toA = { slotOf s j.toA with ctl := .pending, manifest := j.recvd.take manifestBytes, set := out }
          else t.stc.lastStatus = Code.storeFail ∧ ((slotOf s j.toA).ctl = .writing → (slotOf t j.toA).ctl = .empty))) ∧
      (∃ t, exec (.streamApplied false) s = .next t ∧ t.stc.job = none ∧ t.stc.lastStatus = Code.storeFail)) ∧
    (∀ (s : State) (j : Stream) (ok : Bool), s.stc.job = some j → j.phase = .applying → s.mer.halted = false → j.drydock = false →
      buildSet (j.recvd.take manifestBytes) (runningSet s) (j.recvd.drop manifestBytes) = none →
      ∃ t, exec (.streamApplied ok) s = .next t ∧ t.stc.job = none ∧ t.stc.lastStatus = Code.badDescriptor) ∧
    (∀ (s : State) (j : Stream), s.stc.job = some j → j.phase = .applying → s.mer.halted = false → j.drydock = true → s.stc.storeFaults = 0 →
      sha384 (j.recvd.drop manifestBytes) = targetDigest (j.recvd.take manifestBytes) →
      ∃ t, exec (.streamApplied true) s = .next t ∧ (slotOf t j.toA).manifest = j.recvd.take manifestBytes ∧
        (slotOf t j.toA).set = j.recvd.drop manifestBytes ∧
        t.stc.sectors = addRecord s.stc (controlRecord ((s.stc.ctlSeq + 1) % 2 ^ 32) (setSlot j.toA .pending s.stc)) ∧
        t.mer.step = .almanac ∧ t.mer.phase = .rom) ∧
    (∀ (s : State) (j : Stream), s.stc.job = some j → j.phase ≠ .applying → s.mer.halted = false →
      waited (secPs s) j.lastAt (10 * secondPs) = true →
      ∃ t, exec .streamTimeout s = .next t ∧ t.stc.job = none ∧ t.stc.lastStatus = Code.badDescriptor) ∧
    (∀ (s : State) (j : Stream), s.stc.job = some j → (s.mer.phase = .drydock ∧ s.mer.halted = false ∨ operatorReady s = true) →
      ∃ t, exec .stcAbort s = .next t ∧ t.stc.job = none ∧ t.stc.lastStatus = Code.cancelled ∧ answered t Code.done []))

/-- From R337, R340: in FULL an ACK of an OPEN Meridian channel goes on with HOPS one higher (at most 255): into the operator's log, or, where streams
came by a link, onto that link's Meridian channel. Counter 0, below the running SEC_VERSION and with no Almanac job and the full read over, advances
by a job of the controller an hour after the commit (600 s after a try whose window was not met), Meridian not halted, or on STC_CONFIRM of the
operator in service. From R330, R335, R342 to R344: the other Staircase commands of the operator in service, while no stream is in progress and no
access of the Boot Store fails. STC_ROUTE sets the mask of four links. WATCH_WRITE of 1 to 4,096 bytes inside the watch area writes them and no
other byte. STC_DRYDOCK appends a control record with FORCE_DRYDOCK and the next SEQ and resets the block, every reach EMPTY; a start begins when
nothing holds it. STC_PUSH on a ready link whose Meridian channel is CLOSED and has nothing to send queues the running slot's manifest and set. -/
def Obligations.StaircaseCommands : Prop :=
  ((∀ (s : State) (l : LinkId) (a u : Bytes), s.mer.phase = .full → s.link[l].chan[(8 : Fin 9)].state = .opened → isAck a = true →
      u = a.take 60 ++ [BitVec.ofNat 8 (min 255 (leAt a 60 1 + 1))] ++ (a.drop 61).take 3 →
      (s.stc.backRoute = .mgmt →
        ∃ t, exec (.staircaseAck l a) s = .next t ∧ t = { s with stc := { s.stc with acks := t.stc.acks } } ∧ t.stc.acks.getLast? = some u) ∧
      (∀ k : LinkId, s.stc.backRoute = .link k →
        ∃ t, exec (.staircaseAck l a) s = .next t ∧ t = { s with link := t.link } ∧
          t.link[k].chan[(8 : Fin 9)].sendQ =
            s.link[k].chan[(8 : Fin 9)].sendQ ++ [{ typ := FrameTyp.content, seq := 0, offset := 0, payload := u }])) ∧
    (∀ (s : State) (w : Nat), s.stc.committed = some w → s.alm.busy = none → s.mer.step ≠ .almanac →
      s.alm.counters[(0 : Fin 8)] < s.stc.running →
      (s.mer.phase = .full → s.mer.halted = false →
        (if s.stc.cntPending = true then waited (secPs s) s.stc.triedAt (600 * secondPs) else waited (secPs s) w (3600 * secondPs)) = true →
        ∃ t, exec .counter0AdvanceTimer s = .next t ∧ t.alm = { s.alm with busy := some (.internal, .counter 0 s.stc.running) }) ∧
      (operatorReady s = true →
        ∃ t, exec .stcConfirm s = .next t ∧ answered t Code.done [] ∧
          t.alm = { s.alm with busy := some (.internal, .counter 0 s.stc.running) }))) ∧
  (∀ s : State, operatorReady s = true → s.stc.job = none → s.stc.storeFaults = 0 →
      (∀ m : Nat, m < 16 → ∃ t, exec (.stcRoute m) s = .next t ∧ answered t Code.done [] ∧ t.stc = { s.stc with routeMask := m }) ∧
      (∀ (off : Nat) (d : Bytes), d ≠ [] → d.length ≤ 4096 → off + d.length ≤ watchBytes →
        ∃ t, exec (.watchWrite off d) s = .next t ∧ answered t Code.done [] ∧ t.stc = { s.stc with watch := memPut s.stc.watch off d } ∧
          (∀ a : Nat, a < off ∨ off + d.length ≤ a → memGet t.stc.watch a = memGet s.stc.watch a)) ∧
      (∃ t, exec .stcDrydock s = .next t ∧ t.reach = State.reset.reach ∧
        t.stc.sectors = addRecord s.stc (controlRecord ((s.stc.ctlSeq + 1) % 2 ^ 32) { s.stc with forceDrydock := true }) ∧
        (s.pins.porN = true → s.pins.sysRstN = true → s.pins.refClkOk = true → s.slu.state ≠ .off → s.mer.lockstep ≠ 3 →
          t.mer.step = .almanac ∧ t.mer.phase = .rom)) ∧
      (∀ l : LinkId, s.link[l].chan[(8 : Fin 9)].state = .closed → s.link[l].ready = true → s.link[l].chan[(8 : Fin 9)].sendQ = [] →
        (s.mer.slot = .a ∨ s.mer.slot = .b) →
        ∃ t, exec (.stcPush l.val) s = .next t ∧ answered t Code.done [] ∧ t.stc.nextStream = s.stc.nextStream + 1 ∧
          t.link[l].chan[(8 : Fin 9)].sendQ =
            publicParts s.stc.nextStream 0 ((bootedSlot s).manifest ++ (bootedSlot s).set).length ((bootedSlot s).manifest ++ (bootedSlot s).set)))

/-! ### Aqueduct -/

/-- From R297 to R300, R305, R307: a window slot of a link that is up sends one window and moves the count on. A CLOSE that waits goes first. With none
waiting, a channel that has nothing to send, or holds back its frames after a REKEY, sends a zero window, or a CREDIT window where it owes credits.
Else the head of its queue goes: a handshake frame; a sealed frame, whose counter goes up and whose credit is used, while it has a credit, its key
may be used and its counter is not the last; at the last counter of a generation 2 reach channel a REKEY goes in its place, the next key is written
and the channel holds its frames back. A transport that drops leaves every channel of the link CLOSED; one that rises changes READY alone. -/
def Obligations.LinkWindows : Prop :=
  ∀ (s : State) (l : LinkId) (c : Fin 9), c = windowChan s.link[l] →
    (∀ (bk : Bool), linkUp s l = true → s.link[l].chan[c].closing = [] →
      (s.link[l].chan[c].sendQ = [] ∨ s.link[l].chan[c].rekeyHold = true ∧ bk = false) →
      (s.link[l].chan[c].owed = 0 →
        ∃ t, exec (.aqdWindowSlot l bk) s = .next t ∧ t.out = .window l (zeros 1024) :: s.out ∧ t.link[l].count = (s.link[l].count + 1) % 16 ∧
          t = { s with link := t.link, chr := t.chr, out := t.out }) ∧
      (0 < s.link[l].chan[c].owed →
        ∃ t w, exec (.aqdWindowSlot l bk) s = .next t ∧ t.out = .window l w :: s.out ∧ w.length = 1024 ∧ leAt w 0 1 = FrameTyp.credit ∧
          leAt w 17 1 = min 16 s.link[l].chan[c].owed ∧ t.link[l].chan[c].owed = s.link[l].chan[c].owed - min 16 s.link[l].chan[c].owed ∧
          t = { s with link := t.link, chr := t.chr, out := t.out })) ∧
    (∀ (w : Bytes) (q : List Bytes) (bk : Bool), linkUp s l = true → s.link[l].chan[c].closing = w :: q →
      ∃ t, exec (.aqdWindowSlot l bk) s = .next t ∧ t.out = .window l w :: s.out ∧ t.link[l].chan[c].closing = q ∧
        t.link[l].chan[c].sendQ = s.link[l].chan[c].sendQ ∧ t = { s with link := t.link, chr := t.chr, out := t.out }) ∧
    (∀ (f : OutFrame) (q : List OutFrame), linkUp s l = true → s.link[l].chan[c].closing = [] → s.link[l].chan[c].sendQ = f :: q →
      (f.typ = FrameTyp.ctrl →
        ∃ t w, exec (.aqdWindowSlot l true) s = .next t ∧ t.out = .window l w :: s.out ∧ w.length = 1024 ∧ t.link[l].chan[c].sendQ = q) ∧
      (sealedTyp f.typ = true → s.link[l].chan[c].credits ≠ 0 → keyReady s (chanKeySlot s l c false) .aqueduct (chanOwner c) = true →
        (lastCounter s.link[l].chan[c].sendCtr = false →
          ∃ t w, exec (.aqdWindowSlot l true) s = .next t ∧ t.out = .window l w :: s.out ∧ w.length = 1024 ∧ t.link[l].chan[c].sendQ = q ∧
            t.link[l].chan[c].sendCtr = s.link[l].chan[c].sendCtr + 1 ∧ t.link[l].chan[c].credits = s.link[l].chan[c].credits - 1) ∧
        (lastCounter s.link[l].chan[c].sendCtr = true → s.link[l].chan[c].gen2 = true → c.val < 8 →
          ∃ t w, exec (.aqdWindowSlot l true) s = .next t ∧ t.out = .window l w :: s.out ∧ leAt w 0 1 = FrameTyp.rekey ∧
            t.link[l].chan[c].sendQ = f :: q ∧ t.link[l].chan[c].rekeyHold = true ∧
            t.eph.slots[chanKeySlot s l c false].key =
              kdf (slotKey s (chanKeySlot s l c false)) "GX24 AQD-REKEY" (beBytes 4 ((s.link[l].chan[c].sendCtr + 1) / 2 ^ 32)) 32))) ∧
    (s.link[l].ready = true →
      ∃ t, exec (.transportReadyDrop l) s = .next t ∧ t.link[l].ready = false ∧ (∀ k : Fin 9, t.link[l].chan[k].state = .closed)) ∧
    (s.link[l].ready = false →
      ∃ t, exec (.transportReadyRise l) s = .next t ∧ t = { s with link := upd s.link l fun k => { k with ready := true } })

/-- From R301 to R304: handshake messages at a channel in HANDSHAKE of a link that is up. An INIT that its responder awaits, with Meridian able to sign,
is answered with RESP where it meets R303 (or is left where Astrolabe gives no signature); so is a RESP at its initiator with FIN. A FIN at a
responder that has sent RESP, Astrolabe ready, opens the channel with both counters at 1 where it meets R303, and for a reach both keys are VALID.
One that does not meet R303 closes the channel with an alert. A generation 1 session number opens the Meridian channel where it is above any
accepted on the link, and changes no channel otherwise. HANDSHAKE_TIMEOUT, Meridian not halted, closes the channel, its share kept, with an alert. -/
def Obligations.LinkHandshake : Prop :=
  ∀ (s : State) (l : LinkId) (c : Fin 9) (m : Bytes), s.link[l].chan[c].state = .handshake →
    (linkUp s l = true → s.link[l].chan[c].gen2 = true →
      (m.length ≠ 4 → chanOfCode (leAt m 34 1) = some c → s.link[l].chan[c].responder = true → s.link[l].chan[c].msgInit = [] → canSign s = true →
        ∃ t, exec (.aqdInit l m) s = .next t ∧
          (if initOk s l c m = true then
              t.link[l].chan[c].state = .handshake ∧
              (t.link[l].chan[c] = s.link[l].chan[c] ∨
                t.link[l].chan[c].msgInit = m ∧
                t.link[l].chan[c].sendQ = s.link[l].chan[c].sendQ ++ ctrlFrames 1 t.link[l].chan[c].msgResp)
            else t.link[l].chan[c].state = .closed ∧ t.alerts.records.getLast?.map Alert.status = some Code.linkAuthFail)) ∧
      (s.link[l].chan[c].responder = false → s.link[l].chan[c].msgResp = [] → canSign s = true →
        ∃ t, exec (.aqdResp l c m) s = .next t ∧
          (if (respOk l c m (countMessage l m s)).1 = true then
              t.link[l].chan[c].state = .handshake ∧
              (t.link[l].chan[c] = s.link[l].chan[c] ∨
                t.link[l].chan[c].msgResp = m ∧
                t.link[l].chan[c].sendQ = s.link[l].chan[c].sendQ ++ ctrlFrames 2 t.link[l].chan[c].msgFin)
            else t.link[l].chan[c].state = .closed ∧ t.alerts.records.getLast?.map Alert.status = some Code.linkAuthFail)) ∧
      (s.link[l].chan[c].responder = true → s.link[l].chan[c].msgResp ≠ [] → astReady s = true →
        ∃ t, exec (.aqdFin l c m) s = .next t ∧
          (if (finOk l c m (countMessage l m s)).1 = true then
              t.link[l].chan[c].state = .opened ∧ t.link[l].chan[c].sendCtr = 1 ∧ t.link[l].chan[c].recvCtr = 1 ∧
              (c.val < 8 → slotValid t (chanKeySlot s l c false) = true ∧ slotValid t (chanKeySlot s l c true) = true)
            else t.link[l].chan[c].state = .closed ∧ t.alerts.records.getLast?.map Alert.status = some Code.linkAuthFail))) ∧
    (linkUp s l = true → c = 8 → m.length = 4 → s.link[l].chan[c].gen2 = false → s.link[l].chan[c].responder = true → s.mer.halted = false →
      slotValid s 5 = true →
      ∃ t, exec (.aqdInit l m) s = .next t ∧
        (if newSession s.link[l] (leAt m 0 4) = true then
            t.link[l].chan[c].state = .opened ∧ t.link[l].chan[c].session = leAt m 0 4 ∧ t.link[l].lastSession = some (leAt m 0 4)
          else t.link[l].chan = s.link[l].chan ∧ t.link[l].lastSession = s.link[l].lastSession)) ∧
    (s.mer.halted = false →
      ∃ t, exec (.handshakeTimeout l c) s = .next t ∧ t.link[l].chan[c].state = .closed ∧ t.link[l].chan[c].share = s.link[l].chan[c].share ∧
        t.alerts.records.getLast?.map Alert.status = some Code.linkAuthFail)

/-- From R299, R300, R305 to R307: sealed windows on an OPEN channel of a link that is up, whose receive key may be used: DATA within its exchange, XACK
(no byte of Basin uncorrectable), REKEY in generation 2, CLOSE. One out of sequence or form fails the channel: it is CLOSED and SEQ is counted. One
in sequence whose tag does not verify fails it with AUTH counted. One that verifies counts its frame and owes its credit; a CLOSE closes the
channel, with a tag that verifies or not. From R297, R300, R305, R307, R343: windows that are not sealed, on a link that is up. A CREDIT without
payload to an OPEN channel returns frame credits up to the channel's own and changes nothing outside its link; a zero window is counted and changes
nothing else; a generation 2 PUBLIC window for Meridian, in Drydock with the channel CLOSED or in FULL with it OPEN in generation 2, is owed a
credit. A channel whose first frame waits for a credit fails at CREDIT_TIMEOUT, with TIMEOUT counted. -/
def Obligations.LinkFrames : Prop :=
  (∀ (s : State) (l : LinkId) (c : Fin 9) (win : Bytes), linkUp s l = true → win.length = 1024 → chanOfCode (leAt win 3 1) = some c →
      s.link[l].chan[c].state = .opened → keyReady s (chanKeySlot s l c true) .aqueduct (chanOwner c) = true →
      (∀ (i : Instr) (ty : Nat),
        (i = .aqdData l win ∧ ty = FrameTyp.data ∧ dataOutside s l win (leAt win 3 1) = false ∨
         i = .aqdXack l win ∧ ty = FrameTyp.xack ∧ s.basin.bad = [] ∨ i = .aqdRekey l win ∧ ty = FrameTyp.rekey ∧ s.link[l].chan[c].gen2 = true) →
        leAt win 0 1 = ty → seqFails s.link[l].chan[c] c ty win = false →
        ∃ t, exec i s = .next t ∧
          match gcmOpen (slotKey s (chanKeySlot s l c true)) (slice win 4 12) (slice win 0 32) (slice win 32 (128 * leAt win 16 1))
              (slice win (32 + 128 * leAt win 16 1) 16) with
          | some _ => t.link[l].chan[c].state = .opened ∧ t.link[l].chan[c].recvCtr = s.link[l].chan[c].recvCtr + 1 ∧
              t.link[l].chan[c].owed = s.link[l].chan[c].owed + 1
          | none => t.link[l].chan[c].state = .closed ∧ t.link[l].auth = satInc 8 s.link[l].auth ∧ t.link[l].lastChan = chanCode c) ∧
      (leAt win 0 1 = FrameTyp.close → seqFails s.link[l].chan[c] c FrameTyp.close win = false → s.link[l].chan[c].gen2 = true →
        ∃ t, exec (.aqdClose l win) s = .next t ∧ t.link[l].chan[c].state = .closed) ∧
      (∀ (i : Instr) (ty : Nat),
        (i = .aqdData l win ∧ ty = FrameTyp.data ∨ i = .aqdXack l win ∧ ty = FrameTyp.xack ∨ i = .aqdRekey l win ∧ ty = FrameTyp.rekey ∨
         i = .aqdClose l win ∧ ty = FrameTyp.close) →
        leAt win 0 1 = ty → seqFails s.link[l].chan[c] c ty win = true →
        ∃ t, exec i s = .next t ∧ t.link[l].chan[c].state = .closed ∧ t.link[l].seqErr = satInc 8 s.link[l].seqErr ∧
          t.link[l].lastChan = chanCode c)) ∧
  (∀ (s : State) (l : LinkId) (win : Bytes), linkUp s l = true →
      (∀ c : Fin 9, win.length = 1024 → leAt win 0 1 = FrameTyp.credit → leAt win 16 1 = 0 → chanOfCode (leAt win 3 1) = some c →
        s.link[l].chan[c].state = .opened →
        ∃ t, exec (.aqdCredit l win) s = .next t ∧ t = { s with link := upd s.link l fun k => { k with
          recvCount := (k.recvCount + 1) % 16
          chan := upd k.chan c fun x => { x with credits := min (creditsOf x c) (x.credits + min 16 (leAt win 17 1)) } } }) ∧
      (∃ t, exec (.aqdZero l win) s = .next t ∧
        t = { s with link := upd s.link l fun k => { k with recvCount := (k.recvCount + 1) % 16 } }) ∧
      (win.length = 1024 → leAt win 0 1 = FrameTyp.content → leAt win 1 1 = 2 → leAt win 3 1 = 0x0E →
        (s.mer.phase = .drydock ∧ s.link[l].chan[(8 : Fin 9)].state = .closed ∨
         s.mer.phase = .full ∧ s.link[l].chan[(8 : Fin 9)].state = .opened ∧ s.link[l].chan[(8 : Fin 9)].gen2 = true) →
        ∃ t, exec (.aqdPublic l win) s = .next t ∧ t.link[l].chan[(8 : Fin 9)].owed = s.link[l].chan[(8 : Fin 9)].owed + 1) ∧
      (∀ (c : Fin 9) (f : OutFrame) (q : List OutFrame), s.link[l].chan[c].state = .opened → s.link[l].chan[c].credits = 0 →
        s.link[l].chan[c].sendQ = f :: q → usesCredit f.typ = true →
        ∃ t, exec (.creditTimeout l c) s = .next t ∧ t.link[l].chan[c].state = .closed ∧ t.link[l].timeout = satInc 8 s.link[l].timeout ∧
          t.link[l].lastChan = chanCode c))

/-! ### Collimator -/

/-- From R397, R398: a pick that falls after the quick pass. While a test runs or is to come it is kept for its end; with no barge to pick it changes
nothing but its count; a SPARE barge, or one of a dozing reach, is tested in place from slice 0 with epoch 0, every other barge as it is; another
ACTIVE one is asked to move when a barge is SPARE, and goes first next time, counted as skipped, when none is. From R393, R395, R397, R399, R400:
slices. The slice of an island's latest due instant starts when no other island's runs and none of a lower number waits at the same instant; outside
Basin nothing else changes. A signature equal to the reference passes an island's slice; any other, or none, fails it: it is repeated, and the
second failure is reported FAILED with an alert. A barge's slice that runs passes with its reference, and its end begins the next (slices 0 to 14,
UNDER_TEST, no KEEP pending); any other signature, or none, makes the barge FAILED. -/
def Obligations.CollimatorTests : Prop :=
  (∀ s : State, colRuns s = true → pickFalls s = true →
      (testBusy s = true → ∃ t, exec .collimatorPick s = .next t ∧
        t = { s with col := { s.col with picks := s.col.picks + 1, deferred := true } }) ∧
      (testBusy s = false → pickOf s = none → ∃ t, exec .collimatorPick s = .next t ∧
        t = { s with col := { s.col with picks := s.col.picks + 1, deferred := false } }) ∧
      (∀ b : BargeId, testBusy s = false → pickOf s = some b →
        ((s.barge[b].role = .spare ∨ ownerDozes s b = true) →
          ∃ t, exec .collimatorPick s = .next t ∧ t.col.barge = some b ∧ t.col.slice = 0 ∧ t.barge[b].epoch = 0 ∧
            (∀ c : BargeId, c ≠ b → t.barge[c] = s.barge[c])) ∧
        (s.barge[b].role = .active → ownerDozes s b = false →
          ∃ t, exec .collimatorPick s = .next t ∧ t = { s with col := t.col } ∧
            (if ((idxs 34).any fun c => s.barge[c].role == .spare) = true then t.col.asked = some b
              else t.col.first = some b ∧ t.col.skipped = satInc 8 s.col.skipped)))) ∧
  (∀ s : State,
      (∀ i : Fin 64, colRuns s = true → sliceWaits s i = true → s.col.island = none →
        (∀ j : Fin 64, j.val < i.val → sliceWaits s j = false ∨ sameInstant s i j = false) →
        ∃ t, exec (.sliceDue i) s = .next t ∧ t.col.island = some i ∧ t.col.islSlice = (dueCount s i - 1) % islSlices i.val ∧
          t.col.islNext[i] = dueCount s i ∧ (38 ≤ i.val → t = { s with col := t.col })) ∧
      (∀ i : Fin 64, s.col.island = some i →
        (∃ t, exec (.signatureCompared (some (Config.sliceSignature i.val s.col.islSlice))) s = .next t ∧ t.col.island = none ∧
          t.col.islPassed[i] = s.col.islPassed[i] + 1 ∧ t.col.sliceFails = s.col.sliceFails ∧ t.alerts = s.alerts) ∧
        (∀ v : Option (BitVec 64), v ≠ some (Config.sliceSignature i.val s.col.islSlice) →
          ∃ t, exec (.signatureCompared v) s = .next t ∧ t.col.sliceFails = satInc 8 s.col.sliceFails ∧
            (if s.col.islRepeat = true then
                t.col.island = none ∧ t.col.isl[i].failed = true ∧ t.alerts.records.getLast?.map Alert.status = some Code.selftestFail
              else t.col.island = some i ∧ t.col.islRepeat = true))) ∧
      (∀ b : BargeId, s.col.barge = some b → sliceRuns s b = true →
        (s.col.island = none → s.col.verdict = none →
          (∃ t, exec (.signatureCompared (some (Config.sliceSignature b.val s.col.slice))) s = .next t ∧
            t = { s with col := { s.col with verdict := some true } }) ∧
          (∀ v : Option (BitVec 64), v ≠ some (Config.sliceSignature b.val s.col.slice) →
            ∃ t, exec (.signatureCompared v) s = .next t ∧ t.barge[b].role = .failed ∧ t.col.verdict = some false ∧
              t.col.bargeInfo[b].failed = true ∧ t.col.bargeInfo[b].failSlice = s.col.slice ∧ t.col.sliceFails = satInc 8 s.col.sliceFails)) ∧
        (s.col.verdict = some true → s.barge[b].role = .underTest → s.col.slice < 15 → s.slu.keepPending = false →
          ∃ t, exec .sliceEnd s = .next t ∧ t = { s with col := { s.col with slice := s.col.slice + 1, verdict := none }, chr := t.chr })))

/-! ### Memory ports and the System Port -/

/-- From R138, R144 to R148, R150, R413: a memory port that runs. A credit is counted, at most 64 unused of a kind. The owner of the slot issues its one
waiting request (no weight block, nothing outstanding, a tag of its quota, credits and both XTS keys at hand) with tag 0, a write encrypted, the
credit spent. A slot that nobody owns and nobody may spill into issues nothing. A read's data are decrypted on arrival and held for their level, or
dropped when a key is no longer VALID; an UNCORRECTABLE response, with no step or program of its service running, is counted and alerted and frees
its tag; a response of no tag is an alert. An acknowledgement is held for its level. At its level an open transaction becomes due, and a discarded
answer is dropped. -/
def Obligations.MemoryPorts : Prop :=
  ∀ (s : State) (p : PortId), portUp s p = true →
    ((∃ t, exec (.mptCreditGrant p .rd) s = .next t ∧ t = { s with port := t.port, mer := t.mer } ∧ (∀ x : PortId, x ≠ p → t.port[x] = s.port[x]) ∧
        t.port[p] = { s.port[p] with ctrlReady := true, rdCredits := min 64 (s.port[p].rdCredits + 1) }) ∧
      (∃ t, exec (.mptCreditGrant p .wr) s = .next t ∧ t = { s with port := t.port, mer := t.mer } ∧ (∀ x : PortId, x ≠ p → t.port[x] = s.port[x]) ∧
        t.port[p] = { s.port[p] with ctrlReady := true, wrCredits := min 64 (s.port[p].wrCredits + 1) })) ∧
    (∀ (n : ReachId) (q : MemReq), s.port[p].nextWheel = none → s.port[p].wheel.toList.getD (s.port[p].count % 64) 0xF = n.val →
      s.port[p].queue[svcOf n] = [q] → s.port[p].backlog[svcOf n] = [] → q.block = none → s.port[p].txns = [] → 0 < s.port[p].quota[n] →
      0 < s.port[p].rdCredits → 0 < s.port[p].wrCredits → keyReady s (keySlot s n 0) .culvertXts n.val = true →
      keyReady s (keySlot s n 1) .culvertXts n.val = true →
      ∃ t, exec (.wheelSlot p) s = .next t ∧
        t.out.head? = some (match q.kind with
          | .rd => .memRead p 0 q.addr
          | .wr => .memWrite p 0 q.addr (wireData s (svcOf n) q)) ∧
        t.port[p].queue[svcOf n] = [] ∧ t.port[p].count = (s.port[p].count + 1) % 64 ∧
        t.port[p].txns = [{ tag := 0, svc := svcOf n, req := q, spilled := false }] ∧
        t.port[p].rdCredits + (if q.kind = .rd then 1 else 0) = s.port[p].rdCredits ∧
        t.port[p].wrCredits + (if q.kind = .wr then 1 else 0) = s.port[p].wrCredits ∧
        t = { s with port := t.port, eph := t.eph, chr := t.chr, out := t.out } ∧ (∀ x : PortId, x ≠ p → t.port[x] = s.port[x])) ∧
    (s.port[p].nextWheel = none → s.port[p].wheel.toList.getD (s.port[p].count % 64) 0xF = 0xF →
      s.port[p].spillEn = Vector.replicate 8 false →
      exec (.wheelSlot p) s = .next (s.onPort p fun x => { x with count := (x.count + 1) % 64 })) ∧
    (∀ (tag : Nat) (st : BitVec 2) (d : Bytes) (x : MemTxn), findMem s p .rd tag = some x → x.answered = false → x.lost = false →
      x.discard = false → x.req.use ≠ .tagLine → x.req.block = none → x.due = false → st.toNat < 2 →
      ∃ t, exec (.mptReadResponse p tag st d) s = .next t ∧ t = { s with port := t.port, iso := t.iso } ∧
        (∀ y : PortId, y ≠ p → t.port[y] = s.port[y]) ∧
        t.port[p].corrected = (if st = 1 then satInc 16 s.port[p].corrected else s.port[p].corrected) ∧
        t.port[p].txns = (match plainLine s x.svc x.req.addr d with
          | some v => s.port[p].txns.map fun y =>
              if y.req.kind == .rd && y.tag == tag then { x with answered := true, data := v, plain := true } else y
          | none => s.port[p].txns.filter fun y => !(y.req.kind == .rd && y.tag == tag))) ∧
    (∀ (tag : Nat) (st : BitVec 2) (d : Bytes) (x : MemTxn), findMem s p .rd tag = some x → x.answered = false → x.lost = false →
      x.discard = false → x.req.use ≠ .tagLine → x.req.block = none → 2 ≤ st.toNat → x.svc ≠ twilightSvc → s.keeper[x.svc].form = none →
      stepEnding s x.svc = false → s.keeper[x.svc].resuming = [] →
      ∃ t, exec (.mptReadResponse p tag st d) s = .next t ∧ t = { s with port := t.port, iso := t.iso, alerts := t.alerts, sys := t.sys } ∧
        t.port[p] = { s.port[p] with
          uncorrectable := satInc 8 s.port[p].uncorrectable
          txns := s.port[p].txns.filter fun y => !(y.req.kind == .rd && y.tag == tag) } ∧
        t.alerts.records.getLast?.map Alert.status = some Code.memUncorrectable) ∧
    (∀ (tag : Nat) (st : BitVec 2) (d : Bytes), findMem s p .rd tag = none →
      ∃ t, exec (.mptReadResponse p tag st d) s = .next t ∧ t = { s with port := t.port, alerts := t.alerts, sys := t.sys } ∧
        t.port[p] = { s.port[p] with uncorrectable := satInc 8 s.port[p].uncorrectable } ∧
        t.alerts.records.getLast?.map Alert.status = some Code.memUncorrectable) ∧
    (∀ (tag : Nat) (st : BitVec 2) (x : MemTxn), findMem s p .wr tag = some x → x.answered = false → x.discard = false → st.toNat < 2 →
      x.due = false →
      ∃ t, exec (.mptWriteAck p tag st) s = .next t ∧ t = { s with port := t.port } ∧ (∀ y : PortId, y ≠ p → t.port[y] = s.port[y]) ∧
        t.port[p].corrected = (if st = 1 then satInc 16 s.port[p].corrected else s.port[p].corrected) ∧
        t.port[p].txns = s.port[p].txns.map (fun y =>
          if y.req.kind == .wr && y.tag == tag then { y with answered := true } else y)) ∧
    (∀ (k : Rw) (tag : Nat) (x : MemTxn), findMem s p k tag = some x → x.due = false → x.req.block = none →
      (x.answered = false →
        ∃ t, exec (.latencyLevelRelease p k tag) s = .next t ∧ t = { s with port := t.port } ∧
          t.port[p].txns = s.port[p].txns.map (fun y => if y.req.kind == k && y.tag == tag then { y with due := true } else y)) ∧
      (x.answered = true → x.discard = true →
        ∃ t, exec (.latencyLevelRelease p k tag) s = .next t ∧ t = { s with port := t.port, iso := t.iso } ∧
          t.port[p].txns = s.port[p].txns.filter (fun y => !(y.req.kind == k && y.tag == tag))))

/-- From R145, R218: timeouts. A read of memory (no tag line, no weight block, of a reach with no step or program running) without a response for 2^20
port cycles is counted and alerted with cause TIMEOUT and keeps its tag; its late response frees the tag and changes nothing else. An outbound
System Port transaction that the host does not answer is counted and keeps its tag: a discarded one alerts the operator unless its transfer had
failed before; one that fetches descriptors faults its ring, with source 8 and an alert, and no other ring. -/
def Obligations.Timeouts : Prop :=
  (∀ (s : State) (p : PortId) (tag : Nat) (x : MemTxn), portUp s p = true → findMem s p .rd tag = some x → x.answered = false → x.lost = false →
    x.discard = false → x.req.use ≠ .tagLine → x.req.block = none → x.svc ≠ twilightSvc → s.keeper[x.svc].form = none →
    stepEnding s x.svc = false → s.keeper[x.svc].resuming = [] →
    ∃ t, exec (.mptReadTimeout p tag) s = .next t ∧ t = { s with port := t.port, alerts := t.alerts, sys := t.sys } ∧
      t.port[p].timeout = satInc 8 s.port[p].timeout ∧ t.port[p].queue = s.port[p].queue ∧
      t.port[p].txns = s.port[p].txns.map (fun y => if y.req.kind == .rd && y.tag == tag then { y with lost := true } else y) ∧
      t.alerts.nextSeq = s.alerts.nextSeq + 1 ∧
      t.alerts.records.getLast?.map (fun a => (a.status, a.unit, a.cause)) = some (Code.memUncorrectable, AlertUnit.port, 1)) ∧
  (∀ (s : State) (p : PortId) (tag : Nat) (st : BitVec 2) (d : Bytes) (x : MemTxn), portUp s p = true → findMem s p .rd tag = some x →
    x.answered = false → x.lost = true →
    ∃ t, exec (.mptReadResponse p tag st d) s = .next t ∧ t = { s with port := t.port, iso := t.iso } ∧
      t.port[p] = { s.port[p] with txns := s.port[p].txns.filter (fun y => !(y.req.kind == .rd && y.tag == tag)) }) ∧
  (∀ (s : State) (k : Rw) (tag : Nat) (x : SysTxn), sysUp s = true → findTxn s k tag = some x → x.answered = false → x.lost = false →
    x.discard = true →
    ∃ t, exec (.sysObTimeout k tag) s = .next t ∧ t = { s with sys := t.sys, alerts := t.alerts } ∧ t.sys.timeout = satInc 8 s.sys.timeout ∧
      t.sys.txns.map (fun y => (y.req.kind, y.tag)) = s.sys.txns.map (fun y => (y.req.kind, y.tag)) ∧
      (∀ y ∈ t.sys.txns, y.req.kind = k → y.tag = tag → y.lost = true) ∧
      (if x.failed = true then t.alerts = s.alerts else t.alerts.records.getLast?.map Alert.status = some Code.hostDmaFail)) ∧
  (∀ (s : State) (tag : Nat) (x : SysTxn) (r : SvcId) (q : Fin 2), sysUp s = true → findTxn s .rd tag = some x → x.answered = false →
    x.lost = false → x.discard = false → x.failed = false → x.req.use = .fetch r q →
    ∃ t, exec (.sysObTimeout .rd tag) s = .next t ∧ t.sys.timeout = satInc 8 s.sys.timeout ∧ t.ring[r].sq[q].state = .faulted ∧
      t.ring[r].cq = s.ring[r].cq ∧ t.sys.irqPend[(8 : Fin 16)] = true ∧
      t.alerts.records.getLast?.map Alert.status = some Code.hostDmaFail ∧ (∀ v : SvcId, v ≠ r → t.ring[v] = s.ring[v]))

/-- From R217 to R219, R413: the outbound side of a System Port that runs. A credit is counted, at most 64 unused of a kind. With nothing outstanding
the slot's owner issues its one waiting read (no write credit at hand) with tag 0, and in a slot nobody owns a due message is written to its
address. A slot with neither issues nothing. A first answer to an open transaction before its level is held, one with ERROR counted; an
acknowledgement of no tag is an alert. At its level an open transaction becomes due, a discarded good answer is dropped, a fetched descriptor line
reaches its ring, and a message that failed alerts and holds back its source. -/
def Obligations.SystemPortTransactions : Prop :=
  ∀ s : State, sysUp s = true →
    exec (.sysObCredit .rd) s = .next { s with sys := { s.sys with rdCredits := min 64 (s.sys.rdCredits + 1) } } ∧
    exec (.sysObCredit .wr) s = .next { s with sys := { s.sys with wrCredits := min 64 (s.sys.wrCredits + 1) } } ∧
    (∀ (r : SvcId) (q : SysReq), s.sys.wheel.toList.getD (s.sys.count % 64) 0xF = r.val → s.sys.requests[r] = [q] → q.kind = .rd →
      s.sys.txns = [] → 0 < s.sys.rdCredits → s.sys.wrCredits = 0 →
      ∃ t, exec .sysWheelSlot s = .next t ∧ t = { s with sys := t.sys, out := t.out, chr := t.chr } ∧
        t.out.head? = some (.hostRead 0 q.addr q.len) ∧ t.sys.requests[r] = [] ∧ t.sys.count = (s.sys.count + 1) % 64 ∧
        t.sys.rdCredits + 1 = s.sys.rdCredits ∧ t.sys.wrCredits = 0 ∧ t.sys.txns = [{ tag := 0, owner := r.val, req := q }]) ∧
    (∀ i : Fin 16, s.sys.wheel.toList.getD (s.sys.count % 64) 0xF = 0xF → s.sys.wrCredits ≠ 0 → strayMessage s = some i → s.sys.txns = [] →
      ∃ t, exec .sysWheelSlot s = .next t ∧ t = { s with sys := t.sys, out := t.out, chr := t.chr } ∧
        t.out.head? = some (.hostWrite 0 (s.sys.route[i].addrHi * 2 ^ 32 + s.sys.route[i].addrLo) (leBytes 4 s.sys.route[i].data.toNat)) ∧
        t.sys.wrCredits + 1 = s.sys.wrCredits ∧ t.sys.rdCredits = s.sys.rdCredits ∧ t.sys.route[i].due = s.sys.route[i].due - 1) ∧
    (s.sys.wheel.toList.getD (s.sys.count % 64) 0xF = 0xF → (s.sys.wrCredits = 0 ∨ strayMessage s = none) →
      exec .sysWheelSlot s = .next { s with sys := { s.sys with count := (s.sys.count + 1) % 64 } }) ∧
    (∀ (tag : Nat) (ok : Bool) (d : Bytes) (x : SysTxn), findTxn s .rd tag = some x → x.answered = false → x.lost = false → x.due = false →
      exec (.sysObReadResponse tag ok d) s = .next { s with sys := { s.sys with
        readErr := if ok = true then s.sys.readErr else satInc 8 s.sys.readErr
        txns := s.sys.txns.map fun y => if y.req.kind == .rd && y.tag == tag then { x with answered := true, ok := ok, data := d } else y } }) ∧
    (∀ (tag : Nat) (ok : Bool) (x : SysTxn), findTxn s .wr tag = some x → x.answered = false → x.lost = false → x.due = false →
      exec (.sysObWriteAck tag ok) s = .next { s with sys := { s.sys with
        writeErr := if ok = true then s.sys.writeErr else satInc 8 s.sys.writeErr
        txns := s.sys.txns.map fun y => if y.req.kind == .wr && y.tag == tag then { x with answered := true, ok := ok, data := [] } else y } }) ∧
    (∀ (tag : Nat) (ok : Bool), findTxn s .wr tag = none →
      ∃ t, exec (.sysObWriteAck tag ok) s = .next t ∧ t = { s with alerts := t.alerts, sys := t.sys } ∧
        t.sys.readErr = satInc 8 s.sys.readErr ∧ t.alerts.records.getLast?.map Alert.status = some Code.hostDmaFail) ∧
    (∀ (k : Rw) (tag : Nat) (x : SysTxn), findTxn s k tag = some x → x.due = false →
      (x.answered = false → exec (.sysResponseRelease k tag) s = .next { s with sys := { s.sys with
        txns := s.sys.txns.map fun y => if y.req.kind == k && y.tag == tag then { y with due := true } else y } }) ∧
      (x.answered = true → x.ok = true → x.discard = true → exec (.sysResponseRelease k tag) s = .next { s with sys := { s.sys with
        txns := s.sys.txns.filter fun y => !(y.req.kind == k && y.tag == tag) } }) ∧
      (∀ (r : SvcId) (q : Fin 2), x.answered = true → x.ok = true → x.discard = false → x.req.use = .fetch r q →
        ∃ t, exec (.sysResponseRelease k tag) s = .next t ∧ t = { s with sys := t.sys, ring := t.ring } ∧
          t.ring[r].sq[q] = { s.ring[r].sq[q] with fetching := false, line := some (padTo 0 64 x.data) }) ∧
      (∀ i : Fin 16, x.answered = true → x.ok = false → x.discard = false → x.failed = false → x.req.use = .message i →
        ∃ t, exec (.sysResponseRelease k tag) s = .next t ∧ t = { s with sys := t.sys, alerts := t.alerts } ∧
          t.sys.route[i].stuck = true ∧ t.alerts.records.getLast?.map Alert.status = some Code.hostDmaFail))

/-- From R9, R214, R219, R221: register writes of the host, by a System Port that runs. A write of another size than four bytes, or not aligned, leaves
one record of rule ACCESS and nothing else but source 9; GLB_IRQ_ROUTE takes its mode and line, and keeps its mode with a record of rule ENCODING
when the code is unused; a 1 written to a pending bit [12:0] of GLB_IRQ_PEND clears it (source 11 only while no Towpath interrupt of the host's
endpoints is asserted; the model's choice, log entry 117). -/
def Obligations.SystemPortWrites : Prop :=
  ∀ s : State, sysUp s = true →
    (∀ (tr : Bool) (a : BitVec 24) (n : Nat) (d : Word), (n ≠ 4 ∨ a.toNat % 4 ≠ 0) →
      ∃ t, exec (.registerWrite tr a n d) s = .next t ∧ t = { s with sys := t.sys } ∧ t.sys.auditCount = s.sys.auditCount + 1 ∧
        t.sys.audit.getLast?.map (fun x => (x.offset, x.rule, x.mid)) = some (a.toNat, AuditRule.access, portMid tr) ∧
        t.sys.irqPend[(9 : Fin 16)] = true) ∧
    (∀ (tr : Bool) (i : Fin 16) (a : BitVec 24) (d : Word), a.toNat = 0x940 + 4 * i.val → bits d.toNat 0 2 ≠ 3 →
      exec (.registerWrite tr a 4 d) s = .next { s with sys := { s.sys with
        route := upd s.sys.route i fun x => { x with mode := bits d.toNat 0 2, line := bits d.toNat 2 3 } } }) ∧
    (∀ (tr : Bool) (i : Fin 16) (a : BitVec 24) (d : Word), a.toNat = 0x940 + 4 * i.val → bits d.toNat 0 2 = 3 →
      ∃ t, exec (.registerWrite tr a 4 d) s = .next t ∧ t = { s with sys := t.sys } ∧ t.sys.route[i].mode = s.sys.route[i].mode ∧
        t.sys.route[i].line = bits d.toNat 2 3 ∧ t.sys.auditCount = s.sys.auditCount + 1 ∧
        t.sys.audit.getLast?.map Audit.rule = some AuditRule.encoding) ∧
    (∀ d : Word, ∃ t, exec (.irqPendClear d) s = .next t ∧ t = { s with sys := { s.sys with irqPend := t.sys.irqPend, route := t.sys.route } } ∧
      ∀ i : Fin 16, t.sys.irqPend[i] = (s.sys.irqPend[i] && !(decide (i.val ≤ 12) && d.getLsbD i.val &&
        !(i.val == 11 && (s.twp.ep[(0 : Fin 13)].irq || s.twp.ep[(1 : Fin 13)].irq)))))

/-! ### Rings -/

/-- From R199, R212, R214, R220: ring registers, System Port running, outside KEEP, twilight not ending. A doorbell below the size of an ENABLED ring is
TAIL, what was prefetched past it dropped; past the size it leaves a record of rule DOORBELL, on another ring of rule STATE, and changes no ring.
HEAD moves within the records written, else a DOORBELL record. ENABLE 1 on a disabled ring with resources resets its indices, takes GEN and the
clamped size, a clamp recorded as RANGE; without resources, or on a FAULTED ring, a STATE record and no enable. ENABLE 0 disables a submission ring,
and a CQ that is FAULTED or holds nothing; one that holds requests or records keeps on, with a STATE record. -/
def Obligations.RingRegisters : Prop :=
  ∀ (s : State) (r : SvcId) (tr : Bool) (d : Word), sysUp s = true → s.slu.state ≠ .keep → s.mer.twilightEnding = false →
    (∀ q : Fin 2, s.ring[r].sq[q].state = .enabled → bits d.toNat 0 16 < 2 ^ s.ring[r].sq[q].sizeLog2 →
      ∃ t, exec (.sqDoorbell r q tr d) s = .next t ∧ t = { s with ring := t.ring, sys := t.sys, slu := t.slu } ∧
        t.ring[r].sq[q] = { s.ring[r].sq[q] with
          tail := bits d.toNat 0 16
          fetched := s.ring[r].sq[q].fetched.take (ringUsed s.ring[r].sq[q].sizeLog2 s.ring[r].sq[q].head (bits d.toNat 0 16))
          fetching := t.ring[r].sq[q].fetching, lineWant := t.ring[r].sq[q].lineWant } ∧
        t.ring[r].cq = s.ring[r].cq ∧ (∀ p : Fin 2, p ≠ q → t.ring[r].sq[p] = s.ring[r].sq[p]) ∧
        (∀ v : SvcId, v ≠ r → t.ring[v] = s.ring[v]) ∧ t.sys = { s.sys with requests := t.sys.requests }) ∧
    (∀ q : Fin 2, (s.ring[r].sq[q].state ≠ .enabled ∨ 2 ^ s.ring[r].sq[q].sizeLog2 ≤ bits d.toNat 0 16) →
      ∃ t, exec (.sqDoorbell r q tr d) s = .next t ∧ t = { s with sys := t.sys, slu := t.slu } ∧
        t.sys.auditCount = s.sys.auditCount + 1 ∧ t.sys.audit.getLast?.map Audit.rule =
          some (if s.ring[r].sq[q].state = .enabled then AuditRule.doorbell else AuditRule.state)) ∧
    (s.ring[r].cq.state = .enabled → bits d.toNat 0 16 < 2 ^ s.ring[r].cq.sizeLog2 →
      ringUsed s.ring[r].cq.sizeLog2 s.ring[r].cq.head (bits d.toNat 0 16) ≤
        ringUsed s.ring[r].cq.sizeLog2 s.ring[r].cq.head s.ring[r].cq.tail →
      ∃ t, exec (.cqHeadWrite r tr d) s = .next t ∧ t = { s with ring := t.ring, sys := t.sys, slu := t.slu } ∧
        t.ring[r].cq = { s.ring[r].cq with
          head := bits d.toNat 0 16, stage := t.ring[r].cq.stage, writing := t.ring[r].cq.writing } ∧
        t.ring[r].sq = s.ring[r].sq ∧ (∀ v : SvcId, v ≠ r → t.ring[v] = s.ring[v]) ∧ t.sys = { s.sys with requests := t.sys.requests }) ∧
    (s.ring[r].cq.state = .enabled →
      ringUsed s.ring[r].cq.sizeLog2 s.ring[r].cq.head s.ring[r].cq.tail <
        ringUsed s.ring[r].cq.sizeLog2 s.ring[r].cq.head (bits d.toNat 0 16) →
      ∃ t, exec (.cqHeadWrite r tr d) s = .next t ∧ t = { s with sys := t.sys, slu := t.slu } ∧
        t.sys.audit.getLast?.map Audit.rule = some AuditRule.doorbell) ∧
    (∀ q : Fin 2, bit d.toNat 0 = true → s.ring[r].sq[q].enable = false →
      ∃ t, exec (.ringEnable r (if q = 0 then .sq0 else .sq1) tr d) s = .next t ∧ t = { s with ring := t.ring, sys := t.sys, slu := t.slu } ∧
        (mayEnable s r (bit d.toNat 1) = true →
          t.ring[r].sq[q] = { s.ring[r].sq[q] with
            enable := true, state := .enabled, head := 0, tail := 0, fetched := [], fetching := false, line := none
            gen2 := bit d.toNat 1, sizeLog2 := max 6 (min 16 (bits d.toNat 4 5)) } ∧
          (6 ≤ bits d.toNat 4 5 → bits d.toNat 4 5 ≤ 16 → t.sys = s.sys) ∧
          ((bits d.toNat 4 5 < 6 ∨ 16 < bits d.toNat 4 5) → t.sys.audit.getLast?.map Audit.rule = some AuditRule.range)) ∧
        (mayEnable s r (bit d.toNat 1) = false → t.ring[r].sq[q].enable = false ∧ t.ring[r].sq[q].state = s.ring[r].sq[q].state ∧
          t.sys.audit.getLast?.map Audit.rule = some AuditRule.state) ∧
        t.ring[r].cq = s.ring[r].cq ∧ (∀ p : Fin 2, p ≠ q → t.ring[r].sq[p] = s.ring[r].sq[p]) ∧ (∀ v : SvcId, v ≠ r → t.ring[v] = s.ring[v])) ∧
    (bit d.toNat 0 = true → s.ring[r].cq.enable = false → mayEnable s r (bit d.toNat 1) = true →
      ∃ t, exec (.ringEnable r .cq tr d) s = .next t ∧ t = { s with ring := t.ring, sys := t.sys, slu := t.slu } ∧
        t.ring[r].cq = { s.ring[r].cq with
          enable := true, state := .enabled, head := 0, tail := 0, phase := true, gen2 := bit d.toNat 1
          sizeLog2 := max 6 (min 16 (bits d.toNat 4 5)), stage := t.ring[r].cq.stage, writing := t.ring[r].cq.writing } ∧
        (∀ v : SvcId, v ≠ r → t.ring[v] = s.ring[v])) ∧
    (∀ q : Fin 2, bit d.toNat 0 = true → s.ring[r].sq[q].enable = true → s.ring[r].sq[q].state = .faulted →
      ∃ t, exec (.ringEnable r (if q = 0 then .sq0 else .sq1) tr d) s = .next t ∧ t = { s with sys := t.sys, slu := t.slu } ∧
        t.sys.audit.getLast?.map Audit.rule = some AuditRule.state) ∧
    (∀ q : Fin 2, bit d.toNat 0 = false → s.ring[r].sq[q].enable = true →
      ∃ t, exec (.ringDisable r (if q = 0 then .sq0 else .sq1) tr d) s = .next t ∧ t = { s with ring := t.ring, sys := t.sys, slu := t.slu } ∧
        t.ring[r].sq[q] = { s.ring[r].sq[q] with
          enable := false, state := .disabled, fetched := [], fetching := false, line := none } ∧
        t.ring[r].cq = s.ring[r].cq ∧ (∀ p : Fin 2, p ≠ q → t.ring[r].sq[p] = s.ring[r].sq[p]) ∧ (∀ v : SvcId, v ≠ r → t.ring[v] = s.ring[v])) ∧
    (bit d.toNat 0 = false → s.ring[r].cq.enable = true → (s.ring[r].cq.state ≠ .enabled ∨ s.keeper[r].reqs = [] ∧ s.ring[r].cq.recs = []) →
      ∃ t, exec (.ringDisable r .cq tr d) s = .next t ∧ t = { s with ring := t.ring, sys := t.sys, slu := t.slu } ∧
        t.ring[r].cq = { s.ring[r].cq with enable := false, state := .disabled, stage := .start, writing := false } ∧
        (∀ q : Fin 2, t.ring[r].sq[q] = { s.ring[r].sq[q] with fetching := t.ring[r].sq[q].fetching }) ∧
        (∀ v : SvcId, v ≠ r → t.ring[v] = s.ring[v])) ∧
    (bit d.toNat 0 = false → s.ring[r].cq.enable = true → s.ring[r].cq.state = .enabled → (s.keeper[r].reqs ≠ [] ∨ s.ring[r].cq.recs ≠ []) →
      ∃ t, exec (.ringDisable r .cq tr d) s = .next t ∧ t = { s with sys := t.sys, slu := t.slu } ∧
        t.sys.auditCount = s.sys.auditCount + 1 ∧ t.sys.audit.getLast?.map Audit.rule = some AuditRule.state)

/-- From R188, R204, R205: a fetched line adds the descriptors wanted of it. The keeper core takes the front one of a ring whose turn it is: HEAD
advances, keeper time is that of the take. A NOP has no record. A cancel with no live request of its tag is answered ALREADY_DONE for a recent
final, else NOT_FOUND; one of the only request, out of a cycle, ends it CANCELLED, then DONE. An accepted SUBMIT is QUEUED in the lowest free
context, under the lowest bucket that covers it; else it is answered by R205's first failing check. A LOAD of a LOADING reach waits behind the load
that runs, or begins when none does; a refused one is answered BAD_STATE. From R177, R178, R208, R210, R211: a record whose final word is
acknowledged, twilight not ending, is consumed: TAIL advances, PHASE turns at the ring's end, a final record frees its context and its tag enters
the 256 recent finals, and the last of a group raises its interrupt source. -/
def Obligations.Descriptors : Prop :=
  ((∀ (s : State) (r : SvcId) (q : Fin 2) (l : Bytes), s.ring[r].sq[q].line = some l →
      ∃ t, exec (.descriptorFetched r q) s = .next t ∧ t = { s with ring := t.ring, sys := t.sys } ∧
        t.ring[r].sq[q].fetched = s.ring[r].sq[q].fetched ++
          (List.range (min s.ring[r].sq[q].lineWant s.ring[r].sq[q].pendingEntries)).map (fun j =>
            slice l (descSize s.ring[r].sq[q].gen2 * (s.ring[r].sq[q].head % 2 ^ s.ring[r].sq[q].sizeLog2) % 64 + descSize s.ring[r].sq[q].gen2 * j)
              (descSize s.ring[r].sq[q].gen2)) ∧
        t.ring[r].sq[q].line = none ∧ t.ring[r].sq[q].head = s.ring[r].sq[q].head ∧ t.ring[r].sq[q].tail = s.ring[r].sq[q].tail ∧
        t.ring[r].cq = s.ring[r].cq ∧ (∀ v : SvcId, v ≠ r → t.ring[v] = s.ring[v])) ∧
    (∀ (s : State) (r : SvcId) (q : Fin 2) (kc : Nat), canTake s r q = true →
      (opcodeOf (frontDesc s r q) = 0 →
        ∃ t, exec (.descNop r q kc) s = .next t ∧ t = { s with ring := t.ring, keeper := t.keeper, sys := t.sys, chr := t.chr } ∧
          t.ring[r].sq[q].head = (s.ring[r].sq[q].head + 1) % 2 ^ s.ring[r].sq[q].sizeLog2 ∧
          t.ring[r].sq[q].fetched = s.ring[r].sq[q].fetched.drop 1 ∧ t.ring[r].cq = s.ring[r].cq ∧
          t.keeper[r] = { s.keeper[r] with nowCus := keeperNow s r kc, sqTurn := if q = 0 then 1 else 0 } ∧
          (∀ v : SvcId, v ≠ r → t.keeper[v] = s.keeper[v] ∧ t.ring[v] = s.ring[v])) ∧
      (opcodeOf (frontDesc s r q) = 2 → cancelForm s.ring[r].sq[q].gen2 (frontDesc s r q) = true → s.ring[r].cq.recs = [] → cancels s r = true →
        (∀ n : ReachId, r = svcOf n → s.reach[n].state = .sealed) →
        ((∀ x ∈ s.keeper[r].reqs, x.tag ≠ tagOf (frontDesc s r q)) →
          ∃ t, exec (.cancel r q kc) s = .next t ∧ t = { s with ring := t.ring, keeper := t.keeper, sys := t.sys, chr := t.chr } ∧
            t.keeper[r].reqs = s.keeper[r].reqs ∧ t.ring[r].sq[q].head = (s.ring[r].sq[q].head + 1) % 2 ^ s.ring[r].sq[q].sizeLog2 ∧
            t.ring[r].cq.recs.map (fun x => (x.tag, x.status, x.reply, x.last, x.sq)) =
              [(tagOf (frontDesc s r q), if tagOf (frontDesc s r q) ∈ s.keeper[r].finals then Code.alreadyDone else Code.notFound, true, false, q)]) ∧
        (∀ x : Req, s.keeper[r].reqs = [x] → x.tag = tagOf (frontDesc s r q) → x.state ≠ .ended → s.keeper[r].form = none →
          ∃ t, exec (.cancel r q kc) s = .next t ∧ t.keeper[r].reqs = [{ x with state := .ended }] ∧
            t.ring[r].cq.recs.map (fun y => (y.tag, y.status, y.reply, y.last, y.frees)) =
              [(x.tag, Code.cancelled, false, true, some x.ctx), (x.tag, Code.done, true, false, none)] ∧
            t = { s with ring := t.ring, keeper := t.keeper, sys := t.sys, chr := t.chr, basin := t.basin })) ∧
      (∀ (b : Bucket) (ctx : Nat) (x : Req), x = parseSubmit s.ring[r].sq[q].gen2 q (frontDesc s r q) →
        opcodeOf (frontDesc s r q) = 1 → submits s r = true → restaging s r = false →
        (∀ n : ReachId, r = svcOf n → s.slu.reach[n].dozing = false) → (r = twilightSvc → s.mer.step ≠ .derived) →
        submitForm s.ring[r].sq[q].gen2 (frontDesc s r q) x = true → (∀ y ∈ s.keeper[r].reqs, y.tag ≠ x.tag) →
        (pkgOf s r).bind (fun p => bucketFor p x) = some b → freeCtx s r = some ctx →
        ∃ t, exec (.submit r q kc) s = .next t ∧ t.keeper[r].reqs = s.keeper[r].reqs ++ [{ x with
            state := .queued, ctx := ctx, bucket := b, acceptSeq := s.keeper[r].acceptSeq, acceptCus := keeperNow s r kc
            promptAddr := if s.ring[r].sq[q].gen2 then x.promptAddr else x.frameAddr + x.patches * b.patch * b.patch * 3 }] ∧
          t.ring[r].cq = s.ring[r].cq ∧ t.ring[r].sq[q].head = (s.ring[r].sq[q].head + 1) % 2 ^ s.ring[r].sq[q].sizeLog2 ∧
          t = { s with ring := t.ring, keeper := t.keeper, sys := t.sys, chr := t.chr, basin := t.basin }) ∧
      (∀ x : Req, x = parseSubmit s.ring[r].sq[q].gen2 q (frontDesc s r q) →
        opcodeOf (frontDesc s r q) ≠ 0 → opcodeOf (frontDesc s r q) ≠ 2 → opcodeOf (frontDesc s r q) ≠ 3 → s.ring[r].cq.recs = [] →
        (opcodeOf (frontDesc s r q) = 1 → restaging s r = false) →
        (opcodeOf (frontDesc s r q) ≠ 1 ∨ submitForm s.ring[r].sq[q].gen2 (frontDesc s r q) x = false ∨ submits s r = false ∨
          (∃ y ∈ s.keeper[r].reqs, y.tag = x.tag) ∨ (pkgOf s r).bind (fun p => bucketFor p x) = none ∨ freeCtx s r = none) →
        ∃ t, exec (.submit r q kc) s = .next t ∧ t.keeper[r].reqs = s.keeper[r].reqs ∧
          t = { s with ring := t.ring, keeper := t.keeper, sys := t.sys, chr := t.chr, events := t.events } ∧ t.events.tail = s.events ∧
          t.ring[r].cq.recs.map (fun y => (y.tag, y.status, y.reply, y.frees)) = [(tagOf (frontDesc s r q),
            if opcodeOf (frontDesc s r q) ≠ 1 ∨ submitForm s.ring[r].sq[q].gen2 (frontDesc s r q) x = false then Code.badDescriptor
            else if submits s r = false then Code.badState
            else if s.keeper[r].reqs.any (fun y => y.tag == x.tag) ∨ (pkgOf s r).bind (fun p => bucketFor p x) = none then Code.badDescriptor
            else Code.resources, false, none)]) ∧
      (∀ n : ReachId, opcodeOf (frontDesc s r q) = 3 → r = svcOf n → s.ring[r].sq[q].gen2 = true → loadForm (frontDesc s r q) = true →
        (loadOk s n = true →
          (∀ j : LoadJob, s.loader.job = some j →
            ∃ t, exec (.load r q kc) s = .next t ∧ t = { s with ring := t.ring, keeper := t.keeper, sys := t.sys, chr := t.chr, loader := t.loader } ∧
              t.ring[r].cq = s.ring[r].cq ∧ t.loader = { s.loader with queue := s.loader.queue ++
                [{ reach := n, tag := tagOf (frontDesc s r q), sq := q, imageAddr := leAt (frontDesc s r q) 32 8, imageBytes := leAt (frontDesc s r q) 40 8 }] }) ∧
          (s.loader.job = none → s.loader.queue = [] → 49 ≤ leAt (frontDesc s r q) 40 8 →
            ∃ t j, exec (.load r q kc) s = .next t ∧ t.ring[r].cq = s.ring[r].cq ∧ t.loader.job = some j ∧ j.reach = n ∧
              j.tag = tagOf (frontDesc s r q) ∧ j.sq = q ∧ j.imageAddr = leAt (frontDesc s r q) 32 8 ∧ j.imageBytes = leAt (frontDesc s r q) 40 8 ∧
              j.fetchLen = min chunkBytes (leAt (frontDesc s r q) 40 8) ∧ j.staged = [] ∧ t.loader.state = .running ∧ t.loader.reach = n.val ∧
              t.loader.chunkIndex = j.chunk ∧ t.loader.queue = [] ∧ t.reach[n].loadGen = (s.reach[n].loadGen + 1) % 2 ^ 32)) ∧
        (loadOk s n = false → s.ring[r].cq.recs = [] →
          ∃ t, exec (.load r q kc) s = .next t ∧ t.loader = s.loader ∧ t.reach = s.reach ∧
            t.ring[r].cq.recs.map (fun x => (x.tag, x.status, x.reply)) = [(tagOf (frontDesc s r q), Code.badState, true)])))) ∧
  (∀ (s : State) (r : SvcId) (x : Rec) (rest : List Rec), s.ring[r].cq.stage = .written → s.ring[r].cq.recs = x :: rest →
      s.mer.twilightEnding = false →
      ∃ t, exec (.recordWritten r) s = .next t ∧ t.ring[r].cq.recs = rest ∧
        t.ring[r].cq.tail = (s.ring[r].cq.tail + 1) % 2 ^ s.ring[r].cq.sizeLog2 ∧
        t.ring[r].cq.phase = (if (s.ring[r].cq.tail + 1) % 2 ^ s.ring[r].cq.sizeLog2 = 0 then !s.ring[r].cq.phase else s.ring[r].cq.phase) ∧
        t.ring[r].sq = s.ring[r].sq ∧ (∀ v : SvcId, v ≠ r → t.ring[v] = s.ring[v] ∧ t.keeper[v] = s.keeper[v]) ∧
        (∀ ctx : Nat, x.frees = some ctx → t.keeper[r] = { s.keeper[r] with
            reqs := s.keeper[r].reqs.filter (fun q => q.ctx != ctx), finals := t.keeper[r].finals } ∧
          t.keeper[r].finals.getLast? = some x.tag ∧ t.keeper[r].finals.length ≤ 256) ∧
        (x.frees = none → t.keeper = s.keeper) ∧
        (x.groupEnd = true → t.sys.irqPend[cqSource r] = true) ∧ (x.groupEnd = false → t.sys.irqPend = s.sys.irqPend) ∧
        t = { s with ring := t.ring, keeper := t.keeper, sys := t.sys, chr := t.chr })

/-! ### Lock cycles and tolls -/

/-- From R95, R103, R104, R109, R120, R183 to R186, R190, R191: lock cycles, no entry to KEEP waiting. With one unlimited request, formation places it:
its prompt complete, as a decode entry, else as a prefill entry of as many positions as chunk and rows allow, and the request is ACTIVE. A staged
cycle starts: its step block is written, every live barge sent a step token and awaited. The token enters a barge of its epoch into STEP (share
without errors); another barge refuses it, and a refusal has the barge Dredged. A step-done token is no longer awaited. A commit point ends its
cycle. A deadline tick leaves requests without limits as they are, and gives a late ACTIVE request its policy's effect. -/
def Obligations.LockCycles : Prop :=
  (∀ (s : State) (r : SvcId) (kc : Nat) (q : Req), keeperRuns s r = true → formGate s r = true → s.keeper[r].reqs = [q] →
    q.deadlineUs = 0 → q.moorLimitMs = 0 → s.keeper[r].tolls[q.cust].en = false → 1 ≤ q.bucket.maxRows →
    (∀ n : ReachId, r = svcOf n → s.reach[n].state = .sealed) →
    (q.prompt ≤ q.prefilled → q.state = .active →
      ∃ t, exec (.formCycle r kc) s = .next t ∧ t = { s with keeper := t.keeper, chr := t.chr, basin := t.basin } ∧
        t.keeper[r].form = some { number := s.keeper[r].nextCycle, entries := [{
          ctx := q.ctx, tag := q.tag, decode := true, sample := true, greedy := q.greedy, first := false, row0 := 0, nRows := 1
          pos := q.prompt + q.tokIdx - 1, tokIdx := q.tokIdx, seed := q.seed, inToken := q.lastToken, inputOff := 0 }] } ∧
        t.keeper[r].reqs = [q] ∧ t.keeper[r].nowCus = keeperNow s r kc ∧ (∀ v : SvcId, v ≠ r → t.keeper[v] = s.keeper[v])) ∧
    (q.prefilled < q.prompt → q.state = .queued → 1 ≤ q.bucket.chunk →
      ∃ t, exec (.formCycle r kc) s = .next t ∧ t = { s with keeper := t.keeper, chr := t.chr, basin := t.basin, sys := t.sys } ∧
        t.keeper[r].form = some { number := s.keeper[r].nextCycle, entries := [{
          ctx := q.ctx, tag := q.tag, decode := false, greedy := q.greedy, first := q.prefilled == 0, row0 := 0
          sample := decide (q.prompt ≤ q.prefilled + min (q.prompt - q.prefilled) (min (min 256 q.bucket.chunk) (min 256 q.bucket.maxRows)))
          nRows := min (q.prompt - q.prefilled) (min (min 256 q.bucket.chunk) (min 256 q.bucket.maxRows))
          pos := q.prefilled, tokIdx := q.tokIdx, seed := q.seed, inToken := 0, inputOff := inputAreaOff s r }] } ∧
        t.keeper[r].reqs = [{ q with state := .active }] ∧ (∀ v : SvcId, v ≠ r → t.keeper[v] = s.keeper[v]))) ∧
  (∀ (s : State) (r : SvcId) (kc : Nat) (c : LockCycle), canStart s r = true → s.keeper[r].form = some c →
    ∃ t, exec (.stagingComplete r kc) s = .next t ∧
      t.keeper[r].form = some { c with
        number := s.keeper[r].nextCycle, entries := renumberRows 0 c.entries, started := true, startCus := keeperNow s r kc
        schedule := (liveBarges s r).length, waiting := liveBarges s r } ∧
      t.keeper[r].nextCycle = s.keeper[r].nextCycle + 1 ∧ t.keeper[r].reqs = s.keeper[r].reqs ∧
      t.basin = (sharePut s r (stepBlockOff s r s.keeper[r].nextCycle)
        (stepBlock s.keeper[r].nextCycle (liveBarges s r).length (epochOf s r) (renumberRows 0 c.entries))).basin ∧
      t.flight = s.flight ++ (liveBarges s r).map (fun b => .stepToken b s.keeper[r].nextCycle (epochOf s r)) ∧
      t = { s with keeper := t.keeper, basin := t.basin, flight := t.flight, eye := t.eye, freeCtr := t.freeCtr } ∧
      (∀ v : SvcId, v ≠ r → t.keeper[v] = s.keeper[v])) ∧
  (∀ (s : State) (b : BargeId) (c e : Nat) (rest : List Msg) (r : SvcId), s.slu.keepPending = false →
    takeStepToken b s.flight = some ((c, e), rest) → s.col.barge ≠ some b → receives s b = true → svcOfBarge s.barge[b] = some r →
    (∀ (p : Package) (x : Sched), acceptsStep s b e = true → pkgOf s r = some p → schedOf p s.keeper[r].liveSched s.barge[b].logical = some x →
      s.basin.weak = [] → s.basin.bad = [] →
      ∃ t, exec (.stepToken b) s = .next t ∧ t = { s with barge := t.barge, flight := rest, eye := t.eye, freeCtr := t.freeCtr } ∧
        t.barge[b] = { s.barge[b].write stepBase (shareGet s r (stepBlockOff s r c) 16384) with
          cycle := c, run := .step, cleared := false, pc := x.step, loops := [], held := none
          sregs := entryRegs c (leAt (shareGet s r (stepBlockOff s r c) 16384) 8 2) s.keeper[r].liveSched s.barge[b].logical s.barge[b].epoch } ∧
        (∀ a : BargeId, a ≠ b → t.barge[a] = s.barge[a])) ∧
    (acceptsStep s b e = false →
      ∃ t, exec (.stepToken b) s = .next t ∧ t = { s with chr := t.chr, flight := rest ++ [.refusal b r] })) ∧
  (∀ (s : State) (r : SvcId) (b : BargeId), s.slu.keepPending = false → Msg.refusal b r ∈ s.flight →
    ∃ t, exec (.stepRefusal r b) s = .next t ∧ t.keeper[r] = { s.keeper[r] with
        refusals := satInc 16 s.keeper[r].refusals, resuming := s.keeper[r].resuming.filter (· != b) ++ [b]
        refused := s.keeper[r].refused.filter (· != b) ++ [b] } ∧
      t.barge[b].dredging = true ∧ t.barge[b].afterDredge = .resume ∧ t.barge[b].epoch = 0 ∧ t.barge[b].run = .idle ∧
      t = { s with keeper := t.keeper, barge := t.barge, port := t.port, flight := s.flight.erase (.refusal b r) } ∧
      (∀ a : BargeId, a ≠ b → t.barge[a] = s.barge[a]) ∧ (∀ v : SvcId, v ≠ r → t.keeper[v] = s.keeper[v])) ∧
  (∀ (s : State) (r : SvcId) (b : BargeId) (kc : Nat) (c : LockCycle), s.slu.keepPending = false → Msg.stepDone b r ∈ s.flight →
    b ∉ s.keeper[r].resuming → s.keeper[r].form = some c → c.started = true →
    ∃ t, exec (.stepDoneToken r b kc) s = .next t ∧ t = { s with keeper := t.keeper, flight := s.flight.erase (.stepDone b r) } ∧
      t.keeper[r] = { s.keeper[r] with form := some { c with waiting := c.waiting.filter (· != b) }, nowCus := keeperNow s r kc } ∧
      (∀ v : SvcId, v ≠ r → t.keeper[v] = s.keeper[v])) ∧
  (∀ (s : State) (r : SvcId) (kc : Nat), canCommit s r = true → s.basin.bad = [] →
    ∃ t, exec (.commitPoint r kc) s = .next t ∧ t.keeper[r].form = none) ∧
  (∀ (s : State) (r : SvcId) (kc : Nat), keeperRuns s r = true → s.keeper[r].lastTick < keeperNow s r kc / 100000 →
    (∀ n : ReachId, r = svcOf n → s.reach[n].state ≠ .draining) →
    ((∀ x ∈ s.keeper[r].reqs, x.deadlineUs = 0 ∧ x.moorLimitMs = 0) →
      ∃ t, exec (.deadlineTestTick r kc) s = .next t ∧ t.keeper[r].lastTick = keeperNow s r kc / 100000 ∧
        t.keeper[r].nowCus = keeperNow s r kc ∧ t.keeper[r].reqs = s.keeper[r].reqs ∧ t.ring = s.ring ∧
        t = { s with keeper := t.keeper, chr := t.chr, basin := t.basin, sys := t.sys }) ∧
    (∀ x : Req, s.keeper[r].reqs = [x] → s.keeper[r].form = none → s.ring[r].cq.recs = [] → x.state = .active → x.deadlineUs ≠ 0 →
      x.acceptCus + x.deadlineUs * 100 ≤ keeperNow s r kc → x.policyDone = false →
      ∃ t, exec (.deadlineTestTick r kc) s = .next t ∧
        t.keeper[r].reqs = [match x.policy with
          | .continue => { x with policyDone := true }
          | .moor => { x with policyDone := true, state := .moored, normal := false, mooredCus := keeperNow s r kc }
          | .cancel => { x with policyDone := true, state := .ended }] ∧
        t.ring[r].cq.recs.map (fun y => (y.tag, y.status, y.last)) = (match x.policy with
          | .continue => []
          | .moor => [(x.tag, Code.moored, false)]
          | .cancel => [(x.tag, Code.cancelled, true)]) ∧
        t = { s with keeper := t.keeper, ring := t.ring, sys := t.sys, chr := t.chr, basin := t.basin }))

/-- From R186 to R188, R193, R207: the commit of a cycle with one decode entry, its step block read without errors, no exchange and no change of
schedule due: its request's token index rises and its account pays the entry's rows, the token goes into one record, and the last token of a request
ends it. -/
def Obligations.CommitToken : Prop :=
  ∀ (s : State) (r : SvcId) (kc : Nat) (c : LockCycle) (e : Entry) (q : Req), canCommit s r = true → s.keeper[r].form = some c → c.entries = [e] →
    e.dropped = false → e.decode = true → e.sample = true → s.keeper[r].reqs = [q] → q.ctx = e.ctx → q.state = .active → q.deadlineUs = 0 →
    q.moorLimitMs = 0 → s.ring[r].cq.recs = [] → liveCount s r = s.keeper[r].liveSched → s.basin.bad = [] →
    (∀ n : ReachId, r = svcOf n → s.reach[n].state = .sealed ∧
      ∀ l : LinkId, s.link[l].xchg[n].en = false ∧ s.link[l].chan[(⟨n.val, by omega⟩ : Fin 9)].ordered = none) →
    ∃ t x, exec (.commitPoint r kc) s = .next t ∧ t.keeper[r].form = none ∧ t.keeper[r].cycle = c.number ∧ t.ring[r].cq.recs = [x] ∧
      x.tag = q.tag ∧ x.token = some (readOut s r c.number 0).1 ∧ x.tokIdx = q.tokIdx ∧ x.status = Code.done ∧ x.groupEnd = true ∧
      x.stop = (readOut s r c.number 0).2 ∧ x.last = ((readOut s r c.number 0).2 || decide (q.maxNew ≤ q.tokIdx + 1)) ∧ x.reply = false ∧
      x.sq = q.sq ∧ x.cycle = c.number ∧ x.outAddr = q.outAddr ∧ x.frees = (if x.last = true then some q.ctx else none) ∧
      t.keeper[r].reqs = [{ q with
        tokIdx := q.tokIdx + 1, lastToken := (readOut s r c.number 0).1, state := if x.last = true then .ended else .active }] ∧
      t.keeper[r].tolls[q.cust].balance =
        (if s.keeper[r].tolls[q.cust].en then s.keeper[r].tolls[q.cust].balance - (e.nRows : Int) else s.keeper[r].tolls[q.cust].balance)

/-- From R192 to R194, R198: toll accounts, System Port running. A write that turns an account on fills it to its capacity; another keeps its balance;
both set the mode and RATE, clamped to 4,095 with a record of rule RANGE. A write of the capacity cuts a balance above it. -/
def Obligations.Tolls : Prop :=
  ∀ (s : State) (n : ReachId) (c : Fin 16) (tr : Bool) (d : Word), sysUp s = true →
    (∀ kc : Nat,
      ∃ t, exec (.tollCfgWrite n c tr kc d) s = .next t ∧ t = { s with keeper := t.keeper, sys := t.sys } ∧
        t.keeper[svcOf n].tolls[c] = { s.keeper[svcOf n].tolls[c] with
          en := bit d.toNat 0, endMode := bit d.toNat 1, rate := min 4095 (bits d.toNat 16 16)
          balance := if bit d.toNat 0 = true ∧ s.keeper[svcOf n].tolls[c].en = false then (s.keeper[svcOf n].tolls[c].cap : Int)
            else s.keeper[svcOf n].tolls[c].balance
          lastRefillCus := if bit d.toNat 0 = true ∧ s.keeper[svcOf n].tolls[c].en = false then keeperNow s (svcOf n) kc
            else s.keeper[svcOf n].tolls[c].lastRefillCus } ∧
        (∀ i : Fin 16, i ≠ c → t.keeper[svcOf n].tolls[i] = s.keeper[svcOf n].tolls[i]) ∧
        t.keeper[svcOf n] = { s.keeper[svcOf n] with tolls := t.keeper[svcOf n].tolls, nowCus := keeperNow s (svcOf n) kc } ∧
        (∀ v : SvcId, v ≠ svcOf n → t.keeper[v] = s.keeper[v]) ∧ (bits d.toNat 16 16 ≤ 4095 → t.sys = s.sys) ∧
        (4095 < bits d.toNat 16 16 → t.sys.auditCount = s.sys.auditCount + 1 ∧
          t.sys.audit.getLast?.map Audit.rule = some AuditRule.range)) ∧
    (∃ t, exec (.tollCapWrite n c tr d) s = .next t ∧ t = { s with keeper := t.keeper } ∧
      t.keeper[svcOf n].tolls[c] = { s.keeper[svcOf n].tolls[c] with
        cap := bits d.toNat 0 24, balance := min s.keeper[svcOf n].tolls[c].balance ((bits d.toNat 0 24 : Nat) : Int) } ∧
      (∀ i : Fin 16, i ≠ c → t.keeper[svcOf n].tolls[i] = s.keeper[svcOf n].tolls[i]) ∧
      t.keeper[svcOf n] = { s.keeper[svcOf n] with tolls := t.keeper[svcOf n].tolls } ∧ (∀ v : SvcId, v ≠ svcOf n → t.keeper[v] = s.keeper[v]))

/-! ### Passage programs -/

/-- From R109, R113: scalar instructions that the sequencer issues: LI, SALU and SLD write their destination, S0 ignoring writes, and go on, changing
nothing else; SLD reads its step block copy; the functions of SALU are those of R113 on unsigned 32-bit words. -/
def Obligations.ScalarInstructions : Prop :=
  (∀ (s : State) (b : BargeId) (d : SReg) (i : Instr) (v : Word), issues s b i = true →
    (i = .li b d v ∨
      (∃ ra rb fn, i = .salu b d ra rb fn ∧ v = sfn fn s.barge[b].sregs[ra] s.barge[b].sregs[rb]) ∨
      (∃ off : BitVec 14, i = .sld b d off ∧
        v = BitVec.ofNat 32 (leNat (memBytes s.barge[b].spad (0x17C000 + 4 * off.toNat % 0x4000) 4)))) →
    ∃ t, exec i s = .next t ∧ onlyBarge s t b ∧ goesOn s.barge[b] t.barge[b] ∧
      t.barge[b] = { s.barge[b] with sregs := t.barge[b].sregs, pc := t.barge[b].pc, loops := t.barge[b].loops } ∧
      ∀ k : SReg, t.barge[b].sregs[k] = if k = d ∧ d ≠ 0 then v else s.barge[b].sregs[k]) ∧
  (∀ x y : Word, (sfn .add x y).toNat = (x.toNat + y.toNat) % 2 ^ 32 ∧ (sfn .sub x y).toNat = (x.toNat + 2 ^ 32 - y.toNat) % 2 ^ 32 ∧
    (sfn .mul x y).toNat = x.toNat * y.toNat % 2 ^ 32 ∧ (sfn .minu x y).toNat = min x.toNat y.toNat ∧
    (sfn .maxu x y).toNat = max x.toNat y.toNat ∧ (sfn .shl x y).toNat = x.toNat * 2 ^ (y.toNat % 32) % 2 ^ 32 ∧
    (sfn .shr x y).toNat = x.toNat / 2 ^ (y.toNat % 32) ∧ (sfn .cdiv32 x y).toNat = (x.toNat + 31) / 32 ∧
    (sfn .sltu x y).toNat = (if x.toNat < y.toNat then 1 else 0) ∧
    ∀ k : Nat, (sfn .and x y).getLsbD k = (x.getLsbD k && y.getLsbD k) ∧ (sfn .or x y).getLsbD k = (x.getLsbD k || y.getLsbD k) ∧
      (sfn .xor x y).getLsbD k = (x.getLsbD k != y.getLsbD k))

/-- From R92, R109, R113: control and stores of the sequencer, as it issues them. NOP goes on; a branch outside loops is taken when its condition holds;
a loop of no round or no body is skipped outside loops, another entered up to four deep; the last instruction of a body returns to its first while
rounds are left, else goes on. FENCE and STEPDONE are held while moves are under way; without any FENCE goes on and STEPDONE ends the step with its
token. SST of a word in reach and TDSET write their bytes and no other. -/
def Obligations.SequencerControl : Prop :=
  (∀ (s : State) (b : BargeId), issues s b (.nop b) = true →
    (∃ t, exec (.nop b) s = .next t ∧ onlyBarge s t b ∧ goesOn s.barge[b] t.barge[b] ∧
      t.barge[b] = { s.barge[b] with pc := t.barge[b].pc, loops := t.barge[b].loops }) ∧
    (∀ (l : LoopFrame) (ls : List LoopFrame), s.barge[b].loops = l :: ls → s.barge[b].pc + 1 = l.stop →
      (1 < l.left →
        ∃ t, exec (.nop b) s = .next t ∧ t.barge[b].pc = l.first ∧ t.barge[b].loops = { l with left := l.left - 1 } :: ls) ∧
      (l.left ≤ 1 → ls = [] → ∃ t, exec (.nop b) s = .next t ∧ t.barge[b].pc = s.barge[b].pc + 1 ∧ t.barge[b].loops = []))) ∧
  (∀ (s : State) (b : BargeId), issues s b (.fence b) = true →
    (s.barge[b].moves = [] → ∃ t, exec (.fence b) s = .next t ∧ onlyBarge s t b ∧ goesOn s.barge[b] t.barge[b] ∧
      t.barge[b] = { s.barge[b] with pc := t.barge[b].pc, loops := t.barge[b].loops }) ∧
    (s.barge[b].moves ≠ [] → ∃ t, exec (.fence b) s = .next t ∧ onlyBarge s t b ∧ t.barge[b] = { s.barge[b] with held := some .fence })) ∧
  (∀ (s : State) (b : BargeId) (r : SvcId), issues s b (.stepdone b) = true → svcOfBarge s.barge[b] = some r →
    (s.barge[b].moves = [] →
      ∃ t, exec (.stepdone b) s = .next t ∧ t = { s with barge := t.barge, flight := s.flight ++ [.stepDone b r] } ∧
        t.barge[b] = { s.barge[b] with run := .idle, held := none } ∧ (∀ x : BargeId, x ≠ b → t.barge[x] = s.barge[x])) ∧
    (s.barge[b].moves ≠ [] → ∃ t, exec (.stepdone b) s = .next t ∧ onlyBarge s t b ∧ t.barge[b] = { s.barge[b] with held := some .stepdone })) ∧
  (∀ (s : State) (b : BargeId) (ra rb : SReg) (c : BrCond) (off : BitVec 16), issues s b (.br b ra rb c off) = true → s.barge[b].loops = [] →
    ∃ t, exec (.br b ra rb c off) s = .next t ∧ onlyBarge s t b ∧
      t.barge[b] = { s.barge[b] with pc :=
        if (c = .eq ∧ s.barge[b].sregs[ra].toNat = s.barge[b].sregs[rb].toNat) ∨ (c = .ne ∧ s.barge[b].sregs[ra].toNat ≠ s.barge[b].sregs[rb].toNat) ∨
          (c = .ltu ∧ s.barge[b].sregs[ra].toNat < s.barge[b].sregs[rb].toNat) ∨ (c = .geu ∧ s.barge[b].sregs[rb].toNat ≤ s.barge[b].sregs[ra].toNat)
        then s.barge[b].pc + 1 + off.toNat else s.barge[b].pc + 1 }) ∧
  (∀ (s : State) (b : BargeId) (ra : SReg) (len : BitVec 16), issues s b (.loop b ra len) = true →
    (len ≠ 0 → s.barge[b].sregs[ra] ≠ 0 → s.barge[b].loops.length < 4 →
      ∃ t, exec (.loop b ra len) s = .next t ∧ onlyBarge s t b ∧
        t.barge[b] = { s.barge[b] with
          pc := s.barge[b].pc + 1
          loops := { first := s.barge[b].pc + 1, stop := s.barge[b].pc + 1 + len.toNat, left := s.barge[b].sregs[ra].toNat } :: s.barge[b].loops }) ∧
    ((len = 0 ∨ s.barge[b].sregs[ra] = 0) → s.barge[b].loops = [] →
      ∃ t, exec (.loop b ra len) s = .next t ∧ onlyBarge s t b ∧ t.barge[b] = { s.barge[b] with pc := s.barge[b].pc + 1 + len.toNat })) ∧
  (∀ (s : State) (b : BargeId) (ra : SReg) (a : BitVec 21), issues s b (.sst b ra a) = true → inReach s b (.sst b ra a) = true → a.toNat % 4 = 0 →
    ∃ t, exec (.sst b ra a) s = .next t ∧ onlyBarge s t b ∧ goesOn s.barge[b] t.barge[b] ∧
      t.barge[b] = { s.barge[b] with
        spad := t.barge[b].spad, pc := t.barge[b].pc, loops := t.barge[b].loops, operands := [], operandsIn := false } ∧
      memBytes t.barge[b].spad a.toNat 4 = leBytes 4 s.barge[b].sregs[ra].toNat ∧
      ∀ x : Nat, x < a.toNat ∨ a.toNat + 4 ≤ x → memGet t.barge[b].spad x = memGet s.barge[b].spad x) ∧
  (∀ (s : State) (b : BargeId) (desc : DescId) (dim : Fin 4) (ra : SReg), issues s b (.tdset b desc dim ra) = true →
    ∃ t, exec (.tdset b desc dim ra) s = .next t ∧ onlyBarge s t b ∧ goesOn s.barge[b] t.barge[b] ∧
      t.barge[b] = { s.barge[b] with spad := t.barge[b].spad, pc := t.barge[b].pc, loops := t.barge[b].loops } ∧
      memBytes t.barge[b].spad (0x178000 + 64 * desc.val + 48 + 2 * dim.val) 2 = leBytes 2 s.barge[b].sregs[ra].toNat ∧
      ∀ x : Nat, x < 0x178000 + 64 * desc.val + 48 + 2 * dim.val ∨ 0x178000 + 64 * desc.val + 50 + 2 * dim.val ≤ x →
        memGet t.barge[b].spad x = memGet s.barge[b].spad x)

/-- From R23, R94, R95, R113, R114: tokens and credits. An issued WAIT fires when every counter holds what it asks, and takes exactly that; else it is
held. SIGNAL to itself adds its tokens (at most 4,095), to a logical barge below S3 sends them; it takes the credit it names and is held without
one. CGIVE sends credits; CLIM sets a limit. The first entry in flight to a channel of a barge that receives, none of its source before it and no
data in flight, is added where it arrives: a token may fire the WAIT held there, a credit the SIGNAL held for it; a token count above 4,095, and a
credit above its channel's limit, are faults: a barge under test is FAILED (no pick held back). -/
def Obligations.TokensAndCredits : Prop :=
  (∀ (s : State) (b : BargeId) (ta tb tc : Fin 16) (ca cb cc : BitVec 12), issues s b (.wait b ta ca tb cb tc cc) = true →
    ∃ t, exec (.wait b ta ca tb cb tc cc) s = .next t ∧ onlyBarge s t b ∧ t.barge[b].credits = s.barge[b].credits ∧
      t.barge[b].sregs = s.barge[b].sregs ∧ t.barge[b].spad = s.barge[b].spad ∧
      (let need := waitNeed [(ta, ca.toNat), (tb, cb.toNat), (tc, cc.toNat)]
       if ∀ k : Fin 16, need k ≤ s.barge[b].tokens[k] then
         goesOn s.barge[b] t.barge[b] ∧ t.barge[b].held = none ∧ ∀ k : Fin 16, t.barge[b].tokens[k] = s.barge[b].tokens[k] - need k
       else t.barge[b].held.isSome = true ∧ t.barge[b].pc = s.barge[b].pc ∧ t.barge[b].tokens = s.barge[b].tokens)) ∧
  (∀ (s : State) (b : BargeId) (tgt : SigTgt) (lb : Fin 32) (ch cc : Fin 16) (n : BitVec 12) (cv : Bool), issues s b (.signal b tgt lb ch n cv cc) = true →
    (cv = true → s.barge[b].credits[cc] ≠ 0) →
    (tgt = .self → s.barge[b].tokens[ch] + n.toNat ≤ 4095 →
      ∃ t, exec (.signal b tgt lb ch n cv cc) s = .next t ∧ onlyBarge s t b ∧ goesOn s.barge[b] t.barge[b] ∧
        t.barge[b].tokens = upd s.barge[b].tokens ch (· + n.toNat) ∧ t.barge[b].spad = s.barge[b].spad ∧
        t.barge[b].credits = (if cv then upd s.barge[b].credits cc (· - 1) else s.barge[b].credits)) ∧
    (∀ d : BargeId, tgt = .logical → target s b lb.val = some d →
      ∃ t, exec (.signal b tgt lb ch n cv cc) s = .next t ∧ t = { s with barge := t.barge, flight := s.flight ++ [.token b d ch n.toNat] } ∧
        goesOn s.barge[b] t.barge[b] ∧ t.barge[b].tokens = s.barge[b].tokens ∧ t.barge[b].spad = s.barge[b].spad ∧
        t.barge[b].credits = (if cv then upd s.barge[b].credits cc (· - 1) else s.barge[b].credits) ∧
        (∀ x : BargeId, x ≠ b → t.barge[x] = s.barge[x]))) ∧
  (∀ (s : State) (b : BargeId) (tgt : SigTgt) (lb : Fin 32) (ch cc : Fin 16) (n : BitVec 12), issues s b (.signal b tgt lb ch n true cc) = true →
    s.barge[b].credits[cc] = 0 → (tgt = .logical → (target s b lb.val).isSome = true) →
    ∃ t, exec (.signal b tgt lb ch n true cc) s = .next t ∧ onlyBarge s t b ∧
      t.barge[b] = { s.barge[b] with held := some (.credit cc (.signal b tgt lb ch n true cc)) }) ∧
  (∀ (s : State) (b : BargeId) (lb : Fin 32) (ch : Fin 16) (n : BitVec 12) (d : BargeId), issues s b (.cgive b lb ch n) = true →
    target s b lb.val = some d →
    ∃ t, exec (.cgive b lb ch n) s = .next t ∧ t = { s with barge := t.barge, flight := s.flight ++ [.credit b d ch n.toNat] } ∧
      goesOn s.barge[b] t.barge[b] ∧ t.barge[b] = { s.barge[b] with pc := t.barge[b].pc, loops := t.barge[b].loops } ∧
      (∀ x : BargeId, x ≠ b → t.barge[x] = s.barge[x])) ∧
  (∀ (s : State) (b : BargeId) (ch : Fin 16) (n : BitVec 12), issues s b (.clim b ch n) = true →
    ∃ t, exec (.clim b ch n) s = .next t ∧ onlyBarge s t b ∧ goesOn s.barge[b] t.barge[b] ∧
      t.barge[b] = { s.barge[b] with limits := put s.barge[b].limits ch n.toNat, pc := t.barge[b].pc, loops := t.barge[b].loops }) ∧
  (∀ (s : State) (a b : BargeId) (ch : Fin 16) (n : Nat) (pre post : List Msg), s.flight = pre ++ .token a b ch n :: post → receives s b = true →
    (∀ m ∈ pre, m.route ≠ some (some a, b)) → (∀ c k, Msg.token c b ch k ∉ pre) → (∀ m ∈ pre ++ post, m.isData = false) → s.slu.keepPending = false →
    (s.barge[b].held = none → s.barge[b].tokens[ch] + n ≤ 4095 →
      ∃ t, exec (.tokenArrival b ch) s = .next t ∧ t = { s with barge := t.barge, flight := pre ++ post } ∧
        t.barge = upd s.barge b (fun g => { g with tokens := upd g.tokens ch (· + n) })) ∧
    (∀ k : Nat, s.barge[b].held = some (.wait [(ch, k)]) → k ≤ s.barge[b].tokens[ch] + n → s.barge[b].tokens[ch] + n ≤ 4095 →
      ∃ t, exec (.tokenArrival b ch) s = .next t ∧ t = { s with barge := t.barge, flight := pre ++ post } ∧ goesOn s.barge[b] t.barge[b] ∧
        t.barge[b].tokens = upd s.barge[b].tokens ch (fun x => x + n - k) ∧ t.barge[b].held = none ∧ (∀ x : BargeId, x ≠ b → t.barge[x] = s.barge[x])) ∧
    (4095 < s.barge[b].tokens[ch] + n → s.barge[b].role = .underTest → s.col.deferred = false →
      ∃ t, exec (.tokenArrival b ch) s = .next t ∧ t.barge[b].role = .failed ∧ t.barge[b].faultCause = 4)) ∧
  (∀ (s : State) (a b : BargeId) (ch : Fin 16) (n : Nat) (pre post : List Msg), s.flight = pre ++ .credit a b ch n :: post → receives s b = true →
    (∀ m ∈ pre, m.route ≠ some (some a, b)) → (∀ c k, Msg.credit c b ch k ∉ pre) → (∀ m ∈ pre ++ post, m.isData = false) → s.slu.keepPending = false →
    (s.barge[b].credits[ch] + n ≤ s.barge[b].limits[ch] → s.barge[b].held = none →
      ∃ t, exec (.creditArrival b ch) s = .next t ∧ t = { s with barge := t.barge, flight := pre ++ post } ∧
        t.barge = upd s.barge b (fun g => { g with credits := upd g.credits ch (· + n) })) ∧
    (∀ (lb : Fin 32) (tch : Fin 16) (m : BitVec 12) (d : BargeId), s.barge[b].held = some (.credit ch (.signal b .logical lb tch m true ch)) →
      target s b lb.val = some d → 0 < s.barge[b].credits[ch] + n → s.barge[b].credits[ch] + n ≤ s.barge[b].limits[ch] →
      ∃ t, exec (.creditArrival b ch) s = .next t ∧ t = { s with barge := t.barge, flight := pre ++ post ++ [.token b d tch m.toNat] } ∧
        goesOn s.barge[b] t.barge[b] ∧ t.barge[b].credits = upd s.barge[b].credits ch (fun x => x + n - 1) ∧ t.barge[b].held = none ∧
        (∀ x : BargeId, x ≠ b → t.barge[x] = s.barge[x])) ∧
    (s.barge[b].limits[ch] < s.barge[b].credits[ch] + n → s.barge[b].role = .underTest → s.col.deferred = false →
      ∃ t, exec (.creditArrival b ch) s = .next t ∧ t.barge[b].role = .failed ∧ t.barge[b].faultCause = 5))

/-- From R109, R117, R118: vector instructions between registers, as the sequencer issues them: VOP and VRNG (an even seed register) write lanes 0 to L
− 1 of their destination with their functions and no other lane; VBC and VSPL fill all 128 with a lane or a scalar; nothing else of the barge
changes but where it goes on. -/
def Obligations.VectorRegisters : Prop :=
  ∀ (s : State) (b : BargeId) (vd : VReg) (i : Instr), issues s b i = true →
    (∀ (lm1 : Fin 128) (f : Nat → Word),
      ((∃ fn va vb vc, i = .vop b fn vd va vb vc lm1 ∧
          f = fun k => vfn fn (s.barge[b].vregs[va].toList.getD k 0) (s.barge[b].vregs[vb].toList.getD k 0) (s.barge[b].vregs[vc].toList.getD k 0)) ∨
        (∃ (seed tok draw : SReg) (dom : BitVec 8), i = .vrng b vd seed tok draw dom lm1 ∧ seed.val % 2 = 0 ∧
          f = fun k => uniform s.barge[b].sregs[seed] s.barge[b].sregs[seed + 1] s.barge[b].sregs[tok] (s.barge[b].sregs[draw] + BitVec.ofNat 32 k) dom.toNat)) →
      ∃ t, exec i s = .next t ∧ t = { s with barge := t.barge, chr := t.chr } ∧ (∀ x : BargeId, x ≠ b → t.barge[x] = s.barge[x]) ∧
        goesOn s.barge[b] t.barge[b] ∧
        t.barge[b] = { s.barge[b] with vregs := t.barge[b].vregs, pc := t.barge[b].pc, loops := t.barge[b].loops } ∧
        (∀ v : VReg, v ≠ vd → t.barge[b].vregs[v] = s.barge[b].vregs[v]) ∧
        (∀ k : Fin 128, t.barge[b].vregs[vd][k] = if k.val ≤ lm1.val then f k.val else s.barge[b].vregs[vd][k])) ∧
    (∀ w : Word,
      ((∃ (va : VReg) (lane : Fin 128), i = .vbc b vd va lane ∧ w = s.barge[b].vregs[va][lane]) ∨
        (∃ ra : SReg, i = .vspl b vd ra ∧ w = s.barge[b].sregs[ra])) →
      ∃ t, exec i s = .next t ∧ t = { s with barge := t.barge, chr := t.chr } ∧ (∀ x : BargeId, x ≠ b → t.barge[x] = s.barge[x]) ∧
        goesOn s.barge[b] t.barge[b] ∧
        t.barge[b] = { s.barge[b] with vregs := put s.barge[b].vregs vd (Vector.replicate 128 w), pc := t.barge[b].pc, loops := t.barge[b].loops })

/-- From R60, R92, R112, R117, R118: issued vector instructions over tensors in reach (dense, whole, of a listed format). VLD gives lanes 0 to L − 1 the
converted elements; one whose elements lie in a memory region is held while they are read. VST puts the codes of its lanes into the row, in the
scratchpad or the share, and no other byte; into a read-write region it sends writes. VQST puts the codes and scales of its four blocks. VRED leaves
its root in lane 0 of a cleared register, or with DEPTH in its part slot; a part that the reduction has not leaves everything. -/
def Obligations.VectorTensors : Prop :=
  ∀ (s : State) (b : BargeId) (r : SvcId) (desc : DescId) (v : VReg) (o : SReg) (lm1 : Fin 128), svcOfBarge s.barge[b] = some r →
    let g := s.barge[b]
    let d := readDesc g desc
    let k := d.org0 + g.sregs[o].toNat
    let row := rowAddr d 0 0 0
    d.part = false → d.sp = false → d.space ≠ 3 → d.fmt ≤ 0xA →
    (∀ ws : List Word, issues s b (.vld b desc v o lm1) = true → inReach s b (.vld b desc v o lm1) = true →
      loadLanes s g d 0 0 0 k (lm1.val + 1) = some ws →
      ∃ t, exec (.vld b desc v o lm1) s = .next t ∧ t = { s with barge := t.barge, chr := t.chr } ∧ goesOn g t.barge[b] ∧
        t.barge[b] = { g with
          vregs := t.barge[b].vregs, pc := t.barge[b].pc, loops := t.barge[b].loops, operands := [], operandsIn := false } ∧
        (∀ x : BargeId, x ≠ b → t.barge[x] = s.barge[x]) ∧ (∀ x : VReg, x ≠ v → t.barge[b].vregs[x] = g.vregs[x]) ∧
        (∀ j : Fin 128, t.barge[b].vregs[v][j] = if j.val ≤ lm1.val then ws.getD j.val 0 else g.vregs[v][j])) ∧
    (issues s b (.vld b desc v o lm1) = true → d.space = 2 → g.operandsIn = false → g.moves = [] →
      (tensorsRead g (.vld b desc v o lm1)).all (rangeOk s g false) = true →
      ∃ t, exec (.vld b desc v o lm1) s = .next t ∧ t = { s with barge := t.barge, port := t.port } ∧
        t.barge[b] = { g with
          held := some (.operands g.nextMove (.vld b desc v o lm1)), nextMove := g.nextMove + 1, moves := t.barge[b].moves } ∧
        t.barge[b].moves.map Move.id = [g.nextMove] ∧ (∀ x : BargeId, x ≠ b → t.barge[x] = s.barge[x])) ∧
    (issues s b (.vst b desc v o lm1) = true → inReach s b (.vst b desc v o lm1) = true → d.bs = false →
      ∃ t, exec (.vst b desc v o lm1) s = .next t ∧ goesOn g t.barge[b] ∧ t.barge[b].vregs = g.vregs ∧ t.barge[b].sregs = g.sregs ∧
        (∀ x : BargeId, x ≠ b → t.barge[x] = s.barge[x]) ∧
        (d.space = 0 → t = { s with barge := t.barge, chr := t.chr } ∧
          fieldsAt (memBytes t.barge[b].spad) (fmtBits d.fmt) row k (lm1.val + 1) = (g.vregs[v].toList.take (lm1.val + 1)).map (storeCode d.fmt) ∧
          ∀ a : Nat, a < (rowSpan (fmtBits d.fmt) row k (lm1.val + 1)).1 ∨
            (rowSpan (fmtBits d.fmt) row k (lm1.val + 1)).1 + (rowSpan (fmtBits d.fmt) row k (lm1.val + 1)).2 ≤ a →
            memGet t.barge[b].spad a = memGet g.spad a) ∧
        (d.space = 1 → (unitsOf s r).Nodup → t = { s with barge := t.barge, basin := t.basin, chr := t.chr } ∧ t.barge[b].spad = g.spad ∧
          fieldsAt (shareGet t r) (fmtBits d.fmt) row k (lm1.val + 1) = (g.vregs[v].toList.take (lm1.val + 1)).map (storeCode d.fmt) ∧
          ∀ a : Nat, (∀ j : Nat, j < (rowSpan (fmtBits d.fmt) row k (lm1.val + 1)).2 →
              shareAddr (unitsOf s r) ((rowSpan (fmtBits d.fmt) row k (lm1.val + 1)).1 + j) ≠ a) →
            memGet t.basin.mem a = memGet s.basin.mem a) ∧
        (d.space = 2 → t = { s with barge := t.barge, port := t.port, freeCtr := t.freeCtr, chr := t.chr } ∧ t.barge[b].spad = g.spad ∧
          t.barge[b].moves.length = g.moves.length + 1)) ∧
    (issues s b (.vqst b desc v o) = true → inReach s b (.vqst b desc v o) = true → d.bs = true → g.sregs[o].toNat % 32 = 0 → d.org0 % 32 = 0 →
      ∃ t, exec (.vqst b desc v o) s = .next t ∧ t = { s with barge := t.barge, basin := t.basin, port := t.port, freeCtr := t.freeCtr, chr := t.chr } ∧
        goesOn g t.barge[b] ∧ t.barge[b].vregs = g.vregs ∧ t.barge[b].sregs = g.sregs ∧ (∀ x : BargeId, x ≠ b → t.barge[x] = s.barge[x]) ∧
        (d.space < 2 → (d.space = 1 → (unitsOf s r).Nodup) →
          apart (rowSpan (fmtBits d.fmt) row k 128) (d.scaleBase + rowIndex d 0 0 0 * (d.dim0 / 32) + k / 32, 4) = true →
          (d.space = 0 → t.basin = s.basin) ∧ (d.space = 1 → t.barge[b].spad = g.spad) ∧
          fieldsAt (spaceGet t t.barge[b] d.space d.region) (fmtBits d.fmt) row k 128 =
            (List.range 4).flatMap (fun i => (quantBlock d.fmt ((g.vregs[v].toList.drop (32 * i)).take 32)).2) ∧
          fieldsAt (spaceGet t t.barge[b] d.space d.region) 8 (d.scaleBase + rowIndex d 0 0 0 * (d.dim0 / 32)) (k / 32) 4 =
            (List.range 4).map (fun i => (quantBlock d.fmt ((g.vregs[v].toList.drop (32 * i)).take 32)).1)) ∧
        (d.space = 2 → t.barge[b].moves.length = g.moves.length + 2)) ∧
    (∀ (kind : RedKind) (n : SReg) (depth : Fin 8) (p : Fin 32) (pd : DescId), issues s b (.vred b desc v kind n depth p pd) = true →
      let e := readDesc g pd
      (depth ≠ 0 → resultOk e depth.val p.val = true ∧ e.sp = false ∧ e.space < 2 ∧ (e.space = 1 → (unitsOf s r).Nodup)) →
      (∀ (lo len : Nat) (ws : List Word), (parts depth.val 0 g.sregs[n].toNat)[if depth = 0 then 0 else p.val]? = some (lo, len) → 0 < len →
        inReach s b (.vred b desc v kind n depth p pd) = true → loadLanes s g d 0 0 0 (d.org0 + lo) len = some ws →
        ∃ t, exec (.vred b desc v kind n depth p pd) s = .next t ∧ t = { s with barge := t.barge, basin := t.basin, chr := t.chr } ∧ goesOn g t.barge[b] ∧
          t.barge[b].sregs = g.sregs ∧ (∀ x : BargeId, x ≠ b → t.barge[x] = s.barge[x]) ∧
          (depth = 0 → t.barge[b].vregs = put g.vregs v (tab 128 fun i => if i = 0 then redRoot kind ws else 0) ∧ t.barge[b].spad = g.spad ∧
            t.basin = s.basin) ∧
          (depth ≠ 0 → t.barge[b].vregs = g.vregs ∧ (e.space = 0 → t.basin = s.basin) ∧ (e.space = 1 → t.barge[b].spad = g.spad) ∧
            fieldsAt (spaceGet t t.barge[b] e.space e.region) 32 (rowAddr e 0 0 p.val) e.org0 1 = [(redRoot kind ws).toNat])) ∧
      ((parts depth.val 0 g.sregs[n].toNat)[if depth = 0 then 0 else p.val]? = none →
        ∃ t, exec (.vred b desc v kind n depth p pd) s = .next t ∧ onlyBarge s t b ∧ goesOn g t.barge[b] ∧
          t.barge[b] = { g with pc := t.barge[b].pc, loops := t.barge[b].loops }))

/-- From R63 to R69, R92, R115, R116, R118: issued matrix tiles, joins and selection, tensors in reach. MMA, its operands fit for it, writes the tree of
each output over its leaves, or over those of the part that its slot names, into the rows of the result tile, and no other byte; a part that the
reduction has not leaves everything; VJOIN writes every element's joined root from the slots of its source; VSEL gives the selected identifier to
its register. -/
def Obligations.TilesAndJoins : Prop :=
  ∀ (s : State) (b : BargeId),
    let g := s.barge[b]
    (∀ (dst srcA srcB : DescId) (mm1 nm1 : Fin 64) (kr : SReg) (depth : Fin 8) (part : Fin 32) (slot : Nat),
      let i : Instr := .mma b dst srcA srcB mm1 nm1 kr depth part
      let d := readDesc g dst
      let x := readDesc g srcA
      let y := readDesc g srcB
      let k := g.sregs[kr].toNat
      let narrow := isNarrow x.fmt
      issues s b i = true → matrixOk d x y depth.val part.val = true → slot = (if depth = 0 then 0 else part.val) →
      (∀ (lo len : Nat) (ta tb : List TileRow), (parts depth.val 0 (if narrow then (k + 31) / 32 else k))[slot]? = some (lo, len) → 0 < len → len ≤ 511 →
        inReach s b i = true → d.sp = false → 4 * (nm1.val + 1) ≤ d.stride1 →
        readTile s g x (mm1.val + 1) (if narrow then 32 * lo else lo) (if narrow then min (32 * (lo + len)) k else lo + len) = some ta →
        readTile s g y (nm1.val + 1) (if narrow then 32 * lo else lo) (if narrow then min (32 * (lo + len)) k else lo + len) = some tb →
        ∃ t, exec i s = .next t ∧ t = { s with barge := t.barge, chr := t.chr } ∧ (∀ z : BargeId, z ≠ b → t.barge[z] = s.barge[z]) ∧
          goesOn g t.barge[b] ∧ t.barge[b] = { g with
            spad := t.barge[b].spad, pc := t.barge[b].pc, loops := t.barge[b].loops, operands := [], operandsIn := false } ∧
          (∀ m : Nat, m ≤ mm1.val → fieldsAt (memBytes t.barge[b].spad) 32 (rowAddr d m 0 slot) d.org0 (nm1.val + 1) =
            ((tileRoots narrow len ta tb).getD m []).map BitVec.toNat) ∧
          (∀ a : Nat, (∀ m : Nat, m ≤ mm1.val → a < rowAddr d m 0 slot + 4 * d.org0 ∨ rowAddr d m 0 slot + 4 * (d.org0 + nm1.val + 1) ≤ a) →
            memGet t.barge[b].spad a = memGet g.spad a)) ∧
      ((parts depth.val 0 (if narrow then (k + 31) / 32 else k))[slot]? = none →
        ∃ t, exec i s = .next t ∧ onlyBarge s t b ∧ goesOn g t.barge[b] ∧
          t.barge[b] = { g with pc := t.barge[b].pc, loops := t.barge[b].loops })) ∧
    (∀ (r : SvcId) (dst src : DescId) (nr : SReg) (depth : Fin 8),
      let i : Instr := .vjoin b dst src nr depth
      let d := readDesc g dst
      let x := readDesc g src
      let n := g.sregs[nr].toNat
      issues s b i = true → inReach s b i = true → svcOfBarge g = some r → x.part = true → x.pdepth = depth.val → x.fmt = 0xA → d.part = false → d.fmt = 0xA →
      d.sp = false → x.space ≠ 3 → d.space < 2 → (d.space = 1 → (unitsOf s r).Nodup) → 0 < n → 0 < x.dim0 →
      (∀ i1 < x.dim1, ∀ i2 < x.dim2, (joinRow s g x depth.val n (parts depth.val 0 n).length i1 i2).isSome = true) →
      (∀ i1 < x.dim1, ∀ i2 < x.dim2, ∀ j1 < x.dim1, ∀ j2 < x.dim2, (i1, i2) ≠ (j1, j2) →
        apart (rowAddr d i1 i2 0, 4 * x.dim0) (rowAddr d j1 j2 0, 4 * x.dim0) = true) →
      ∃ t, exec i s = .next t ∧ t = { s with barge := t.barge, basin := t.basin, chr := t.chr } ∧ (d.space = 0 → t.basin = s.basin) ∧
        (∀ z : BargeId, z ≠ b → t.barge[z] = s.barge[z]) ∧ goesOn g t.barge[b] ∧ t.barge[b].vregs = g.vregs ∧ t.barge[b].sregs = g.sregs ∧
        (d.space = 1 → t.barge[b].spad = g.spad) ∧
        ∀ (i1 i2 : Nat) (ws : List Word), i1 < x.dim1 → i2 < x.dim2 → joinRow s g x depth.val n (parts depth.val 0 n).length i1 i2 = some ws →
          fieldsAt (spaceGet t t.barge[b] d.space d.region) 32 (rowAddr d i1 i2 0) d.org0 x.dim0 = ws.map BitVec.toNat) ∧
    (∀ (pd idd : DescId) (nr d : SReg) (va : VReg) (greedy : Bool) (ps is : List Nat) (id : Word),
      let i : Instr := .vsel b pd idd nr va d greedy
      let p := readDesc g pd
      let q := readDesc g idd
      let n := g.sregs[nr].toNat
      issues s b i = true → inReach s b i = true → p.fmt = 0xA → p.part = false → p.space ≠ 3 → q.fmt = 0xA → q.part = false → q.space ≠ 3 →
      0 < n → n ≤ p.dim0 → n ≤ q.dim0 →
      readCodes s g p (rowAddr p 0 0 0) p.org0 n = some ps → readCodes s g q (rowAddr q 0 0 0) q.org0 n = some is →
      selectToken (List.zipWith (fun x y => (BitVec.ofNat 32 x, BitVec.ofNat 32 y)) ps is) (g.vregs[va][(0 : Fin 128)]) greedy = some id →
      ∃ t, exec i s = .next t ∧ t = { s with barge := t.barge, chr := t.chr } ∧
        (∀ z : BargeId, z ≠ b → t.barge[z] = s.barge[z]) ∧ goesOn g t.barge[b] ∧ t.barge[b] = { g with
          sregs := t.barge[b].sregs, pc := t.barge[b].pc, loops := t.barge[b].loops, operands := [], operandsIn := false } ∧
        ∀ j : SReg, t.barge[b].sregs[j] = if j = d ∧ d ≠ 0 then id else g.sregs[j])

/-- From R21, R23, R24, R92, R95, R112, R113, R119, R140: issued moves of tensors in reach that agree, with the credit they name. Between scratchpad and
share, or from operands read before, MLD and MST copy every field of every plane of the tensor and write no other byte, then spend the credit and
add the token; byte rows from a memory region, and stores to one, become a move under way. Without the credit a move is held. MXFR copies into the
scratchpad of another logical barge that receives, nothing in flight; its token follows; to one that does not, the data wait in flight. MGTH copies
its patches into the scratchpad. -/
def Obligations.Moves : Prop :=
  ∀ (s : State) (b : BargeId) (r : SvcId) (dst src : DescId) (tv cv : Bool) (tch cch : Fin 16), svcOfBarge s.barge[b] = some r →
    let g := s.barge[b]
    let x := readDesc g src
    let d := readDesc g dst
    let planes := (rowsOf x).flatMap (rowPlanes x d)
    let tokens := if tv then upd g.tokens tch (· + 1) else g.tokens
    let credits := if cv then upd g.credits cch (· - 1) else g.credits
    (issues s b (.mld b dst src tv tch cv cch) = true → moveOk x d = true → d.space = 0 → (x.space = 1 ∨ x.space = 2) →
      (cv = true → g.credits[cch] = 0 →
        ∃ t, exec (.mld b dst src tv tch cv cch) s = .next t ∧ onlyBarge s t b ∧
          t.barge[b] = { g with held := some (.credit cch (.mld b dst src tv tch cv cch)) }) ∧
      ((cv = true → g.credits[cch] ≠ 0) → inReach s b (.mld b dst src tv tch cv cch) = true →
        ((x.space = 1 ∨ byteRows x d = false) → planes.Pairwise (fun y z => apart y.span z.span = true) → (tv = true → g.tokens[tch] < 4095) →
          ∃ t, exec (.mld b dst src tv tch cv cch) s = .next t ∧ t = { s with barge := t.barge, chr := t.chr } ∧
            (∀ z : BargeId, z ≠ b → t.barge[z] = s.barge[z]) ∧ goesOn g t.barge[b] ∧ t.barge[b].sregs = g.sregs ∧ t.barge[b].vregs = g.vregs ∧
            t.barge[b].tokens = tokens ∧ t.barge[b].credits = credits ∧
            (∀ y ∈ planes, fieldsAt (memBytes t.barge[b].spad) y.1 y.2.2.1.1 y.2.2.1.2 y.2.2.2 =
              fieldsAt (spaceGet s g x.space x.region) y.1 y.2.1.1 y.2.1.2 y.2.2.2) ∧
            (∀ a : Nat, (∀ y ∈ planes, a < y.span.1 ∨ y.span.1 + y.span.2 ≤ a) → memGet t.barge[b].spad a = memGet g.spad a)) ∧
        (∀ rg : Region, x.space = 2 → byteRows x d = true → regionOf s r x.region = some rg → tensorPieces x d ≠ [] →
          (∀ p ∈ tensorPieces x d, p.1 + p.2.1 ≤ rg.size) →
          ∃ t, exec (.mld b dst src tv tch cv cch) s = .next t ∧ t = { s with barge := t.barge, port := t.port } ∧
            (∀ z : BargeId, z ≠ b → t.barge[z] = s.barge[z]) ∧ goesOn g t.barge[b] ∧ t.barge[b].credits = credits ∧ t.barge[b].spad = g.spad ∧
            t.barge[b].tokens = g.tokens ∧ t.barge[b].moves = g.moves ++ [{
              id := g.nextMove, left := (moveReads b g.nextMove x.region rg (tensorPieces x d)).length
              writes := (tensorPieces x d).map (fun p => (p.2.2, p.2.1)), tok := if tv then some tch else none }]))) ∧
    (issues s b (.mst b dst src tv tch cv cch) = true → moveOk x d = true → x.space = 0 → (cv = true → g.credits[cch] ≠ 0) →
      inReach s b (.mst b dst src tv tch cv cch) = true →
      (d.space = 1 → (unitsOf s r).Nodup → planes.Pairwise (fun y z => apart y.span z.span = true) → (tv = true → g.tokens[tch] < 4095) →
        ∃ t, exec (.mst b dst src tv tch cv cch) s = .next t ∧ t = { s with barge := t.barge, basin := t.basin, chr := t.chr } ∧
          (∀ z : BargeId, z ≠ b → t.barge[z] = s.barge[z]) ∧ goesOn g t.barge[b] ∧ t.barge[b].spad = g.spad ∧
          t.barge[b].tokens = tokens ∧ t.barge[b].credits = credits ∧ t.basin.units = s.basin.units ∧
          (∀ y ∈ planes, fieldsAt (shareGet t r) y.1 y.2.2.1.1 y.2.2.1.2 y.2.2.2 = fieldsAt (memBytes g.spad) y.1 y.2.1.1 y.2.1.2 y.2.2.2) ∧
          (∀ a : Nat, (∀ y ∈ planes, ∀ i : Nat, i < y.span.2 → shareAddr (unitsOf s r) (y.span.1 + i) ≠ a) →
            memGet t.basin.mem a = memGet s.basin.mem a)) ∧
      (d.space = 2 → planes ≠ [] → 0 < x.dim0 →
        ∃ t m, exec (.mst b dst src tv tch cv cch) s = .next t ∧ t = { s with barge := t.barge, port := t.port, freeCtr := t.freeCtr, chr := t.chr } ∧
          (∀ z : BargeId, z ≠ b → t.barge[z] = s.barge[z]) ∧ goesOn g t.barge[b] ∧ t.barge[b].moves = g.moves ++ [m] ∧ m.id = g.nextMove ∧
          m.tok = (if tv then some tch else none) ∧ m.writes = [] ∧ t.barge[b].spad = g.spad ∧ t.barge[b].credits = credits)) ∧
    (∀ (lb : Fin 32) (dest : BargeId) (e : Desc), issues s b (.mxfr b dst src lb tv tch cv cch) = true → target s b lb.val = some dest → x.space = 0 →
      (cv = true → g.credits[cch] ≠ 0) → inReach s b (.mxfr b dst src lb tv tch cv cch) = true →
      e = readDesc s.barge[dest] dst →
      let ps := (rowsOf x).flatMap (rowPlanes x e)
      e.space = 0 → moveOk x e = true → (tensorRanges e x).all (rangeOk s s.barge[dest] true) = true → s.barge[dest].weak = [] → s.barge[dest].bad = [] →
      (receives s dest = true → s.flight = [] → ps.Pairwise (fun y z => apart y.span z.span = true) →
        ∃ t, exec (.mxfr b dst src lb tv tch cv cch) s = .next t ∧ t = { s with barge := t.barge, chr := t.chr, flight := t.flight } ∧
          t.flight = (if tv then [.token b dest tch 1] else []) ∧ goesOn g t.barge[b] ∧ t.barge[b].credits = credits ∧
          (∀ z : BargeId, z ≠ b → z ≠ dest → t.barge[z] = s.barge[z]) ∧
          (dest ≠ b → t.barge[b].spad = g.spad ∧ t.barge[dest] = { s.barge[dest] with spad := t.barge[dest].spad }) ∧
          (∀ y ∈ ps, fieldsAt (memBytes t.barge[dest].spad) y.1 y.2.2.1.1 y.2.2.1.2 y.2.2.2 = fieldsAt (memBytes g.spad) y.1 y.2.1.1 y.2.1.2 y.2.2.2) ∧
          (∀ a : Nat, (∀ y ∈ ps, a < y.span.1 ∨ y.span.1 + y.span.2 ≤ a) → memGet t.barge[dest].spad a = memGet s.barge[dest].spad a)) ∧
      (receives s dest = false →
        ∃ t cs, exec (.mxfr b dst src lb tv tch cv cch) s = .next t ∧ t = { s with barge := t.barge, chr := t.chr, flight := t.flight } ∧
          t.flight = s.flight ++ .fill (some b) dest cs none false :: (if tv then [.token b dest tch 1] else []) ∧
          goesOn g t.barge[b] ∧ (∀ z : BargeId, z ≠ b → t.barge[z] = s.barge[z]))) ∧
    (∀ p16 : Bool, issues s b (.mgth b dst src p16 tv tch) = true → inReach s b (.mgth b dst src p16 tv tch) = true → d.space = 0 → movesAgree x d = true →
      x.fmt = 1 → x.bs = false → x.sp = false →
      let ps := patchPieces x d (if p16 then 16 else 14)
      (x.space < 2 → (tv = true → g.tokens[tch] < 4095) → ps.Pairwise (fun p q => apart (p.2.2, p.2.1) (q.2.2, q.2.1) = true) →
        ∃ t, exec (.mgth b dst src p16 tv tch) s = .next t ∧ t = { s with barge := t.barge, chr := t.chr } ∧ goesOn g t.barge[b] ∧
          (∀ z : BargeId, z ≠ b → t.barge[z] = s.barge[z]) ∧ t.barge[b].tokens = tokens ∧
          (∀ p ∈ ps, memBytes t.barge[b].spad p.2.2 p.2.1 = spaceGet s g x.space x.region p.1 p.2.1) ∧
          (∀ a : Nat, (∀ p ∈ ps, a < p.2.2 ∨ p.2.2 + p.2.1 ≤ a) → memGet t.barge[b].spad a = memGet g.spad a)) ∧
      (∀ rg : Region, x.space = 2 → regionOf s r x.region = some rg → ps ≠ [] → (∀ p ∈ ps, p.1 + p.2.1 ≤ rg.size) →
        ∃ t, exec (.mgth b dst src p16 tv tch) s = .next t ∧ t = { s with barge := t.barge, port := t.port } ∧ goesOn g t.barge[b] ∧
          (∀ z : BargeId, z ≠ b → t.barge[z] = s.barge[z]) ∧ t.barge[b].spad = g.spad ∧ t.barge[b].moves = g.moves ++ [{
            id := g.nextMove, left := (moveReads b g.nextMove x.region rg ps).length
            writes := ps.map (fun p => (p.2.2, p.2.1)), tok := if tv then some tch else none }]))

/-! ### Barges, Dredges, loads -/

/-- From R81, R95, R96, R100, R101, R106, R237: a fault (BARGE_FAULT but by a slice; BARGE_WATCHDOG of a step on a clocked barge), under no slice and
with no pick or KEEP waiting. Always: role FAILED, epoch 0, cause and count kept, one alert. SPARE or UNDER_TEST: no other barge, reach or keeper
changes. ACTIVE with no step in flight or ending, its reach not dredging nor initialising, nothing owed, no migration: the longest SPARE barge takes
its index and epoch, its run owed if a package is loaded, no other barge changed (live count as scheduled, powered); with none, higher indices drop
by one. Step in flight, SEALED, a SPARE left: the step's requests end, the list as long as before. Twilight's only live barge: the model is off.
From R90, R99, R397, R398: a migration that Collimator asked for and `canMigrate` allows. It takes the longest SPARE barge (the block powered, the
reach not dozing): place and epoch copied, MIGRATING in both; with no SPARE it is postponed, first in line; a dozing reach's barge is tested in
place. It completes, no entry of the source in a crossing, with all of the scratchpad, the counters, limits and sequencer state copied, the source
under test with epoch 0 (no word of the source erroneous); a program the source owes is owed by the destination; an uncorrectable word fails it. -/
def Obligations.BargeFaultsAndMigration : Prop :=
  (∀ (s : State) (b : BargeId) (c : BargeCause) (i : Instr),
      (i = .bargeFault b c ∧ c ≠ .sliceSignature ∨ i = .bargeWatchdog b ∧ c = .watchdog ∧ s.barge[b].run = .step ∧ bargeRuns s b = true) →
      s.col.deferred = false → s.slu.keepPending = false → s.col.barge ≠ some b →
      ((s.barge[b].role = .spare ∨ s.barge[b].role = .underTest) →
        ∃ t, exec i s = .next t ∧ t.barge[b].role = .failed ∧ t.barge[b].epoch = 0 ∧ t.barge[b].reach = 0xF ∧ t.barge[b].faultCause = causeCode c ∧
          t.barge[b].faultCount = satInc 8 s.barge[b].faultCount ∧ t.alerts.nextSeq = s.alerts.nextSeq + 1 ∧
          t.alerts.records.getLast?.map (fun a => (a.status, a.unit, a.index, a.cause)) = some (Code.bargeFault, AlertUnit.barge, b.val, causeCode c) ∧
          (∀ x : BargeId, x ≠ b → t.barge[x] = s.barge[x]) ∧ t.keeper = s.keeper ∧ t.reach = s.reach ∧ t.basin = s.basin) ∧
      (∀ (n : ReachId) (d : BargeId), s.barge[b].role = .active → s.barge[b].reach = n.val → s.barge[b].migrating = false → s.barge[b].migDest = false →
        s.reach[n].dredge = .none → s.reach[n].initPending = false → s.reach[n].restage = false → stepRunning s (svcOf n) = false →
        stepEnding s (svcOf n) = false → s.keeper[svcOf n].lost = [] → liveCount s (svcOf n) = s.keeper[svcOf n].liveSched →
        chooseSpare s = some d → s.slu.state ≠ .keep → s.slu.state ≠ .off → s.slu.reach[n].dozing = false →
        ∃ t, exec i s = .next t ∧ t.barge[b].role = .failed ∧ t.barge[b].epoch = 0 ∧ t.barge[b].faultCause = causeCode c ∧
          t.barge[b].faultCount = satInc 8 s.barge[b].faultCount ∧ t.alerts.nextSeq = s.alerts.nextSeq + 1 ∧
          t.barge[d].role = .active ∧ t.barge[d].reach = n.val ∧ t.barge[d].logical = s.barge[b].logical ∧ t.barge[d].epoch = s.reach[n].epoch ∧
          (s.reach[n].pkg.isSome = true → d ∈ t.keeper[svcOf n].resuming) ∧
          (∀ x : BargeId, x ≠ b → x ≠ d → t.barge[x] = s.barge[x]) ∧ t.reach = s.reach) ∧
      (∀ n : ReachId, s.barge[b].role = .active → s.barge[b].reach = n.val → s.barge[b].migrating = false →
        s.reach[n].dredge = .none → s.reach[n].initPending = false → stepRunning s (svcOf n) = false →
        stepEnding s (svcOf n) = false → s.keeper[svcOf n].lost = [] → chooseSpare s = none →
        ∃ t, exec i s = .next t ∧ t.barge[b].role = .failed ∧ t.barge[b].epoch = 0 ∧ t.barge[b].faultCause = causeCode c ∧
          t.alerts.nextSeq = s.alerts.nextSeq + 1 ∧
          ∀ x : BargeId, x ≠ b → s.barge[x].role = .active → t.barge[x].logical = if s.barge[x].reach = n.val ∧ s.barge[b].logical < s.barge[x].logical then
            s.barge[x].logical - 1 else s.barge[x].logical) ∧
      (∀ (n : ReachId) (k : LockCycle) (d : BargeId), s.barge[b].role = .active → s.barge[b].reach = n.val → s.barge[b].migrating = false →
        s.reach[n].state = .sealed → s.reach[n].initPending = false → s.keeper[svcOf n].form = some k → k.started = true → s.keeper[svcOf n].lost = [] →
        chooseSpare s = some d →
        ∃ t, exec i s = .next t ∧ t.barge[b].role = .failed ∧ t.barge[b].epoch = 0 ∧ t.barge[b].faultCause = causeCode c ∧
          t.alerts.nextSeq = s.alerts.nextSeq + 1 ∧ t.keeper[svcOf n].form = none ∧ t.keeper[svcOf n].reqs.length = s.keeper[svcOf n].reqs.length ∧
          ∀ q ∈ t.keeper[svcOf n].reqs, (k.entries.any fun e => e.ctx == q.ctx) = true → q.state = .ended) ∧
      (s.barge[b].role = .twilight → liveBarges s twilightSvc = [b] →
        ∃ t, exec i s = .next t ∧ t.barge[b].role = .failed ∧ t.barge[b].epoch = 0 ∧ t.barge[b].faultCause = causeCode c ∧
          t.alerts.nextSeq = s.alerts.nextSeq + 1 ∧ t.mer.twilightModel = false)) ∧
  (∀ (s : State) (b : BargeId),
      (∀ d : BargeId, canMigrate s b = true → ownerDozes s b = false → chooseSpare s = some d → s.slu.state ≠ .keep → s.slu.state ≠ .off →
        ∃ t, exec (.migrationStart b) s = .next t ∧ t.barge[d].role = .active ∧ t.barge[d].reach = s.barge[b].reach ∧
          t.barge[d].logical = s.barge[b].logical ∧ t.barge[d].epoch = s.barge[b].epoch ∧ t.barge[d].migrating = true ∧ t.barge[d].migDest = true ∧
          t.barge[b].migrating = true ∧ t.barge[b].partner = some d ∧ t.barge[b].spad = s.barge[b].spad ∧ t.barge[b].epoch = s.barge[b].epoch ∧
          (∀ x : BargeId, x ≠ b → x ≠ d → t.barge[x] = s.barge[x]) ∧ t.keeper = s.keeper ∧ t.basin = s.basin ∧ t.flight = s.flight) ∧
      (canMigrate s b = true → ownerDozes s b = false → chooseSpare s = none →
        exec (.migrationStart b) s = .next { s with col := { s.col with asked := none, first := some b, skipped := satInc 8 s.col.skipped } }) ∧
      (canMigrate s b = true → ownerDozes s b = true → s.slu.state ≠ .keep → s.slu.state ≠ .off →
        ∃ t, exec (.migrationStart b) s = .next t ∧ t.col.barge = some b ∧ t.col.slice = 0 ∧ t.col.inReach = true ∧ t.col.asked = none ∧
          t.barge[b].role = .active ∧ t.barge[b].spad = [] ∧ t.barge[b].epoch = 0 ∧ t.barge[b].logical = s.barge[b].logical ∧
          (∀ x : BargeId, x ≠ b → t.barge[x] = s.barge[x]) ∧ t.keeper = s.keeper ∧ t.basin = s.basin) ∧
      (∀ d : BargeId, s.barge[b].partner = some d → s.barge[b].migrating = true → s.barge[b].migDest = false → s.barge[d].migDest = true →
        (s.flight.any (Msg.touches b)) = false →
        (s.barge[b].weak = [] → s.barge[b].bad = [] → (∀ r : SvcId, s.barge[b].reach = r.val → b ∉ s.keeper[r].resuming) →
          ∃ t, exec (.migrationComplete b) s = .next t ∧ t.barge[d].spad = s.barge[b].spad ∧ t.barge[d].tokens = s.barge[b].tokens ∧
            t.barge[d].credits = s.barge[b].credits ∧ t.barge[d].limits = s.barge[b].limits ∧ t.barge[d].sregs = s.barge[b].sregs ∧
            t.barge[d].loops = s.barge[b].loops ∧ t.barge[d].pc = s.barge[b].pc ∧ t.barge[d].migrating = false ∧ t.barge[d].migDest = false ∧
            t.barge[d].logical = s.barge[d].logical ∧ t.barge[d].epoch = s.barge[d].epoch ∧ t.barge[b].role = .underTest ∧ t.barge[b].epoch = 0 ∧
            t.barge[b].reach = 0xF ∧ t.barge[b].spad = [] ∧ t.col.barge = some b ∧ t.col.slice = 0 ∧ t.keeper = s.keeper ∧ t.basin = s.basin ∧
            (∀ x : BargeId, x ≠ b → x ≠ d → t.barge[x] = s.barge[x])) ∧
        (∀ n : ReachId, s.barge[b].weak = [] → s.barge[b].bad = [] → s.barge[b].reach = n.val → b ∈ s.keeper[svcOf n].resuming →
          s.reach[n].pkg.isSome = true → s.slu.reach[n].dozing = false →
          ∃ t, exec (.migrationComplete b) s = .next t ∧ t.barge[b].role = .underTest ∧ t.barge[d].logical = s.barge[d].logical ∧
            d ∈ t.keeper[svcOf n].resuming ∧ b ∉ t.keeper[svcOf n].resuming) ∧
        (hits s.barge[b].bad 0 spadBytes ≠ [] → s.barge[b].role = .active → s.barge[b].reach < 8 → s.col.deferred = false →
          ∃ t, exec (.migrationComplete b) s = .next t ∧ t.barge[b].role = .failed ∧ t.barge[b].faultCause = causeCode .scratchEcc ∧
            t.barge[d].migrating = false ∧ t.barge[d].logical = s.barge[d].logical ∧ t.alerts.nextSeq = s.alerts.nextSeq + 1)))

/-- From R104, R105, R136, R161, R168, R171, R173, with nothing else waiting (no entry in a crossing, pick, KEEP, barge owed; Meridian not halted). A
barge: scratchpad, registers, counters zero, limits 4,095, its place kept (to stay: epoch 0; to go on: its service's epoch) or SPARE when no reach
lacks one; other barges and the Basin as before. A reach's share: its units zero and no other byte, epoch 0; of a restaging, its epoch and INIT owed
by each live barge. A reach dredged whole: EMPTY, no epoch, request, ring, barge or key. After a failed load or for OPEN: LOADING keeps its state,
OPEN enters it, with a new epoch in its barges and units. A unit that lost its epoch: that alone when its reach is not in use; a SEALED reach
restages, its requests ended. -/
def Obligations.Dredges : Prop :=
  (∀ (s : State) (b : BargeId), s.barge[b].dredging = true → s.col.barge ≠ some b → s.col.deferred = false → s.flight = [] →
    (∀ n : ReachId, s.keeper[svcOf n].lost = []) →
    ((s.barge[b].afterDredge = .stay ∨ s.barge[b].afterDredge = .resume) →
      ∃ t, exec (.bargeDredgeComplete b) s = .next t ∧ t.barge[b].dredging = false ∧ t.barge[b].spad = [] ∧ t.barge[b].role = s.barge[b].role ∧
        t.barge[b].tokens = Vector.replicate 16 0 ∧ t.barge[b].credits = Vector.replicate 16 0 ∧ t.barge[b].limits = Vector.replicate 16 4095 ∧
        t.barge[b].vregs = Vector.replicate 16 (Vector.replicate 128 0) ∧
        t.barge[b].reach = s.barge[b].reach ∧ t.barge[b].logical = s.barge[b].logical ∧
        (s.barge[b].afterDredge = .stay → t.barge[b].epoch = 0 ∧ t.barge[b].run = .idle) ∧
        (∀ r : SvcId, s.barge[b].afterDredge = .resume → svcOfBarge s.barge[b] = some r → t.barge[b].epoch = epochOf s r) ∧
        (∀ x : BargeId, x ≠ b → t.barge[x] = s.barge[x]) ∧ t.basin = s.basin) ∧
    (s.barge[b].afterDredge = .spare → s.barge[b].role = .underTest →
      (∀ n : ReachId, keepsBarges s.reach[n] = true → s.reach[n].dredge = .none → 4 * s.reach[n].flights ≤ liveCount s (svcOf n)) →
      ∃ t, exec (.bargeDredgeComplete b) s = .next t ∧ t.barge[b].role = .spare ∧ t.barge[b].dredging = false ∧ t.barge[b].spad = [] ∧
        t.barge[b].epoch = 0 ∧ t.barge[b].reach = 0xF ∧ (∀ x : BargeId, x ≠ b → t.barge[x] = s.barge[x]) ∧ t.basin = s.basin)) ∧
  (∀ (s : State) (n : ReachId), s.reach[n].dredge ≠ .none → (∀ u ∈ s.reach[n].units, u < 8) →
    ∃ t, exec (.basinDredgeComplete (svcOf n)) s = .next t ∧ t = { s with basin := t.basin, port := t.port, chr := t.chr, iso := t.iso } ∧
      (∀ u ∈ s.reach[n].units, ∀ a : Nat, u * unitBytes ≤ a → a < (u + 1) * unitBytes → memGet t.basin.mem a = 0) ∧
      (∀ a : Nat, a / unitBytes ∉ s.reach[n].units → memGet t.basin.mem a = memGet s.basin.mem a) ∧
      (∀ u : Fin 8, u.val ∈ s.reach[n].units → t.basin.units[u].epoch = 0 ∧ t.basin.units[u].owner = s.basin.units[u].owner)) ∧
  (∀ (s : State) (n : ReachId), s.reach[n].dredge = .none → s.reach[n].restage = true →
    ∃ t, exec (.basinDredgeComplete (svcOf n)) s = .next t ∧ t.keeper[svcOf n].resuming = liveBarges s (svcOf n) ∧
      (∀ u : Fin 8, u.val ∈ s.reach[n].units → t.basin.units[u].epoch = s.reach[n].epoch) ∧
      (∀ u ∈ s.reach[n].units, ∀ a : Nat, u < 8 → u * unitBytes ≤ a → a < (u + 1) * unitBytes → memGet t.basin.mem a = 0)) ∧
  (∀ (s : State) (n : ReachId), s.mer.halted = false → s.col.deferred = false → s.slu.keepPending = false → s.flight = [] →
    ((s.reach[n].dredge = .full ∨ s.reach[n].dredge = .tamper) →
      ∃ t, exec (.reachDredgeComplete n) s = .next t ∧ t.reach[n].state = .empty ∧ t.reach[n].epoch = 0 ∧ t.reach[n].dredge = .none ∧
        t.reach[n].loadGen = s.reach[n].loadGen ∧ t.keeper[svcOf n].reqs = [] ∧ t.ring[svcOf n] = {} ∧
        (∀ b : BargeId, t.barge[b].role = .active → t.barge[b].reach ≠ n.val) ∧
        (∀ i : SlotId, s.reach[n].keyFirst ≤ i.val → i.val < s.reach[n].keyFirst + s.reach[n].keyCount → t.eph.slots[i] = {})) ∧
    (s.keeper[svcOf n].lost = [] → s.slu.state ≠ .keep → s.slu.state ≠ .off → s.slu.reach[n].dozing = false →
      (s.reach[n].dredge = .failedLoad ∨ s.reach[n].dredge = .forOpen) →
      ∃ t, exec (.reachDredgeComplete n) s = .next t ∧ t.reach[n].dredge = .none ∧ t.reach[n].epoch = s.epochCtr ∧
        t.keeper[svcOf n].core = .running ∧
        (s.reach[n].dredge = .failedLoad → t.reach[n].state = s.reach[n].state ∧ t.reach[n].loadRec = none) ∧
        (s.reach[n].dredge = .forOpen → t.reach[n].state = .loading ∧ t.reach[n].opened = true) ∧
        (∀ b : BargeId, t.barge[b].role = .active → t.barge[b].reach = n.val → t.barge[b].epoch = s.epochCtr) ∧
        (∀ u : Fin 8, u.val ∈ s.reach[n].units → t.basin.units[u].epoch = s.epochCtr))) ∧
  (∀ (s : State) (u : Fin 8) (n : ReachId), s.basin.units[u].owner = n.val →
    (s.reach[n].state ≠ .sealed → s.reach[n].state ≠ .draining →
      exec (.basinUnitEpochLost u) s = .next { s with basin := { s.basin with
        units := upd s.basin.units u fun x => { x with epoch := 0, cleared := false } } }) ∧
    (s.reach[n].state = .sealed → s.reach[n].dredge = .none →
      ∃ t, exec (.basinUnitEpochLost u) s = .next t ∧ t.basin.units[u].epoch = 0 ∧ t.reach[n].restage = true ∧
        (∀ q ∈ t.keeper[svcOf n].reqs, q.state = .ended)))

/-- From R155 to R158, R203: a chunk of a load, all its bytes there, no other load queued. A header not of its stream fails the load with
BAD_DESCRIPTOR; a package key that is not usable with its own status; a failed authentication with PACKAGE_AUTH_FAIL and an alert; a released prefix
that breaks a package rule with BAD_DESCRIPTOR; and the reach is partially Dredged. One that passes is released: after the last the reach has its
package, and the digest once no write is owed; after another the next chunk is fetched, or the load fails when none can be there. -/
def Obligations.LoadChunks : Prop :=
  ∀ (s : State) (j : LoadJob), s.loader.job = some j → j.fetchLeft = 0 → j.fetchLen ≠ 0 → j.complete = false → s.loader.queue = [] →
    let d := memBytes j.staged 0 j.fetchLen
    (chunkForm j (d.take 32) = none →
      ∃ t, exec .loadChunk s = .next t ∧ t.loader.state = .failed ∧ t.loader.status = Code.badDescriptor ∧ t.loader.job = none ∧
        t.reach[j.reach].dredge = .failedLoad ∧ t.reach[j.reach].loadRec = some (j.tag, j.sq, Code.badDescriptor)) ∧
    (∀ (n : Nat) (last : Bool) (k : Nat), chunkForm j (d.take 32) = some (n, last) →
      judgeUse s.eph.slots[keySlot s j.reach 3] .loadGcm j.reach.val = k → k ≠ Code.done →
      ∃ t, exec .loadChunk s = .next t ∧ t.loader.state = .failed ∧ t.loader.status = k ∧ t.loader.job = none ∧
        t.reach[j.reach].dredge = .failedLoad ∧ t.reach[j.reach].loadRec = some (j.tag, j.sq, k)) ∧
    (∀ (n : Nat) (last : Bool), chunkForm j (d.take 32) = some (n, last) →
      judgeUse s.eph.slots[keySlot s j.reach 3] .loadGcm j.reach.val = Code.done →
      (match gcmOpen (slotKey s (keySlot s j.reach 3)) (s.reach[j.reach].nonce ++ beBytes 4 j.chunk) (d.take 32) (slice d 32 n) (slice d (32 + n) 16) with
        | none => ∃ t, exec .loadChunk s = .next t ∧ t.loader.state = .failed ∧ t.loader.status = Code.packageAuthFail ∧ t.loader.job = none ∧
            t.alerts.records.getLast?.map (·.status) = some Code.packageAuthFail ∧
            t.reach[j.reach].dredge = .failedLoad ∧ t.reach[j.reach].loadRec = some (j.tag, j.sq, Code.packageAuthFail)
        | some m =>
          if loadCheck (reachCtx s j.reach) (j.image ++ m) last = false then
            ∃ t, exec .loadChunk s = .next t ∧ t.loader.state = .failed ∧ t.loader.status = Code.badDescriptor ∧ t.loader.job = none ∧
              t.reach[j.reach].dredge = .failedLoad ∧ t.reach[j.reach].loadRec = some (j.tag, j.sq, Code.badDescriptor)
          else if last = true then
            ∃ t, exec .loadChunk s = .next t ∧ t.reach[j.reach].pkg = some (packageOf (j.image ++ m) s.reach[j.reach].memBase) ∧
              (match t.loader.job with
                | some k => k.complete = true ∧ k.image = j.image ++ m ∧ 0 < k.writesLeft ∧ t.reach[j.reach].packageDigest = s.reach[j.reach].packageDigest
                | none => t.loader.state = .done ∧ t.reach[j.reach].packageDigest = sha384 (j.image ++ m))
          else if 49 + 65584 * (j.chunk + 1) ≤ j.imageBytes then
            ∃ t k, exec .loadChunk s = .next t ∧ t.loader.job = some k ∧ k.image = j.image ++ m ∧ k.chunk = j.chunk + 1 ∧ k.staged = [] ∧
              k.reach = j.reach ∧ t.loader.chunkIndex = j.chunk + 1 ∧ t.reach = s.reach ∧ t.keeper = s.keeper
          else ∃ t, exec .loadChunk s = .next t ∧ t.loader.state = .failed ∧ t.loader.status = Code.badDescriptor ∧ t.loader.job = none))

/-! ### Attestation -/

/-- From R272, R288 to R290, R293, R295: SPDM requests outside sessions, answered with MCTP type 0x05 over the binding in use. Version, capabilities and
algorithms, in FULL under no condition of R295 and in every other phase: 1.1 to 1.3; CTExponent 15 (the bits of the flags after it are the model's,
log entry 108) and the endpoint's version; agreement when each algorithm is the one offered. In service: the digest of chain 0; a portion of it, or
the length of a response over 4,096 bytes that CHUNK_GET then serves; another slot or offset is InvalidRequest. A challenge and a measurement (1 to
10, all, their number) with program and key 4 there and Astrolabe free: the digest or the values, 32 random bytes and a signature, UnexpectedRequest
when an invariant failed; while Astrolabe is taken ResponseNotReady with a token, which RESPOND_IF_READY redeems. Chunks from 1.2. -/
def Obligations.SpdmRequests : Prop :=
  ∀ (s : State) (ep : Nat), servesMgmt s = true →
    let v : Mctp := { binding := s.params.mgmtBinding, type := 5 }
    ((s.mer.phase = .full → spdmRefusal s = none) →
      (∃ t, exec (.getVersion ep) s = .next t ∧
        t = { s with out := t.out, chr := t.chr, slu := t.slu, spdm := { s.spdm with msgType := 5 } } ∧ t.out.head? = some (.spdm v .ok [0x11, 0x12, 0x13])) ∧
      (∀ n : Nat, 0x11 ≤ n → n ≤ 0x13 →
        ∃ t, exec (.getCapabilities ep n) s = .next t ∧ t.out.head? = some (.spdm v .ok (15 :: leBytes 4 (capabilityFlags n))) ∧
          t.spdm.versions = (ep, n) :: s.spdm.versions.filter (fun x => x.1 != ep)) ∧
      (∀ n : Nat, (n < 0x11 ∨ 0x13 < n) →
        ∃ t, exec (.getCapabilities ep n) s = .next t ∧ t.out.head? = some (.spdm v .invalidRequest []) ∧ t.spdm.versions = s.spdm.versions) ∧
      (∀ a : AlgSel, ∃ t, exec (.negotiateAlgorithms ep a) s = .next t ∧
        (if a = { asym := true, hash := true, dhe := true, aead := true, keySchedule := true } then t.out.head? = some (.spdm v .ok [])
          else t.out.head? = some (.spdm v .invalidRequest [])))) ∧
    (spdmRefusal s = none →
      (∃ t, exec (.getDigests ep) s = .next t ∧
        t = { s with out := t.out, chr := t.chr, slu := t.slu, spdm := { s.spdm with msgType := 5 } } ∧
        t.out.head? = some (.spdm v .ok (sha384 (spdmChain s)))) ∧
      (∀ (off n : Nat) (d r : Bytes), off < (spdmChain s).length → d = ((spdmChain s).drop off).take n →
        r = leBytes 2 d.length ++ leBytes 2 ((spdmChain s).length - off - d.length) ++ d →
        ∃ t, exec (.getCertificate ep 0 off n) s = .next t ∧
          (if r.length ≤ 4096 then t.out.head? = some (.spdm v .ok r) ∧ t.spdm.large = s.spdm.large
            else t.out.head? = some (.spdm v .ok (leBytes 4 r.length)) ∧ t.spdm.large = (ep, r) :: s.spdm.large.filter (fun x => x.1 != ep))) ∧
      (∀ slot off n : Nat, (slot ≠ 0 ∨ (spdmChain s).length ≤ off) →
        ∃ t, exec (.getCertificate ep slot off n) s = .next t ∧ t.out.head? = some (.spdm v .invalidRequest [])) ∧
      (∀ nonce : Vector Byte 32, astHeld 0xE s = false → s.ast.progLoaded = true → judgeUse s.eph.slots[(4 : SlotId)] .astrolabe 0xE = Code.done →
        ∃ t, exec (.challenge ep 0 nonce) s = .next t ∧
          (if t.ast.job.isSome = true then t.out.head? = some (.spdm v .unexpectedRequest [])
            else ∃ rnd sig : Bytes, rnd.length = 32 ∧ t.out.head? = some (.spdm v .ok (sha384 (spdmChain s) ++ rnd ++ sig)))) ∧
      (∀ (nonce : Vector Byte 32) (k : Nat) (b : Bytes), measurementBlock s k = some b → astHeld 0xE s = false → s.ast.progLoaded = true →
        judgeUse s.eph.slots[(4 : SlotId)] .astrolabe 0xE = Code.done →
        ∃ t, exec (.getMeasurements ep k nonce) s = .next t ∧
          (if t.ast.job.isSome = true then t.out.head? = some (.spdm v .unexpectedRequest [])
            else ∃ rnd sig : Bytes, rnd.length = 32 ∧ t.out.head? = some (.spdm v .ok (b ++ rnd ++ sig)))) ∧
      (∀ (nonce : Vector Byte 32) (k : Nat), 10 < k → k ≠ 0xFF →
        ∃ t, exec (.getMeasurements ep k nonce) s = .next t ∧ t.out.head? = some (.spdm v .invalidRequest [])) ∧
      (∀ nonce : Vector Byte 32, astHeld 0xE s = true →
        ∃ t, exec (.challenge ep 0 nonce) s = .next t ∧ t.out.head? = some (.spdm v .responseNotReady [15, BitVec.ofNat 8 s.spdm.nextToken]) ∧
          t.spdm.deferred = s.spdm.deferred ++ [(ep, s.spdm.nextToken, .challenge ep 0 nonce)] ∧ t.ast = s.ast ∧ t.eph = s.eph) ∧
      (∀ (tok : Nat) (nonce : Vector Byte 32) (l : List (Nat × Nat × Instr)), s.spdm.deferred = (ep, tok, .challenge ep 0 nonce) :: l →
        (∀ d ∈ l, ¬(d.1 = ep ∧ d.2.1 = tok)) → astHeld 0xE s = false → s.ast.progLoaded = true →
        judgeUse s.eph.slots[(4 : SlotId)] .astrolabe 0xE = Code.done →
        ∃ t, exec (.respondIfReady ep tok) s = .next t ∧ t.spdm.deferred = l ∧
          (if t.ast.job.isSome = true then t.out.head? = some (.spdm v .unexpectedRequest [])
            else ∃ rnd sig : Bytes, rnd.length = 32 ∧ t.out.head? = some (.spdm v .ok (sha384 (spdmChain s) ++ rnd ++ sig)))) ∧
      (∀ d : Bytes, 0x12 ≤ versionOf s ep →
        ∃ t, exec (.chunkSend ep 0 false d) s = .next t ∧ t.out.head? = some (.spdm v .ok [0, 0]) ∧
          t.spdm.chunks = (ep, 1, d) :: s.spdm.chunks.filter (fun c => c.1 != ep)) ∧
      (∀ d : Bytes, 0x12 ≤ versionOf s ep → strayRequest d = none →
        ∃ t, exec (.chunkSend ep 0 true d) s = .next t ∧ t.out.head? = some (.spdm v .ok [0, 0]) ∧
          t.spdm.chunks = s.spdm.chunks.filter (fun c => c.1 != ep)) ∧
      (∀ (b : Bytes) (l : List (Nat × Bytes)), 0x12 ≤ versionOf s ep → s.spdm.large = (ep, b) :: l → b ≠ [] →
        ∃ t, exec (.chunkGet ep 0) s = .next t ∧
          t.out.head? = some (.spdm v .ok ([if b.length ≤ 4096 then 1 else 0, 0, 0] ++ b.take 4096))) ∧
      (∀ (k : Nat) (last : Bool) (d : Bytes) (i : Instr), versionOf s ep < 0x12 → (i = .chunkSend ep k last d ∨ i = .chunkGet ep k) →
        ∃ t, exec i s = .next t ∧ t.out.head? = some (.spdm v .unsupportedRequest []) ∧ t.spdm.chunks = s.spdm.chunks))

/-- From R257, R292, R293, R295, R378: sessions. KEY_EXCHANGE by the vendor of R290, judged fit, with program and key 4 there and Astrolabe free: an
invariant failed is UnexpectedRequest; a point off P-384 InvalidRequest; else a free session of its target with two VALID keys of 2^20 uses, its
answer, then the two requests for the requester's chain. In a session whose keys serve, answers of type 0x06: FINISH (its verification undisturbed)
establishes it when its chain is accepted and its signature verifies, and ends it otherwise; HEARTBEAT restarts its time; KEY_UPDATE gives new keys
of 2^20 uses; END_SESSION, and 120 s of silence (window resolution, log entry 97), end it with its slots. An offer's hold ends after 100 ms. -/
def Obligations.Sessions : Prop :=
  (∀ (s : State) (ep target : Nat) (x : Bytes) (i : Fin 8), spdmReady s = true → exchangeJudge s target = .inr i → astHeld 0xE s = false →
    s.ast.progLoaded = true → judgeUse s.eph.slots[(4 : SlotId)] .astrolabe 0xE = Code.done →
    let v : Mctp := { binding := s.params.mgmtBinding, type := 5 }
    ∃ t, exec (.keyExchange ep target x 0x475A4F56) s = .next t ∧
      (if t.ast.job.isSome = true then t.out.head? = some (.spdm v .unexpectedRequest []) ∧ t.spdm.sessions[i] = none
        else if P384.good (padTo 0 96 x) = true then
          (∃ d, t.out.take 3 = [.encap v true, .encap v false, .spdm v .ok d] ∧ d.take 2 = [BitVec.ofNat 8 i.val, 60]) ∧
            (∃ y, t.spdm.sessions[i] = some y ∧ y.target = target ∧ y.ep = ep ∧ y.phase = .exchanged ∧ y.lastAt = secPs s) ∧
            (∀ k : SlotId, k = (sessSlots i).1 ∨ k = (sessSlots i).2 → t.eph.slots[k].state = .valid ∧ t.eph.slots[k].uses = 2 ^ 20 ∧
              t.eph.slots[k].engines = [.meridianGcm])
        else t.out.head? = some (.spdm v .invalidRequest []) ∧ t.spdm.sessions[i] = none)) ∧
  (∀ (s : State) (i : Fin 8) (y : Session), spdmRefusal s = none →
    let v : Mctp := { binding := s.params.mgmtBinding, type := 6 }
    (∀ (chain : List Bytes) (sig : Bytes), sessionServed s i y .exchanged = true → astHeld 0xE s = false → s.ast.upset = false →
      ∃ t, exec (.finish i chain sig) s = .next t ∧
        (if chainAccepted s y.target chain = true ∧ finishVerdict y chain sig = true then
            t.out.head? = some (.spdm v .ok []) ∧ ∃ z, t.spdm.sessions[i] = some z ∧ z.phase = .established ∧ z.target = y.target
          else t.out.head? = some (.spdm v .invalidRequest []) ∧ t.spdm.sessions[i] = none)) ∧
    (sessionServed s i y .established = true →
      (∃ t, exec (.heartbeat i) s = .next t ∧ t = { s with out := t.out, chr := t.chr, slu := t.slu, eph := t.eph, spdm := t.spdm } ∧
        t.out.head? = some (.spdm v .ok []) ∧ t.spdm.sessions = put s.spdm.sessions i (some { y with lastAt := secPs s })) ∧
      (∃ t z, exec (.keyUpdate i) s = .next t ∧ t.out.head? = some (.spdm v .ok []) ∧ t.spdm.sessions[i] = some z ∧ z.phase = .established ∧
        z.target = y.target ∧ t.eph.slots[(sessSlots i).1].state = .valid ∧ t.eph.slots[(sessSlots i).2].state = .valid ∧
        t.eph.slots[(sessSlots i).1].uses = 2 ^ 20 ∧ t.eph.slots[(sessSlots i).2].uses = 2 ^ 20 ∧
        t.eph.slots[(sessSlots i).1].engines = [.meridianGcm]) ∧
      (∃ t, exec (.endSession i) s = .next t ∧ t.out.head? = some (.spdm v .ok []) ∧ t.spdm.sessions = put s.spdm.sessions i none ∧
        t.eph.slots[(sessSlots i).1].state = .invalid ∧ t.eph.slots[(sessSlots i).2].state = .invalid))) ∧
  (∀ (s : State) (i : Fin 8) (y : Session), s.spdm.sessions[i] = some y → s.mer.halted = false → waited (secPs s) y.lastAt (120 * secondPs) = true →
    ∃ t, exec (.sessionIdleTimeout i) s = .next t ∧ t = { s with spdm := t.spdm, eph := t.eph, chr := t.chr, port := t.port } ∧
      t.spdm.sessions = put s.spdm.sessions i none ∧ t.eph.slots[(sessSlots i).1].state = .invalid ∧
      t.eph.slots[(sessSlots i).2].state = .invalid) ∧
  (∀ s : State, s.spdm.hold.isSome = true → s.mer.halted = false → waited (secPs s) s.spdm.holdAt (secondPs / 10) = true →
    exec .keyOfferLapse s = .next { s with spdm := { s.spdm with hold := none } })

/-- From R169, R272, R283, R284, R291, R293 to R296: GX requests in service. A report of the block or of a reach that holds resources, Astrolabe free,
is sampled, signed and kept for later parts, the native one beginning with the body of R284; BAD_STATE when Astrolabe's operations did not end well.
A later part, and the post-quantum chain, outside a session or in one; identity in every phase, with the model's identity words after it (log entry
102). In a tenant's session: an offer holds Astrolabe for its reach; a delivery of right lengths to an offer whose key stands, its slots at 32 or
above, spends it and, when it opens under the decapsulated key, leaves the package key and the three memory keys VALID; both are BAD_STATE when an
invariant failed. A drain takes its SEALED reach. A delivery to a session that the drain of its LOADING reach ended is answered BAD_STATE. -/
def Obligations.GxRequests : Prop :=
  (∀ (s : State) (ep : Nat) (nonce : Vector Byte 32), gxReady s = true →
    (∀ reach fmt : Nat, astHeld 0xE s = false → fmt ≤ 1 →
      (reach = 0xFF ∨ ∃ n : ReachId, reach = n.val ∧ s.reach[n].state ≠ .empty ∧ s.reach[n].state ≠ .dredging) →
      ∃ t, exec (.gxReport ep reach fmt nonce 0 none) s = .next t ∧
        (if astWell t = true then ∃ b, answered t Code.done (leBytes 4 b.length ++ b.take 4096) ∧
            t.spdm.reports = { ep, nonce := nonce.toList, bytes := b } :: s.spdm.reports.filter (fun r => !(r.ep == ep && r.nonce == nonce.toList)) ∧
            (fmt = 0 → b.take 1024 = reportBody s (fin? 8 reach) nonce.toList)
          else answered t Code.badState [])) ∧
    (∀ (off : Nat) (b : Bytes) (l : List Report), 0 < off → s.spdm.reports = { ep, nonce := nonce.toList, bytes := b } :: l →
      ∃ t, exec (.gxReport ep 0xFF 0 nonce off none) s = .next t ∧ answered t Code.done (leBytes 4 b.length ++ (b.drop off).take 4096) ∧
        t = { s with out := t.out, chr := t.chr, slu := t.slu, spdm := { s.spdm with msgType := 5 } }) ∧
    (∀ off : Nat, ∃ t, exec (.gxPqChain ep off none) s = .next t ∧
      answered t Code.done (leBytes 4 (servedChain s true).flatten.length ++ ((servedChain s true).flatten.drop off).take 4096) ∧
      t = { s with out := t.out, chr := t.chr, slu := t.slu, spdm := { s.spdm with msgType := 5 } }) ∧
    (∀ (off : Nat) (i : Fin 8) (y : Session), sessionServed s i y .established = true →
      (∃ t, exec (.gxPqChain ep off (some i)) s = .next t ∧
        answered t Code.done (leBytes 4 (servedChain s true).flatten.length ++ ((servedChain s true).flatten.drop off).take 4096) ∧
        t.spdm.sessions = put s.spdm.sessions i (some { y with lastAt := secPs s })) ∧
      (∀ (b : Bytes) (l : List Report), 0 < off → s.spdm.reports = { ep := y.ep, nonce := nonce.toList, bytes := b } :: l →
        ∃ t, exec (.gxReport ep 0xFF 0 nonce off (some i)) s = .next t ∧ answered t Code.done (leBytes 4 b.length ++ (b.drop off).take 4096)))) ∧
  (∀ (s : State) (ep : Nat), servesMgmt s = true →
    ∃ t, exec (.gxIdentity ep) s = .next t ∧
      answered t Code.done (padTo 0 48 s.mer.deviceId ++ leBytes 4 0x474F5258 ++ leBytes 4 0x00020400 ++ leBytes 4 (variantWord s).toNat ++ identityWords s) ∧
      t = { s with out := t.out, chr := t.chr, slu := t.slu, spdm := { s.spdm with msgType := 5 } }) ∧
  (∀ (s : State) (i : Fin 8) (y : Session) (n : ReachId), sessionServed s i y .established = true → y.target = n.val → gxReady s = true →
    (offerBad s n = none → astHeld n.val s = false → s.ast.progLoaded = true →
      ∃ t, exec (.gxKeyOffer i) s = .next t ∧
        (if t.ast.job.isSome = true then answered t Code.badState []
          else ∃ ek, answered t Code.done ek ∧ ek.length = 1568 ∧ t.spdm.hold = some (i, n.val) ∧ t.spdm.holdAt = secPs s ∧
            ∃ z, t.spdm.sessions[i] = some z ∧ z.offer = some (offerLine s n) ∧ z.lapsed = false)) ∧
    (∀ (line : Nat) (c iv w tag : Bytes), deliverBad s y n = none → astHeld n.val s = false → c.length = 1568 → iv.length = 12 → w.length = 44 →
      tag.length = 16 → y.offer = some line → s.ast.progLoaded = true → s.ast.owner = n.val → hasEntry s.ast line .mlkem = true →
      32 ≤ s.reach[n].keyFirst → s.reach[n].keyFirst + 4 ≤ 256 → s.eph.slots[(sessSlots i).1].parent = none → s.eph.slots[(sessSlots i).2].parent = none →
      ∃ t, exec (.gxKeyDeliver i c iv w tag) s = .next t ∧ (∀ z, t.spdm.sessions[i] = some z → z.offer = none) ∧
        (if t.ast.job.isSome = true then answered t Code.badState []
          else match gcmOpen (Config.mlkemDecaps (memBytes s.ast.mem (astKeyArea + 64 * line) 3168) c).toList iv (BitVec.ofNat 8 n.val :: y.th2) w tag with
            | some _ => answered t Code.done [] ∧ ∀ k : Fin 4, slotValid t (keySlot t n k.val) = true ∧ t.eph.slots[keySlot t n k.val].owner = n.val
            | none => answered t Code.badDescriptor [] ∧ t.reach = s.reach)) ∧
    (∀ m : Nat, s.reach[n].state = .sealed → m ≤ 1 →
      ∃ t, exec (.gxDrain i m) s = .next t ∧ answered t Code.done [] ∧ (t.reach[n].state = .draining ∨ t.reach[n].state = .dredging))) ∧
  (∀ (s : State) (i : Fin 8) (c iv w tag : Bytes), servesMgmt s = true → s.spdm.sessions[i] = none → s.spdm.drained[i] = true →
    ∃ t, exec (.gxKeyDeliver i c iv w tag) s = .next t ∧ answered t Code.badState [] ∧ t.spdm.drained[i] = false ∧ t.eph = s.eph ∧ t.reach = s.reach)

/-! ### Chronograph and Eyepiece -/

/-- From R10, R403 to R411: counters, the system island running. A write of CHR_CFG by a reader (USER by the operator and Eyepiece alone) of listed
codes sets the fields; VALUE and OVF stay unless cleared (CLR; OVF_CLR), but are open when the counter counted a hidden signal (log entry 18). An
unlisted EVENT, and an unlisted REACH of a unit that has one, keeps the old with a record of rule ENCODING; another identity changes nothing. A
reader's own selection of a counter its unit has, with listed codes, makes its snapshot BUSY; while it is BUSY, or of no such counter, it is refused
under STATE; another reader's is ignored. A sample ends BUSY, SEQ one higher: zero when DENIED, a multiple of 1,024 when quantised. -/
def Obligations.Counters : Prop :=
  (∀ (s : State) (m : Nat) (u : Fin 71) (k : Fin 8) (d : Word), sysUp s = true → k.val < progCount u.val →
    ((readerClass m).isSome = true → bits d.toNat 8 6 ≤ lastEvent (unitKind u.val) →
      (hasReach u.val = false ∨ bits d.toNat 16 4 < 8 ∨ bits d.toNat 16 4 = 0xF) →
      ∃ t, exec (.chrCfgWrite m u k d) s = .next t ∧ t = { s with chr := t.chr, freeCtr := t.freeCtr } ∧
        t.chr = { s.chr with unit := upd s.chr.unit u fun x => { x with prog := upd x.prog k fun (c : ProgCtr) => { c with
          en := bit d.toNat 0, level := bit d.toNat 1, event := bits d.toNat 8 6, user := if m = 2 ∨ m = 0xD then bit d.toNat 24 else c.user
          reach := if hasReach u.val then bits d.toNat 16 4 else c.reach
          ovf := t.chr.unit[u].prog[k].ovf, value := t.chr.unit[u].prog[k].value } } } ∧
        (s.chr.unit[u].prog[k].hidden u.val = false →
          t.freeCtr = s.freeCtr ∧ (bit d.toNat 26 = false → t.chr.unit[u].prog[k].value = s.chr.unit[u].prog[k].value) ∧
          (bit d.toNat 25 = false → bit d.toNat 26 = false → t.chr.unit[u].prog[k].ovf = s.chr.unit[u].prog[k].ovf)) ∧
        (bit d.toNat 25 = true → t.chr.unit[u].prog[k].ovf = false) ∧
        (bit d.toNat 26 = true → t.chr.unit[u].prog[k].value = 0 ∧ t.chr.unit[u].prog[k].ovf = false)) ∧
    ((readerClass m).isSome = true → lastEvent (unitKind u.val) < bits d.toNat 8 6 →
      ∃ t, exec (.chrCfgWrite m u k d) s = .next t ∧ t = { s with chr := t.chr, sys := t.sys, freeCtr := t.freeCtr } ∧
        t.chr.unit[u].prog[k].event = s.chr.unit[u].prog[k].event ∧ t.chr.unit[u].prog[k].en = bit d.toNat 0 ∧ t.sys.irqPend[(9 : Fin 16)] = true ∧
        ∃ a ∈ t.sys.audit, a.rule = AuditRule.encoding ∧ a.written = bits d.toNat 8 6) ∧
    ((readerClass m).isSome = true → hasReach u.val = true → 8 ≤ bits d.toNat 16 4 → bits d.toNat 16 4 ≠ 0xF →
      ∃ t, exec (.chrCfgWrite m u k d) s = .next t ∧ t = { s with chr := t.chr, sys := t.sys, freeCtr := t.freeCtr } ∧
        t.chr.unit[u].prog[k].reach = s.chr.unit[u].prog[k].reach ∧ t.chr.unit[u].prog[k].en = bit d.toNat 0 ∧
        ∃ a ∈ t.sys.audit, a.rule = AuditRule.encoding ∧ a.written = bits d.toNat 16 4) ∧
    (readerClass m = none → exec (.chrCfgWrite m u k d) s = .next s)) ∧
  (∀ (s : State) (mid : Nat) (m : Fin 4) (d : Word) (x : Snap), sysUp s = true →
    x = { s.chr.snap[m] with
      reachView := bit d.toNat 0, reach := bits d.toNat 1 3, unit := bits d.toNat 4 7, cls := bits d.toNat 11 3, ctr := bits d.toNat 14 7, busy := true } →
    (readerClass mid = some m → s.chr.snap[m].busy = false → (bit d.toNat 0 = false ∨ bits d.toNat 11 3 ≤ 5) →
      bits d.toNat 4 7 ≤ unitTop (bit d.toNat 0) (bits d.toNat 11 3) → namesCounter x = true →
      exec (.chrSnapSel mid m d) s = .next { s with chr := { s.chr with snap := put s.chr.snap m x } }) ∧
    (readerClass mid = some m → s.chr.snap[m].busy = true →
      ∃ t, exec (.chrSnapSel mid m d) s = .next t ∧ t = { s with sys := t.sys } ∧ ∃ a ∈ t.sys.audit, a.rule = AuditRule.state ∧ a.written = d.toNat % 2 ^ 21) ∧
    (readerClass mid = some m → (bit d.toNat 0 = false ∨ bits d.toNat 11 3 ≤ 5) → bits d.toNat 4 7 ≤ unitTop (bit d.toNat 0) (bits d.toNat 11 3) →
      ctrCodeOk (bits d.toNat 14 7) = true → namesCounter x = false →
      ∃ t, exec (.chrSnapSel mid m d) s = .next t ∧ t = { s with sys := t.sys } ∧ ∃ a ∈ t.sys.audit, a.rule = AuditRule.state) ∧
    (readerClass mid ≠ some m → exec (.chrSnapSel mid m d) s = .next s)) ∧
  (∀ (s : State) (m : Fin 4) (n : Nat), s.chr.snap[m].busy = true →
    ∃ t, exec (.chrSampleDone m n) s = .next t ∧ t = { s with chr := t.chr, freeCtr := s.freeCtr + 2 } ∧ t.chr.unit = s.chr.unit ∧
      t.chr.snap[m].busy = false ∧ t.chr.snap[m].seq = (s.chr.snap[m].seq + 1) % 256 ∧
      (∀ j : Fin 4, j ≠ m → t.chr.snap[j] = s.chr.snap[j]) ∧
      (t.chr.snap[m].denied = true → t.chr.snap[m].value = 0 ∧ t.chr.snap[m].ovf = false) ∧
      (t.chr.snap[m].quant = true → t.chr.snap[m].value % 1024 = 0))

/-- From R90, R134, R381, R383, R387 to R389, R392: Eyepiece, the management island up, by the operator in a session or the TAP unlocked. At OPEN,
outside KEEP and OFF, EYE_MEM_DATA reads and writes a word of a scratchpad that has no word in error, of a share no unit of which refuses it nor has
a word in error, and of the keeper's data memory, and ADDR goes four bytes on; at another level it gives nothing and sets ERR. HALT and STEP act on
the keeper core of a visible reach, and HALT on Meridian's core. Update-DR starts a WIN access unless the previous is not complete; Capture-DR tells
it; the access completes: refused while the TAP is locked, EYE_ID when that is read. -/
def Obligations.EyepieceAccesses : Prop :=
  ∀ s : State, mgmtUp s = true →
    (∀ (m : Nat) (n : ReachId), eyeReachable s m = true → s.eye.memReach = n.val → openNow s n = true → s.slu.state ≠ .keep → s.slu.state ≠ .off →
      (∀ b : BargeId, s.eye.memTarget = 0 → eyeBarge s = some b → s.eye.memAddr + 4 ≤ 0x180000 → s.barge[b].weak = [] → s.barge[b].bad = [] →
        (∃ t, exec (.eyeMemData m false 0) s = .next t ∧ t = { s with eye := { s.eye with memAddr := s.eye.memAddr + 4, err := false }, out := t.out } ∧
          t.out.head? = some (.regRead m 0x70038 (BitVec.ofNat 32 (leNat (memBytes s.barge[b].spad s.eye.memAddr 4))))) ∧
        (∀ w : Word, ∃ t, exec (.eyeMemData m true w) s = .next t ∧
          t = { s with eye := { s.eye with memAddr := s.eye.memAddr + 4, err := false }, barge := t.barge } ∧
          (∀ x : BargeId, x ≠ b → t.barge[x] = s.barge[x]) ∧ t.barge[b] = { s.barge[b] with spad := t.barge[b].spad } ∧
          memBytes t.barge[b].spad s.eye.memAddr 4 = leBytes 4 w.toNat ∧
          (∀ a : Nat, a < s.eye.memAddr ∨ s.eye.memAddr + 4 ≤ a → memGet t.barge[b].spad a = memGet s.barge[b].spad a))) ∧
      (s.eye.memTarget = 1 → s.eye.memAddr + 4 ≤ shareSize s (svcOf n) → s.eye.memAddr + 4 < 2 ^ 24 →
        refusingUnits s (svcOf n) s.eye.memAddr 4 = [] → s.basin.weak = [] → s.basin.bad = [] →
        (∃ t, exec (.eyeMemData m false 0) s = .next t ∧ t = { s with eye := { s.eye with memAddr := s.eye.memAddr + 4, err := false }, out := t.out } ∧
          t.out.head? = some (.regRead m 0x70038 (BitVec.ofNat 32 (leNat (shareGet s (svcOf n) s.eye.memAddr 4))))) ∧
        (∀ w : Word, ∃ t, exec (.eyeMemData m true w) s = .next t ∧
          t = { s with eye := { s.eye with memAddr := s.eye.memAddr + 4, err := false }, basin := (sharePut s (svcOf n) s.eye.memAddr (leBytes 4 w.toNat)).basin })) ∧
      (s.eye.memTarget = 2 → s.eye.memAddr + 4 ≤ 65536 →
        (∃ t, exec (.eyeMemData m false 0) s = .next t ∧ t = { s with eye := { s.eye with memAddr := s.eye.memAddr + 4, err := false }, out := t.out } ∧
          t.out.head? = some (.regRead m 0x70038 (BitVec.ofNat 32 (leNat (memBytes s.keeper[svcOf n].mem s.eye.memAddr 4))))) ∧
        (∀ w : Word, ∃ t, exec (.eyeMemData m true w) s = .next t ∧
          t = { s with eye := { s.eye with memAddr := s.eye.memAddr + 4, err := false }, keeper := t.keeper } ∧
          t.keeper = upd s.keeper (svcOf n) (fun k => { k with mem := memPut k.mem s.eye.memAddr (leBytes 4 w.toNat) })))) ∧
    (∀ (m : Nat) (n : ReachId), eyeReachable s m = true → s.eye.memReach = n.val → s.reach[n].debug ≠ .opened →
      ∃ t, exec (.eyeMemData m false 0) s = .next t ∧
        t = { s with eye := { s.eye with memAddr := (s.eye.memAddr + 4) % 2 ^ 24, err := true }, out := t.out } ∧
        t.out.head? = some (.regRead m 0x70038 0)) ∧
    (∀ (m : Nat) (n : ReachId) (on : Bool), eyeReachable s m = true → coreVisible s n.val = true →
      ∃ t, exec (.halt m n.val on) s = .next t ∧ t = { s with keeper := t.keeper, eye := t.eye } ∧
        t.keeper = upd s.keeper (svcOf n) (fun k => { k with dbgHalted := on }) ∧ t.eye = { s.eye with coreTarget := n.val, haltBit := on, err := false }) ∧
    (∀ (m : Nat) (on : Bool), eyeReachable s m = true → coreVisible s 0xE = true →
      exec (.halt m 0xE on) s = .next { s with mer := { s.mer with halted := on }, eye := { s.eye with coreTarget := 0xE, haltBit := on, err := false } }) ∧
    (∀ (m : Nat) (n : ReachId), eyeReachable s m = true → coreVisible s n.val = true → s.keeper[svcOf n].dbgHalted = true → s.eye.haltBit = true →
      exec (.step m n.val) s = .next { s with eye := { s.eye with coreTarget := n.val, err := false } }) ∧
    (∀ (w : Bool) (o : BitVec 24) (d : Word), s.eye.win = none → s.eye.winDone = true →
      exec (.winUpdate w o d) s = .next { s with eye := { s.eye with win := some { write := w, offset := o.toNat, data := d } } }) ∧
    (∀ (w : Bool) (o : BitVec 24) (d : Word), (s.eye.win.isSome = true ∨ s.eye.winDone = false) → exec (.winUpdate w o d) s = .next s) ∧
    (s.eye.win.isSome = true → ∃ t, exec .winCapture s = .next t ∧ t = { s with out := t.out, eye := { s.eye with winDone := false } } ∧
      t.out.head? = some (.tap false false 0)) ∧
    (s.eye.win = none → ∃ t, exec .winCapture s = .next t ∧ t = { s with out := t.out, eye := { s.eye with winDone := true } } ∧
      t.out.head? = some (.tap true s.eye.winErr s.eye.winData)) ∧
    (∀ a : WinAccess, s.eye.win = some a →
      (s.eye.tapUnlocked = false →
        ∃ t, exec .winAccessDone s = .next t ∧ t = { s with eye := { s.eye with win := none, winErr := true, winData := 0, err := true } }) ∧
      (s.eye.tapUnlocked = true → a.write = false → a.offset = 0x70000 →
        ∃ t, exec .winAccessDone s = .next t ∧
          t = { s with eye := { s.eye with win := none, winErr := false, winData := 0x47594501, err := false } }))

/-! ### Rules stated whole -/

/-- From R384: a lowering of a reach's debug level is in force in the state that handles it, leaves the reach's state and OPENED as they are, and a
keeper core halted at OPEN resumes. -/
def Obligations.DebugLowering : Prop :=
  ∀ (s : State) (n : ReachId) (lv : Nat) (d : Debug), operatorReady s = true → debugOf lv = some d →
    (d = .closed ∧ s.reach[n].debug ≠ .closed ∨ d = .observe ∧ s.reach[n].debug = .opened) →
    (s.reach[n].state = .loading ∨ s.reach[n].state = .sealed) → (s.mer.lcMarginal = true → d = .closed) →
    ∃ t, exec (.debugSet n.val lv) s = .next t ∧ t.reach[n].debug = d ∧ t.reach[n].state = s.reach[n].state ∧
      t.reach[n].opened = s.reach[n].opened ∧ (s.reach[n].debug = .opened → t.keeper[svcOf n].dbgHalted = false)

/-- From R58: every element of a block whose scale is 0xFF is NaN: a vector load of a tensor in any block-scaled format gives each lane of that block
the canonical NaN, and in a matrix product its leaf is the canonical NaN. -/
def Obligations.NanScale : Prop :=
  (∀ (s : State) (g : Barge) (d : Desc) (i1 i2 i3 k n : Nat) (ws : List Word) (xs : List Nat) (i : Nat), d.fmt ≠ 0xA →
    loadLanes s g d i1 i2 i3 k n = some ws →
    readScales s g d (rowIndex d i1 i2 i3) (k / 32) ((k + n + 31) / 32 - k / 32) = some xs → i < n →
    xs.getD ((k + i) / 32 - k / 32) 127 = 255 → ws[i]? = some canonNan) ∧
  (∀ (a b : TileRow) (n j : Nat), j < n → (a.scales.getD j 127 = 255 ∨ b.scales.getD j 127 = 255) →
    (narrowLeaves a b n)[j]? = some canonNan)

/-! ### Words of passage programs -/

/-- From R110, R113, R115, R117, R119: encoding and decoding agree. Every instruction of a passage program has a word of 64 bits, the word decodes to
that instruction with every operand at every value, two instructions of one barge never share a word, and a word that decodes is the one its
instruction encodes to. -/
def Obligations.WordsRoundTrip : Prop :=
  (∀ (i : Instr) (b : BargeId) (w : Nat), encodeWord i = some w → barge? i = some b → w < 2 ^ 64 ∧ decodeWord b w = some i) ∧
  (∀ i : Instr, (encodeWord i).isSome = (barge? i).isSome) ∧
  (∀ (b : BargeId) (w : Nat) (i : Instr), decodeWord b w = some i → encodeWord i = some w ∧ barge? i = some b)

/-! ### The block as a whole -/

/-- A step performs the command at the front of the queue on the block with the rest of it; with nothing waiting the block idles (the model's choice,
log entry 1). A table word spells no command. -/
def Obligations.StepRunsFront : Prop :=
  (∀ (s : State) (c : Instr) (l : List Instr), s.pending = c :: l → step s = exec c { s with pending := l }) ∧
  (∀ s : State, s.pending = [] → step s = .next s) ∧
  (∀ (s : State) (n w : Nat), decodeTableWord n w = none ∧ s.withFetchWord n w = s)

/-- From R10: no command ends in a fault or a refusal of the model: every command, from every state, answers a next state, and the queue of commands,
and the integration parameters of R4, are what they were. -/
def Obligations.EveryCommandAnswers : Prop :=
  ∀ (c : Instr) (s : State), ∃ t, exec c s = .next t ∧ t.pending = s.pending ∧ t.params = s.params

/-- From R19, R81, R163, R173, R219, R245, R301, R346: what power-on reset leaves. Every reach EMPTY, CLOSED, epoch 0; every barge UNASSIGNED and every
Basin unit with epoch 0; every key slot INVALID; every Aqueduct channel CLOSED and every Towpath channel UNBOUND; no wheel slot owned; no interrupt
pending; every calibration count 0. And in the model (log entries 1, 6): every byte memory canonical, no command waiting, por_n asserted. -/
def Obligations.ResetState : Prop :=
  (∀ n : ReachId, State.reset.reach[n].state = .empty ∧ State.reset.reach[n].epoch = 0 ∧ State.reset.reach[n].debug = .closed) ∧
  (∀ b : BargeId, State.reset.barge[b].epoch = 0 ∧ State.reset.barge[b].role = .unassigned) ∧
  (∀ u : Fin 8, State.reset.basin.units[u].epoch = 0) ∧ (∀ k : SlotId, State.reset.eph.slots[k].state = .invalid) ∧
  (∀ (l : LinkId) (c : Fin 9), State.reset.link[l].chan[c].state = .closed) ∧ (∀ c : ChanId, State.reset.twp.chan[c].state = .unbound) ∧
  (∀ (p : PortId) (i : Fin 64), State.reset.port[p].wheel[i] = 0xF) ∧ State.reset.sys.irqPend = Vector.replicate 16 false ∧
  (∀ i : Fin 64, State.reset.isl[i].cycles = 0 ∧ State.reset.isl[i].seq = 0 ∧ State.reset.isl[i].calValid = false) ∧
  State.reset.memWf = true ∧ State.reset.pending = [] ∧ State.reset.pins.porN = false
end

