-- ==== Sys2Proof/Laws/Frame.lean ====
section
/-! SUPPORT. What an operation can change: the parts of the state, the relation that only some of them change, and how it composes. -/

namespace Sys2Proof.Machine

set_option Elab.async false

/-- The parts of the state. -/
inductive Part where
  | params | pins | alerts | windows | isl | iso | mer | meas | epochCtr | reach | barge | spareClock | basin | port | twPkg | loader | keeper | ring | sys | eph | ast | alm | stc | twp | slu | link | spdm | eye | col | chr | flight | freeCtr | out | events | pending
  deriving DecidableEq, Repr

/-- The part is the same in both states. -/
def Part.same (s t : State) : Part → Prop
  | .params => t.params = s.params
  | .pins => t.pins = s.pins
  | .alerts => t.alerts = s.alerts
  | .windows => t.windows = s.windows
  | .isl => t.isl = s.isl
  | .iso => t.iso = s.iso
  | .mer => t.mer = s.mer
  | .meas => t.meas = s.meas
  | .epochCtr => t.epochCtr = s.epochCtr
  | .reach => t.reach = s.reach
  | .barge => t.barge = s.barge
  | .spareClock => t.spareClock = s.spareClock
  | .basin => t.basin = s.basin
  | .port => t.port = s.port
  | .twPkg => t.twPkg = s.twPkg
  | .loader => t.loader = s.loader
  | .keeper => t.keeper = s.keeper
  | .ring => t.ring = s.ring
  | .sys => t.sys = s.sys
  | .eph => t.eph = s.eph
  | .ast => t.ast = s.ast
  | .alm => t.alm = s.alm
  | .stc => t.stc = s.stc
  | .twp => t.twp = s.twp
  | .slu => t.slu = s.slu
  | .link => t.link = s.link
  | .spdm => t.spdm = s.spdm
  | .eye => t.eye = s.eye
  | .col => t.col = s.col
  | .chr => t.chr = s.chr
  | .flight => t.flight = s.flight
  | .freeCtr => t.freeCtr = s.freeCtr
  | .out => t.out = s.out
  | .events => t.events = s.events
  | .pending => t.pending = s.pending

/-- From `s` to `t` no part changes but those listed. -/
def Changes (l : List Part) (s t : State) : Prop := ∀ p : Part, p ∉ l → p.same s t

theorem Changes.refl (l : List Part) (s : State) : Changes l s s := fun p _ => by cases p <;> rfl

/-- What `u` changes of `t` and `t` of `s`, `u` changes of `s`. -/
theorem Changes.after {l k : List Part} {s t u : State} (h : Changes k t u) (hk : ∀ p ∈ k, p ∈ l) (h' : Changes l s t) : Changes l s u := by
  intro p hp
  have a := h p fun hx => hp (hk p hx)
  have b := h' p hp
  cases p <;> exact Eq.trans a b

theorem Changes.mono {l k : List Part} {s t : State} (h : Changes k s t) (hk : ∀ p ∈ k, p ∈ l) : Changes l s t :=
  h.after hk (Changes.refl l s)

theorem Changes.foldl {α : Type} {l : List Part} {f : State → α → State} (hf : ∀ t x, Changes l t (f t x)) (xs : List α) (s : State) :
    Changes l s (xs.foldl f s) := by
  induction xs generalizing s with
  | nil => exact Changes.refl l s
  | cons x xs ih => exact (ih (f s x)).after (fun _ h => h) (hf s x)

theorem forAll_changes {α : Type} {l : List Part} {f : α → State → State} (hf : ∀ x t, Changes l t (f x t)) (xs : List α) (s : State) :
    Changes l s (forAll xs f s) := Changes.foldl (fun t x => hf x t) xs s

/-! ### A part not listed is the same -/

theorem Changes.params {l : List Part} {s t : State} (h : Changes l s t) (hl : Part.params ∉ l) : t.params = s.params := h .params hl
theorem Changes.pins {l : List Part} {s t : State} (h : Changes l s t) (hl : Part.pins ∉ l) : t.pins = s.pins := h .pins hl
theorem Changes.alerts {l : List Part} {s t : State} (h : Changes l s t) (hl : Part.alerts ∉ l) : t.alerts = s.alerts := h .alerts hl
theorem Changes.windows {l : List Part} {s t : State} (h : Changes l s t) (hl : Part.windows ∉ l) : t.windows = s.windows := h .windows hl
theorem Changes.isl {l : List Part} {s t : State} (h : Changes l s t) (hl : Part.isl ∉ l) : t.isl = s.isl := h .isl hl
theorem Changes.iso {l : List Part} {s t : State} (h : Changes l s t) (hl : Part.iso ∉ l) : t.iso = s.iso := h .iso hl
theorem Changes.mer {l : List Part} {s t : State} (h : Changes l s t) (hl : Part.mer ∉ l) : t.mer = s.mer := h .mer hl
theorem Changes.meas {l : List Part} {s t : State} (h : Changes l s t) (hl : Part.meas ∉ l) : t.meas = s.meas := h .meas hl
theorem Changes.epochCtr {l : List Part} {s t : State} (h : Changes l s t) (hl : Part.epochCtr ∉ l) : t.epochCtr = s.epochCtr := h .epochCtr hl
theorem Changes.reach {l : List Part} {s t : State} (h : Changes l s t) (hl : Part.reach ∉ l) : t.reach = s.reach := h .reach hl
theorem Changes.barge {l : List Part} {s t : State} (h : Changes l s t) (hl : Part.barge ∉ l) : t.barge = s.barge := h .barge hl
theorem Changes.spareClock {l : List Part} {s t : State} (h : Changes l s t) (hl : Part.spareClock ∉ l) : t.spareClock = s.spareClock := h .spareClock hl
theorem Changes.basin {l : List Part} {s t : State} (h : Changes l s t) (hl : Part.basin ∉ l) : t.basin = s.basin := h .basin hl
theorem Changes.port {l : List Part} {s t : State} (h : Changes l s t) (hl : Part.port ∉ l) : t.port = s.port := h .port hl
theorem Changes.twPkg {l : List Part} {s t : State} (h : Changes l s t) (hl : Part.twPkg ∉ l) : t.twPkg = s.twPkg := h .twPkg hl
theorem Changes.loader {l : List Part} {s t : State} (h : Changes l s t) (hl : Part.loader ∉ l) : t.loader = s.loader := h .loader hl
theorem Changes.keeper {l : List Part} {s t : State} (h : Changes l s t) (hl : Part.keeper ∉ l) : t.keeper = s.keeper := h .keeper hl
theorem Changes.ring {l : List Part} {s t : State} (h : Changes l s t) (hl : Part.ring ∉ l) : t.ring = s.ring := h .ring hl
theorem Changes.sys {l : List Part} {s t : State} (h : Changes l s t) (hl : Part.sys ∉ l) : t.sys = s.sys := h .sys hl
theorem Changes.eph {l : List Part} {s t : State} (h : Changes l s t) (hl : Part.eph ∉ l) : t.eph = s.eph := h .eph hl
theorem Changes.ast {l : List Part} {s t : State} (h : Changes l s t) (hl : Part.ast ∉ l) : t.ast = s.ast := h .ast hl
theorem Changes.alm {l : List Part} {s t : State} (h : Changes l s t) (hl : Part.alm ∉ l) : t.alm = s.alm := h .alm hl
theorem Changes.stc {l : List Part} {s t : State} (h : Changes l s t) (hl : Part.stc ∉ l) : t.stc = s.stc := h .stc hl
theorem Changes.twp {l : List Part} {s t : State} (h : Changes l s t) (hl : Part.twp ∉ l) : t.twp = s.twp := h .twp hl
theorem Changes.slu {l : List Part} {s t : State} (h : Changes l s t) (hl : Part.slu ∉ l) : t.slu = s.slu := h .slu hl
theorem Changes.link {l : List Part} {s t : State} (h : Changes l s t) (hl : Part.link ∉ l) : t.link = s.link := h .link hl
theorem Changes.spdm {l : List Part} {s t : State} (h : Changes l s t) (hl : Part.spdm ∉ l) : t.spdm = s.spdm := h .spdm hl
theorem Changes.eye {l : List Part} {s t : State} (h : Changes l s t) (hl : Part.eye ∉ l) : t.eye = s.eye := h .eye hl
theorem Changes.col {l : List Part} {s t : State} (h : Changes l s t) (hl : Part.col ∉ l) : t.col = s.col := h .col hl
theorem Changes.chr {l : List Part} {s t : State} (h : Changes l s t) (hl : Part.chr ∉ l) : t.chr = s.chr := h .chr hl
theorem Changes.flight {l : List Part} {s t : State} (h : Changes l s t) (hl : Part.flight ∉ l) : t.flight = s.flight := h .flight hl
theorem Changes.freeCtr {l : List Part} {s t : State} (h : Changes l s t) (hl : Part.freeCtr ∉ l) : t.freeCtr = s.freeCtr := h .freeCtr hl
theorem Changes.out {l : List Part} {s t : State} (h : Changes l s t) (hl : Part.out ∉ l) : t.out = s.out := h .out hl
theorem Changes.events {l : List Part} {s t : State} (h : Changes l s t) (hl : Part.events ∉ l) : t.events = s.events := h .events hl
theorem Changes.pending {l : List Part} {s t : State} (h : Changes l s t) (hl : Part.pending ∉ l) : t.pending = s.pending := h .pending hl

/-! ### Record updates -/

theorem Changes.set_alerts {l : List Part} {s t : State} {v0 : _} (hk : ∀ p ∈ ([.alerts] : List Part), p ∈ l) (h : Changes l s t) :
    Changes l s { t with alerts := v0 } := by
  intro p hp
  have b := h p hp
  cases p <;> first | exact b | exact absurd (hk _ (by decide)) hp

theorem Changes.set_alm {l : List Part} {s t : State} {v0 : _} (hk : ∀ p ∈ ([.alm] : List Part), p ∈ l) (h : Changes l s t) :
    Changes l s { t with alm := v0 } := by
  intro p hp
  have b := h p hp
  cases p <;> first | exact b | exact absurd (hk _ (by decide)) hp

theorem Changes.set_ast {l : List Part} {s t : State} {v0 : _} (hk : ∀ p ∈ ([.ast] : List Part), p ∈ l) (h : Changes l s t) :
    Changes l s { t with ast := v0 } := by
  intro p hp
  have b := h p hp
  cases p <;> first | exact b | exact absurd (hk _ (by decide)) hp

theorem Changes.set_barge {l : List Part} {s t : State} {v0 : _} (hk : ∀ p ∈ ([.barge] : List Part), p ∈ l) (h : Changes l s t) :
    Changes l s { t with barge := v0 } := by
  intro p hp
  have b := h p hp
  cases p <;> first | exact b | exact absurd (hk _ (by decide)) hp

theorem Changes.set_basin {l : List Part} {s t : State} {v0 : _} (hk : ∀ p ∈ ([.basin] : List Part), p ∈ l) (h : Changes l s t) :
    Changes l s { t with basin := v0 } := by
  intro p hp
  have b := h p hp
  cases p <;> first | exact b | exact absurd (hk _ (by decide)) hp

theorem Changes.set_chr {l : List Part} {s t : State} {v0 : _} (hk : ∀ p ∈ ([.chr] : List Part), p ∈ l) (h : Changes l s t) :
    Changes l s { t with chr := v0 } := by
  intro p hp
  have b := h p hp
  cases p <;> first | exact b | exact absurd (hk _ (by decide)) hp

theorem Changes.set_col {l : List Part} {s t : State} {v0 : _} (hk : ∀ p ∈ ([.col] : List Part), p ∈ l) (h : Changes l s t) :
    Changes l s { t with col := v0 } := by
  intro p hp
  have b := h p hp
  cases p <;> first | exact b | exact absurd (hk _ (by decide)) hp

theorem Changes.set_eph {l : List Part} {s t : State} {v0 : _} (hk : ∀ p ∈ ([.eph] : List Part), p ∈ l) (h : Changes l s t) :
    Changes l s { t with eph := v0 } := by
  intro p hp
  have b := h p hp
  cases p <;> first | exact b | exact absurd (hk _ (by decide)) hp

theorem Changes.set_epochCtr {l : List Part} {s t : State} {v0 : _} (hk : ∀ p ∈ ([.epochCtr] : List Part), p ∈ l) (h : Changes l s t) :
    Changes l s { t with epochCtr := v0 } := by
  intro p hp
  have b := h p hp
  cases p <;> first | exact b | exact absurd (hk _ (by decide)) hp

theorem Changes.set_events {l : List Part} {s t : State} {v0 : _} (hk : ∀ p ∈ ([.events] : List Part), p ∈ l) (h : Changes l s t) :
    Changes l s { t with events := v0 } := by
  intro p hp
  have b := h p hp
  cases p <;> first | exact b | exact absurd (hk _ (by decide)) hp

theorem Changes.set_eye {l : List Part} {s t : State} {v0 : _} (hk : ∀ p ∈ ([.eye] : List Part), p ∈ l) (h : Changes l s t) :
    Changes l s { t with eye := v0 } := by
  intro p hp
  have b := h p hp
  cases p <;> first | exact b | exact absurd (hk _ (by decide)) hp

theorem Changes.set_flight {l : List Part} {s t : State} {v0 : _} (hk : ∀ p ∈ ([.flight] : List Part), p ∈ l) (h : Changes l s t) :
    Changes l s { t with flight := v0 } := by
  intro p hp
  have b := h p hp
  cases p <;> first | exact b | exact absurd (hk _ (by decide)) hp

theorem Changes.set_freeCtr {l : List Part} {s t : State} {v0 : _} (hk : ∀ p ∈ ([.freeCtr] : List Part), p ∈ l) (h : Changes l s t) :
    Changes l s { t with freeCtr := v0 } := by
  intro p hp
  have b := h p hp
  cases p <;> first | exact b | exact absurd (hk _ (by decide)) hp

theorem Changes.set_isl {l : List Part} {s t : State} {v0 : _} (hk : ∀ p ∈ ([.isl] : List Part), p ∈ l) (h : Changes l s t) :
    Changes l s { t with isl := v0 } := by
  intro p hp
  have b := h p hp
  cases p <;> first | exact b | exact absurd (hk _ (by decide)) hp

theorem Changes.set_iso {l : List Part} {s t : State} {v0 : _} (hk : ∀ p ∈ ([.iso] : List Part), p ∈ l) (h : Changes l s t) :
    Changes l s { t with iso := v0 } := by
  intro p hp
  have b := h p hp
  cases p <;> first | exact b | exact absurd (hk _ (by decide)) hp

theorem Changes.set_keeper {l : List Part} {s t : State} {v0 : _} (hk : ∀ p ∈ ([.keeper] : List Part), p ∈ l) (h : Changes l s t) :
    Changes l s { t with keeper := v0 } := by
  intro p hp
  have b := h p hp
  cases p <;> first | exact b | exact absurd (hk _ (by decide)) hp

theorem Changes.set_link {l : List Part} {s t : State} {v0 : _} (hk : ∀ p ∈ ([.link] : List Part), p ∈ l) (h : Changes l s t) :
    Changes l s { t with link := v0 } := by
  intro p hp
  have b := h p hp
  cases p <;> first | exact b | exact absurd (hk _ (by decide)) hp

theorem Changes.set_loader {l : List Part} {s t : State} {v0 : _} (hk : ∀ p ∈ ([.loader] : List Part), p ∈ l) (h : Changes l s t) :
    Changes l s { t with loader := v0 } := by
  intro p hp
  have b := h p hp
  cases p <;> first | exact b | exact absurd (hk _ (by decide)) hp

theorem Changes.set_meas {l : List Part} {s t : State} {v0 : _} (hk : ∀ p ∈ ([.meas] : List Part), p ∈ l) (h : Changes l s t) :
    Changes l s { t with meas := v0 } := by
  intro p hp
  have b := h p hp
  cases p <;> first | exact b | exact absurd (hk _ (by decide)) hp

theorem Changes.set_mer {l : List Part} {s t : State} {v0 : _} (hk : ∀ p ∈ ([.mer] : List Part), p ∈ l) (h : Changes l s t) :
    Changes l s { t with mer := v0 } := by
  intro p hp
  have b := h p hp
  cases p <;> first | exact b | exact absurd (hk _ (by decide)) hp

theorem Changes.set_out {l : List Part} {s t : State} {v0 : _} (hk : ∀ p ∈ ([.out] : List Part), p ∈ l) (h : Changes l s t) :
    Changes l s { t with out := v0 } := by
  intro p hp
  have b := h p hp
  cases p <;> first | exact b | exact absurd (hk _ (by decide)) hp

theorem Changes.set_port {l : List Part} {s t : State} {v0 : _} (hk : ∀ p ∈ ([.port] : List Part), p ∈ l) (h : Changes l s t) :
    Changes l s { t with port := v0 } := by
  intro p hp
  have b := h p hp
  cases p <;> first | exact b | exact absurd (hk _ (by decide)) hp

theorem Changes.set_reach {l : List Part} {s t : State} {v0 : _} (hk : ∀ p ∈ ([.reach] : List Part), p ∈ l) (h : Changes l s t) :
    Changes l s { t with reach := v0 } := by
  intro p hp
  have b := h p hp
  cases p <;> first | exact b | exact absurd (hk _ (by decide)) hp

theorem Changes.set_ring {l : List Part} {s t : State} {v0 : _} (hk : ∀ p ∈ ([.ring] : List Part), p ∈ l) (h : Changes l s t) :
    Changes l s { t with ring := v0 } := by
  intro p hp
  have b := h p hp
  cases p <;> first | exact b | exact absurd (hk _ (by decide)) hp

theorem Changes.set_slu {l : List Part} {s t : State} {v0 : _} (hk : ∀ p ∈ ([.slu] : List Part), p ∈ l) (h : Changes l s t) :
    Changes l s { t with slu := v0 } := by
  intro p hp
  have b := h p hp
  cases p <;> first | exact b | exact absurd (hk _ (by decide)) hp

theorem Changes.set_spareClock {l : List Part} {s t : State} {v0 : _} (hk : ∀ p ∈ ([.spareClock] : List Part), p ∈ l) (h : Changes l s t) :
    Changes l s { t with spareClock := v0 } := by
  intro p hp
  have b := h p hp
  cases p <;> first | exact b | exact absurd (hk _ (by decide)) hp

theorem Changes.set_spdm {l : List Part} {s t : State} {v0 : _} (hk : ∀ p ∈ ([.spdm] : List Part), p ∈ l) (h : Changes l s t) :
    Changes l s { t with spdm := v0 } := by
  intro p hp
  have b := h p hp
  cases p <;> first | exact b | exact absurd (hk _ (by decide)) hp

theorem Changes.set_stc {l : List Part} {s t : State} {v0 : _} (hk : ∀ p ∈ ([.stc] : List Part), p ∈ l) (h : Changes l s t) :
    Changes l s { t with stc := v0 } := by
  intro p hp
  have b := h p hp
  cases p <;> first | exact b | exact absurd (hk _ (by decide)) hp

theorem Changes.set_sys {l : List Part} {s t : State} {v0 : _} (hk : ∀ p ∈ ([.sys] : List Part), p ∈ l) (h : Changes l s t) :
    Changes l s { t with sys := v0 } := by
  intro p hp
  have b := h p hp
  cases p <;> first | exact b | exact absurd (hk _ (by decide)) hp

theorem Changes.set_twPkg {l : List Part} {s t : State} {v0 : _} (hk : ∀ p ∈ ([.twPkg] : List Part), p ∈ l) (h : Changes l s t) :
    Changes l s { t with twPkg := v0 } := by
  intro p hp
  have b := h p hp
  cases p <;> first | exact b | exact absurd (hk _ (by decide)) hp

theorem Changes.set_twp {l : List Part} {s t : State} {v0 : _} (hk : ∀ p ∈ ([.twp] : List Part), p ∈ l) (h : Changes l s t) :
    Changes l s { t with twp := v0 } := by
  intro p hp
  have b := h p hp
  cases p <;> first | exact b | exact absurd (hk _ (by decide)) hp

theorem Changes.set_alm_freeCtr {l : List Part} {s t : State} {v0 : _} {v1 : _} (hk : ∀ p ∈ ([.alm, .freeCtr] : List Part), p ∈ l) (h : Changes l s t) :
    Changes l s { t with alm := v0, freeCtr := v1 } := by
  intro p hp
  have b := h p hp
  cases p <;> first | exact b | exact absurd (hk _ (by decide)) hp

theorem Changes.set_alm_slu {l : List Part} {s t : State} {v0 : _} {v1 : _} (hk : ∀ p ∈ ([.alm, .slu] : List Part), p ∈ l) (h : Changes l s t) :
    Changes l s { t with alm := v0, slu := v1 } := by
  intro p hp
  have b := h p hp
  cases p <;> first | exact b | exact absurd (hk _ (by decide)) hp

theorem Changes.set_eye_freeCtr {l : List Part} {s t : State} {v0 : _} {v1 : _} (hk : ∀ p ∈ ([.eye, .freeCtr] : List Part), p ∈ l) (h : Changes l s t) :
    Changes l s { t with eye := v0, freeCtr := v1 } := by
  intro p hp
  have b := h p hp
  cases p <;> first | exact b | exact absurd (hk _ (by decide)) hp

theorem Changes.set_isl_slu {l : List Part} {s t : State} {v0 : _} {v1 : _} (hk : ∀ p ∈ ([.isl, .slu] : List Part), p ∈ l) (h : Changes l s t) :
    Changes l s { t with isl := v0, slu := v1 } := by
  intro p hp
  have b := h p hp
  cases p <;> first | exact b | exact absurd (hk _ (by decide)) hp

theorem Changes.set_iso_port {l : List Part} {s t : State} {v0 : _} {v1 : _} (hk : ∀ p ∈ ([.iso, .port] : List Part), p ∈ l) (h : Changes l s t) :
    Changes l s { t with iso := v0, port := v1 } := by
  intro p hp
  have b := h p hp
  cases p <;> first | exact b | exact absurd (hk _ (by decide)) hp

theorem Changes.set_port_link {l : List Part} {s t : State} {v0 : _} {v1 : _} (hk : ∀ p ∈ ([.port, .link] : List Part), p ∈ l) (h : Changes l s t) :
    Changes l s { t with port := v0, link := v1 } := by
  intro p hp
  have b := h p hp
  cases p <;> first | exact b | exact absurd (hk _ (by decide)) hp

theorem Changes.set_mer_meas {l : List Part} {s t : State} {v0 : _} {v1 : _} (hk : ∀ p ∈ ([.mer, .meas] : List Part), p ∈ l) (h : Changes l s t) :
    Changes l s { t with mer := v0, meas := v1 } := by
  intro p hp
  have b := h p hp
  cases p <;> first | exact b | exact absurd (hk _ (by decide)) hp

theorem Changes.set_port_sys {l : List Part} {s t : State} {v0 : _} {v1 : _} (hk : ∀ p ∈ ([.port, .sys] : List Part), p ∈ l) (h : Changes l s t) :
    Changes l s { t with port := v0, sys := v1 } := by
  intro p hp
  have b := h p hp
  cases p <;> first | exact b | exact absurd (hk _ (by decide)) hp

theorem Changes.set_ring_sys {l : List Part} {s t : State} {v0 : _} {v1 : _} (hk : ∀ p ∈ ([.ring, .sys] : List Part), p ∈ l) (h : Changes l s t) :
    Changes l s { t with ring := v0, sys := v1 } := by
  intro p hp
  have b := h p hp
  cases p <;> first | exact b | exact absurd (hk _ (by decide)) hp

theorem Changes.set_reach_keeper_eye {l : List Part} {s t : State} {v0 : _} {v1 : _} {v2 : _} (hk : ∀ p ∈ ([.reach, .keeper, .eye] : List Part), p ∈ l) (h : Changes l s t) :
    Changes l s { t with reach := v0, keeper := v1, eye := v2 } := by
  intro p hp
  have b := h p hp
  cases p <;> first | exact b | exact absurd (hk _ (by decide)) hp

theorem Changes.set_port_sys_link {l : List Part} {s t : State} {v0 : _} {v1 : _} {v2 : _} (hk : ∀ p ∈ ([.port, .sys, .link] : List Part), p ∈ l) (h : Changes l s t) :
    Changes l s { t with port := v0, sys := v1, link := v2 } := by
  intro p hp
  have b := h p hp
  cases p <;> first | exact b | exact absurd (hk _ (by decide)) hp

theorem Changes.set_pins_alm_stc_link {l : List Part} {s t : State} {v0 : _} {v1 : _} {v2 : _} {v3 : _} (hk : ∀ p ∈ ([.pins, .alm, .stc, .link] : List Part), p ∈ l) (h : Changes l s t) :
    Changes l s { t with pins := v0, alm := v1, stc := v2, link := v3 } := by
  intro p hp
  have b := h p hp
  cases p <;> first | exact b | exact absurd (hk _ (by decide)) hp

theorem Changes.set_pins_loader_and_3 {l : List Part} {s t : State} {v0 : _} {v1 : _} {v2 : _} {v3 : _} {v4 : _} (hk : ∀ p ∈ ([.pins, .loader, .stc, .spdm, .eye] : List Part), p ∈ l) (h : Changes l s t) :
    Changes l s { t with pins := v0, loader := v1, stc := v2, spdm := v3, eye := v4 } := by
  intro p hp
  have b := h p hp
  cases p <;> first | exact b | exact absurd (hk _ (by decide)) hp

theorem Changes.set_isl_mer_and_4 {l : List Part} {s t : State} {v0 : _} {v1 : _} {v2 : _} {v3 : _} {v4 : _} {v5 : _} (hk : ∀ p ∈ ([.isl, .mer, .alm, .stc, .slu, .link] : List Part), p ∈ l) (h : Changes l s t) :
    Changes l s { t with isl := v0, mer := v1, alm := v2, stc := v3, slu := v4, link := v5 } := by
  intro p hp
  have b := h p hp
  cases p <;> first | exact b | exact absurd (hk _ (by decide)) hp

theorem Changes.set_pins_mer_and_11 {l : List Part} {s t : State} {v0 : _} {v1 : _} {v2 : _} {v3 : _} {v4 : _} {v5 : _} {v6 : _} {v7 : _} {v8 : _} {v9 : _} {v10 : _} {v11 : _} {v12 : _} (hk : ∀ p ∈ ([.pins, .mer, .meas, .keeper, .eph, .ast, .alm, .twp, .slu, .spdm, .eye, .col, .chr] : List Part), p ∈ l) (h : Changes l s t) :
    Changes l s { t with pins := v0, mer := v1, meas := v2, keeper := v3, eph := v4, ast := v5, alm := v6, twp := v7, slu := v8, spdm := v9, eye := v10, col := v11, chr := v12 } := by
  intro p hp
  have b := h p hp
  cases p <;> first | exact b | exact absurd (hk _ (by decide)) hp

theorem Changes.set_iso_reach_and_20 {l : List Part} {s t : State} {v0 : _} {v1 : _} {v2 : _} {v3 : _} {v4 : _} {v5 : _} {v6 : _} {v7 : _} {v8 : _} {v9 : _} {v10 : _} {v11 : _} {v12 : _} {v13 : _} {v14 : _} {v15 : _} {v16 : _} {v17 : _} {v18 : _} {v19 : _} {v20 : _} {v21 : _} (hk : ∀ p ∈ ([.iso, .reach, .barge, .spareClock, .basin, .port, .twPkg, .loader, .keeper, .ring, .sys, .eph, .ast, .alm, .stc, .twp, .slu, .link, .spdm, .eye, .col, .flight] : List Part), p ∈ l) (h : Changes l s t) :
    Changes l s { t with iso := v0, reach := v1, barge := v2, spareClock := v3, basin := v4, port := v5, twPkg := v6, loader := v7, keeper := v8, ring := v9, sys := v10, eph := v11, ast := v12, alm := v13, stc := v14, twp := v15, slu := v16, link := v17, spdm := v18, eye := v19, col := v20, flight := v21 } := by
  intro p hp
  have b := h p hp
  cases p <;> first | exact b | exact absurd (hk _ (by decide)) hp

end Sys2Proof.Machine
end

