-- ==== Sys2Proof/Laws/FrameOps.lean ====
section
/-! SUPPORT. What each operation can change: the operations every family shares, keys, the Almanac, queues, link, rings and dredging. -/

namespace Sys2Proof.Machine

set_option Elab.async false

/-! ### Ops -/

theorem State.onAlm_changes (s : State) (f : Almanac → Almanac) :
    Changes [.alm] s (State.onAlm s f) := by
  unfold State.onAlm
  repeat' first
    | assumption
    | decide
    | with_reducible apply Changes.refl
    | dsimp only
    | split
    | with_reducible apply Changes.set_alm
    | simp only [id_eq]
    | (intro p hp; cases p <;> first | rfl | (exfalso; revert hp; decide))

theorem State.onAst_changes (s : State) (f : Astrolabe → Astrolabe) :
    Changes [.ast] s (State.onAst s f) := by
  unfold State.onAst
  repeat' first
    | assumption
    | decide
    | with_reducible apply Changes.refl
    | dsimp only
    | split
    | with_reducible apply Changes.set_ast
    | simp only [id_eq]
    | (intro p hp; cases p <;> first | rfl | (exfalso; revert hp; decide))

theorem State.onBarge_changes (s : State) (b : BargeId) (f : Barge → Barge) :
    Changes [.barge] s (State.onBarge s b f) := by
  unfold State.onBarge
  repeat' first
    | assumption
    | decide
    | with_reducible apply Changes.refl
    | dsimp only
    | split
    | with_reducible apply Changes.set_barge
    | simp only [id_eq]
    | (intro p hp; cases p <;> first | rfl | (exfalso; revert hp; decide))

theorem State.onBasin_changes (s : State) (f : Basin → Basin) :
    Changes [.basin] s (State.onBasin s f) := by
  unfold State.onBasin
  repeat' first
    | assumption
    | decide
    | with_reducible apply Changes.refl
    | dsimp only
    | split
    | with_reducible apply Changes.set_basin
    | simp only [id_eq]
    | (intro p hp; cases p <;> first | rfl | (exfalso; revert hp; decide))

theorem State.onCol_changes (s : State) (f : Collimator → Collimator) :
    Changes [.col] s (State.onCol s f) := by
  unfold State.onCol
  repeat' first
    | assumption
    | decide
    | with_reducible apply Changes.refl
    | dsimp only
    | split
    | with_reducible apply Changes.set_col
    | simp only [id_eq]
    | (intro p hp; cases p <;> first | rfl | (exfalso; revert hp; decide))

theorem State.onEph_changes (s : State) (f : Ephemeris → Ephemeris) :
    Changes [.eph] s (State.onEph s f) := by
  unfold State.onEph
  repeat' first
    | assumption
    | decide
    | with_reducible apply Changes.refl
    | dsimp only
    | split
    | with_reducible apply Changes.set_eph
    | simp only [id_eq]
    | (intro p hp; cases p <;> first | rfl | (exfalso; revert hp; decide))

theorem State.onEye_changes (s : State) (f : Eye → Eye) :
    Changes [.eye] s (State.onEye s f) := by
  unfold State.onEye
  repeat' first
    | assumption
    | decide
    | with_reducible apply Changes.refl
    | dsimp only
    | split
    | with_reducible apply Changes.set_eye
    | simp only [id_eq]
    | (intro p hp; cases p <;> first | rfl | (exfalso; revert hp; decide))

theorem State.onIsl_changes (s : State) (i : Fin 64) (f : Island → Island) :
    Changes [.isl] s (State.onIsl s i f) := by
  unfold State.onIsl
  repeat' first
    | assumption
    | decide
    | with_reducible apply Changes.refl
    | dsimp only
    | split
    | with_reducible apply Changes.set_isl
    | simp only [id_eq]
    | (intro p hp; cases p <;> first | rfl | (exfalso; revert hp; decide))

theorem State.onKeeper_changes (s : State) (r : SvcId) (f : Keeper → Keeper) :
    Changes [.keeper] s (State.onKeeper s r f) := by
  unfold State.onKeeper
  repeat' first
    | assumption
    | decide
    | with_reducible apply Changes.refl
    | dsimp only
    | split
    | with_reducible apply Changes.set_keeper
    | simp only [id_eq]
    | (intro p hp; cases p <;> first | rfl | (exfalso; revert hp; decide))

theorem State.onLink_changes (s : State) (l : LinkId) (f : Link → Link) :
    Changes [.link] s (State.onLink s l f) := by
  unfold State.onLink
  repeat' first
    | assumption
    | decide
    | with_reducible apply Changes.refl
    | dsimp only
    | split
    | with_reducible apply Changes.set_link
    | simp only [id_eq]
    | (intro p hp; cases p <;> first | rfl | (exfalso; revert hp; decide))

theorem State.onMer_changes (s : State) (f : Meridian → Meridian) :
    Changes [.mer] s (State.onMer s f) := by
  unfold State.onMer
  repeat' first
    | assumption
    | decide
    | with_reducible apply Changes.refl
    | dsimp only
    | split
    | with_reducible apply Changes.set_mer
    | simp only [id_eq]
    | (intro p hp; cases p <;> first | rfl | (exfalso; revert hp; decide))

theorem State.onPort_changes (s : State) (p : PortId) (f : Port → Port) :
    Changes [.port] s (State.onPort s p f) := by
  unfold State.onPort
  repeat' first
    | assumption
    | decide
    | with_reducible apply Changes.refl
    | dsimp only
    | split
    | with_reducible apply Changes.set_port
    | simp only [id_eq]
    | (intro p hp; cases p <;> first | rfl | (exfalso; revert hp; decide))

theorem State.onReach_changes (s : State) (r : ReachId) (f : Reach → Reach) :
    Changes [.reach] s (State.onReach s r f) := by
  unfold State.onReach
  repeat' first
    | assumption
    | decide
    | with_reducible apply Changes.refl
    | dsimp only
    | split
    | with_reducible apply Changes.set_reach
    | simp only [id_eq]
    | (intro p hp; cases p <;> first | rfl | (exfalso; revert hp; decide))

theorem State.onRing_changes (s : State) (r : SvcId) (f : RingBlock → RingBlock) :
    Changes [.ring] s (State.onRing s r f) := by
  unfold State.onRing
  repeat' first
    | assumption
    | decide
    | with_reducible apply Changes.refl
    | dsimp only
    | split
    | with_reducible apply Changes.set_ring
    | simp only [id_eq]
    | (intro p hp; cases p <;> first | rfl | (exfalso; revert hp; decide))

theorem State.onSlu_changes (s : State) (f : Sluice → Sluice) :
    Changes [.slu] s (State.onSlu s f) := by
  unfold State.onSlu
  repeat' first
    | assumption
    | decide
    | with_reducible apply Changes.refl
    | dsimp only
    | split
    | with_reducible apply Changes.set_slu
    | simp only [id_eq]
    | (intro p hp; cases p <;> first | rfl | (exfalso; revert hp; decide))

theorem State.onSpdm_changes (s : State) (f : Spdm → Spdm) :
    Changes [.spdm] s (State.onSpdm s f) := by
  unfold State.onSpdm
  repeat' first
    | assumption
    | decide
    | with_reducible apply Changes.refl
    | dsimp only
    | split
    | with_reducible apply Changes.set_spdm
    | simp only [id_eq]
    | (intro p hp; cases p <;> first | rfl | (exfalso; revert hp; decide))

theorem State.onStc_changes (s : State) (f : Staircase → Staircase) :
    Changes [.stc] s (State.onStc s f) := by
  unfold State.onStc
  repeat' first
    | assumption
    | decide
    | with_reducible apply Changes.refl
    | dsimp only
    | split
    | with_reducible apply Changes.set_stc
    | simp only [id_eq]
    | (intro p hp; cases p <;> first | rfl | (exfalso; revert hp; decide))

theorem State.onSys_changes (s : State) (f : SysPort → SysPort) :
    Changes [.sys] s (State.onSys s f) := by
  unfold State.onSys
  repeat' first
    | assumption
    | decide
    | with_reducible apply Changes.refl
    | dsimp only
    | split
    | with_reducible apply Changes.set_sys
    | simp only [id_eq]
    | (intro p hp; cases p <;> first | rfl | (exfalso; revert hp; decide))

theorem State.onTwp_changes (s : State) (f : Towpath → Towpath) :
    Changes [.twp] s (State.onTwp s f) := by
  unfold State.onTwp
  repeat' first
    | assumption
    | decide
    | with_reducible apply Changes.refl
    | dsimp only
    | split
    | with_reducible apply Changes.set_twp
    | simp only [id_eq]
    | (intro p hp; cases p <;> first | rfl | (exfalso; revert hp; decide))

theorem raiseIrq_changes (src : Fin 16) (s : State) :
    Changes [.sys] s (raiseIrq src s) := by
  unfold raiseIrq
  repeat' first
    | assumption
    | decide
    | with_reducible apply Changes.refl
    | with_reducible apply Changes.after (State.onSys_changes ..)
    | dsimp only
    | split
    | simp only [id_eq]
    | (intro p hp; cases p <;> first | rfl | (exfalso; revert hp; decide))

theorem emit_changes (e : Emit) (s : State) :
    Changes [.out] s (emit e s) := by
  unfold emit
  repeat' first
    | assumption
    | decide
    | with_reducible apply Changes.refl
    | dsimp only
    | split
    | with_reducible apply Changes.set_out
    | simp only [id_eq]
    | (intro p hp; cases p <;> first | rfl | (exfalso; revert hp; decide))

theorem refuse_changes (what : String) (status : Nat) (s : State) :
    Changes [.events] s (refuse what status s) := by
  unfold refuse
  repeat' first
    | assumption
    | decide
    | with_reducible apply Changes.refl
    | dsimp only
    | split
    | with_reducible apply Changes.set_events
    | simp only [id_eq]
    | (intro p hp; cases p <;> first | rfl | (exfalso; revert hp; decide))

theorem alert_changes (status : Nat) (unit : Nat) (island : Nat) (reach : Nat) (index : Nat) (cause : Nat) (s : State) :
    Changes [.alerts, .sys] s (alert status unit island reach index cause s) := by
  unfold alert
  repeat' first
    | assumption
    | decide
    | with_reducible apply Changes.refl
    | with_reducible apply Changes.after (raiseIrq_changes ..)
    | dsimp only
    | split
    | with_reducible apply Changes.set_alerts
    | simp only [id_eq]
    | (intro p hp; cases p <;> first | rfl | (exfalso; revert hp; decide))

theorem answer_changes (status : Nat) (data : Bytes) (s : State) :
    Changes [.out] s (answer status data s) := by
  unfold answer
  repeat' first
    | assumption
    | decide
    | with_reducible apply Changes.refl
    | with_reducible apply Changes.after (emit_changes ..)
    | dsimp only
    | split
    | simp only [id_eq]
    | (intro p hp; cases p <;> first | rfl | (exfalso; revert hp; decide))

theorem refuseMgmt_changes (what : String) (status : Nat) (s : State) :
    Changes [.out, .events] s (refuseMgmt what status s) := by
  unfold refuseMgmt
  repeat' first
    | assumption
    | decide
    | with_reducible apply Changes.refl
    | with_reducible apply Changes.after (answer_changes ..)
    | with_reducible apply Changes.after (refuse_changes ..)
    | dsimp only
    | split
    | simp only [id_eq]
    | (intro p hp; cases p <;> first | rfl | (exfalso; revert hp; decide))

theorem asType_changes (t : Nat) (s : State) :
    Changes [.spdm] s (asType t s) := by
  unfold asType
  repeat' first
    | assumption
    | decide
    | with_reducible apply Changes.refl
    | with_reducible apply Changes.after (State.onSpdm_changes ..)
    | dsimp only
    | split
    | simp only [id_eq]
    | (intro p hp; cases p <;> first | rfl | (exfalso; revert hp; decide))

theorem answerSpdm_changes (code : SpdmCode) (data : Bytes) (s : State) :
    Changes [.out] s (answerSpdm code data s) := by
  unfold answerSpdm
  repeat' first
    | assumption
    | decide
    | with_reducible apply Changes.refl
    | with_reducible apply Changes.after (emit_changes ..)
    | dsimp only
    | split
    | simp only [id_eq]
    | (intro p hp; cases p <;> first | rfl | (exfalso; revert hp; decide))

theorem audit_changes (a : Audit) (s : State) :
    Changes [.sys] s (audit a s) := by
  unfold audit
  repeat' first
    | assumption
    | decide
    | with_reducible apply Changes.refl
    | with_reducible apply Changes.after (raiseIrq_changes ..)
    | with_reducible apply Changes.after (State.onSys_changes ..)
    | dsimp only
    | split
    | simp only [id_eq]
    | (intro p hp; cases p <;> first | rfl | (exfalso; revert hp; decide))

theorem auditAccess_changes (offset : Nat) (written : Nat) (mid : Nat) (s : State) :
    Changes [.sys] s (auditAccess offset written mid s) := by
  unfold auditAccess
  repeat' first
    | assumption
    | decide
    | with_reducible apply Changes.refl
    | with_reducible apply Changes.after (audit_changes ..)
    | dsimp only
    | split
    | simp only [id_eq]
    | (intro p hp; cases p <;> first | rfl | (exfalso; revert hp; decide))

theorem nextFree_changes (s : State) :
    Changes [.freeCtr] s (nextFree s).2 := by
  unfold nextFree
  repeat' first
    | assumption
    | decide
    | with_reducible apply Changes.refl
    | dsimp only
    | split
    | with_reducible apply Changes.set_freeCtr
    | simp only [id_eq]
    | (intro p hp; cases p <;> first | rfl | (exfalso; revert hp; decide))

/-! ### ChrOps -/

theorem onUnit_changes (u : Nat) (f : ChrUnit → ChrUnit) (s : State) :
    Changes [.chr] s (onUnit u f s) := by
  unfold onUnit
  repeat' first
    | assumption
    | decide
    | with_reducible apply Changes.refl
    | dsimp only
    | split
    | with_reducible apply Changes.set_chr
    | simp only [id_eq]
    | (intro p hp; cases p <;> first | rfl | (exfalso; revert hp; decide))

theorem chrAlways_changes (u : Nat) (e : Fin 6) (n : Nat) (s : State) :
    Changes [.chr] s (chrAlways u e n s) := by
  unfold chrAlways
  repeat' first
    | assumption
    | decide
    | with_reducible apply Changes.refl
    | with_reducible apply Changes.after (onUnit_changes ..)
    | dsimp only
    | split
    | simp only [id_eq]
    | (intro p hp; cases p <;> first | rfl | (exfalso; revert hp; decide))

theorem chrBasin_changes (v : Nat) (e : Nat) (n : Nat) (s : State) :
    Changes [.chr] s (chrBasin v e n s) := by
  unfold chrBasin
  repeat' first
    | assumption
    | decide
    | with_reducible apply Changes.refl
    | with_reducible apply Changes.after (onUnit_changes ..)
    | dsimp only
    | split
    | simp only [id_eq]
    | (intro p hp; cases p <;> first | rfl | (exfalso; revert hp; decide))

theorem chrEvent_changes (u : Nat) (e : Nat) (reach : Nat) (n : Nat) (s : State) :
    Changes [.chr] s (chrEvent u e reach n s) := by
  unfold chrEvent
  repeat' first
    | assumption
    | decide
    | with_reducible apply Changes.refl
    | with_reducible apply Changes.after (onUnit_changes ..)
    | dsimp only
    | split
    | simp only [id_eq]
    | (intro p hp; cases p <;> first | rfl | (exfalso; revert hp; decide))

/-! ### KeyOps -/

theorem cutReads_changes (p : SlotId → Slot → Bool) (s : State) :
    Changes [.port] s (cutReads p s) := by
  unfold cutReads
  repeat' first
    | assumption
    | decide
    | with_reducible apply Changes.refl
    | dsimp only
    | split
    | with_reducible apply Changes.set_port
    | simp only [id_eq]
    | (intro p hp; cases p <;> first | rfl | (exfalso; revert hp; decide))

theorem ephCommand_changes (s : State) :
    Changes [.chr] s (ephCommand s) := by
  unfold ephCommand
  repeat' first
    | assumption
    | decide
    | with_reducible apply Changes.refl
    | with_reducible apply Changes.after (chrAlways_changes ..)
    | dsimp only
    | split
    | simp only [id_eq]
    | (intro p hp; cases p <;> first | rfl | (exfalso; revert hp; decide))

theorem invalidateSlots_changes (p : SlotId → Slot → Bool) (s : State) :
    Changes [.port, .eph, .chr] s (invalidateSlots p s) := by
  unfold invalidateSlots
  repeat' first
    | assumption
    | decide
    | with_reducible apply Changes.refl
    | with_reducible apply Changes.after (ephCommand_changes ..)
    | with_reducible apply Changes.after (State.onEph_changes ..)
    | with_reducible apply Changes.after (cutReads_changes ..)
    | dsimp only
    | split
    | simp only [id_eq]
    | (intro p hp; cases p <;> first | rfl | (exfalso; revert hp; decide))

theorem expireOwnerSlots_changes (owner : Nat) (s : State) :
    Changes [.eph, .chr] s (expireOwnerSlots owner s) := by
  unfold expireOwnerSlots
  repeat' first
    | assumption
    | decide
    | with_reducible apply Changes.refl
    | with_reducible apply Changes.after (ephCommand_changes ..)
    | with_reducible apply Changes.after (State.onEph_changes ..)
    | dsimp only
    | split
    | simp only [id_eq]
    | (intro p hp; cases p <;> first | rfl | (exfalso; revert hp; decide))

theorem invalidateOwnerSlots_changes (owner : Nat) (s : State) :
    Changes [.port, .eph, .chr] s (invalidateOwnerSlots owner s) := by
  unfold invalidateOwnerSlots
  repeat' first
    | assumption
    | decide
    | with_reducible apply Changes.refl
    | with_reducible apply Changes.after (invalidateSlots_changes ..)
    | dsimp only
    | split
    | simp only [id_eq]
    | (intro p hp; cases p <;> first | rfl | (exfalso; revert hp; decide))

theorem invalidateSlot_changes (i : SlotId) (s : State) :
    Changes [.port, .eph, .chr] s (invalidateSlot i s) := by
  unfold invalidateSlot
  repeat' first
    | assumption
    | decide
    | with_reducible apply Changes.refl
    | with_reducible apply Changes.after (invalidateSlots_changes ..)
    | dsimp only
    | split
    | simp only [id_eq]
    | (intro p hp; cases p <;> first | rfl | (exfalso; revert hp; decide))

theorem countDraws_changes (n : Nat) (s : State) :
    Changes [.eph] s (countDraws n s) := by
  unfold countDraws
  repeat' first
    | assumption
    | decide
    | with_reducible apply Changes.refl
    | with_reducible apply Changes.after (State.onEph_changes ..)
    | dsimp only
    | split
    | simp only [id_eq]
    | (intro p hp; cases p <;> first | rfl | (exfalso; revert hp; decide))

theorem draw_changes (n : Nat) (s : State) :
    Changes [.eph, .freeCtr] s (draw n s).2 := by
  unfold draw
  repeat' first
    | assumption
    | decide
    | with_reducible apply Changes.refl
    | with_reducible apply Changes.after (countDraws_changes ..)
    | dsimp only
    | split
    | with_reducible apply Changes.set_freeCtr
    | simp only [id_eq]
    | (intro p hp; cases p <;> first | rfl | (exfalso; revert hp; decide))

theorem useKey_changes (i : SlotId) (engine : Engine) (owner : Nat) (s : State) :
    Changes [.alerts, .sys, .eph] s (useKey i engine owner s).2.2 := by
  unfold useKey
  repeat' first
    | assumption
    | decide
    | with_reducible apply Changes.refl
    | with_reducible apply Changes.after (State.onEph_changes ..)
    | with_reducible apply Changes.after (alert_changes ..)
    | dsimp only
    | split
    | simp only [id_eq]
    | (intro p hp; cases p <;> first | rfl | (exfalso; revert hp; decide))

theorem extend_changes (i : Fin 16) (d : Bytes) (s : State) :
    Changes [.meas] s (extend i d s) := by
  unfold extend
  repeat' first
    | assumption
    | decide
    | with_reducible apply Changes.refl
    | dsimp only
    | split
    | with_reducible apply Changes.set_meas
    | simp only [id_eq]
    | (intro p hp; cases p <;> first | rfl | (exfalso; revert hp; decide))

theorem writeSlot_changes (i : SlotId) (key : Bytes) (klen : Nat) (parent : Option SlotId) (owner : Nat) (engines : List Engine) (lifetime : Lifetime) (uses : Nat) (s : State) :
    Changes [.eph, .chr] s (writeSlot i key klen parent owner engines lifetime uses s) := by
  unfold writeSlot
  repeat' first
    | assumption
    | decide
    | with_reducible apply Changes.refl
    | with_reducible apply Changes.after (ephCommand_changes ..)
    | with_reducible apply Changes.after (State.onEph_changes ..)
    | dsimp only
    | split
    | simp only [id_eq]
    | (intro p hp; cases p <;> first | rfl | (exfalso; revert hp; decide))

/-! ### AlmOps -/

theorem almStart_changes (who : AlmWho) (j : AlmJob) (s : State) :
    Changes [.alm] s (almStart who j s) := by
  unfold almStart
  repeat' first
    | assumption
    | decide
    | with_reducible apply Changes.refl
    | with_reducible apply Changes.after (State.onAlm_changes ..)
    | dsimp only
    | split
    | simp only [id_eq]
    | (intro p hp; cases p <;> first | rfl | (exfalso; revert hp; decide))

theorem almAlert_changes (status : Nat) (s : State) :
    Changes [.alerts, .sys] s (almAlert status s) := by
  unfold almAlert
  repeat' first
    | assumption
    | decide
    | with_reducible apply Changes.refl
    | with_reducible apply Changes.after (alert_changes ..)
    | dsimp only
    | split
    | simp only [id_eq]
    | (intro p hp; cases p <;> first | rfl | (exfalso; revert hp; decide))

theorem almAnswer_changes (status : Nat) (reply : Bytes) (s : State) :
    Changes [.spdm, .out] s (almAnswer status reply s) := by
  unfold almAnswer
  repeat' first
    | assumption
    | decide
    | with_reducible apply Changes.refl
    | with_reducible apply Changes.after (answer_changes ..)
    | with_reducible apply Changes.after (asType_changes ..)
    | dsimp only
    | split
    | simp only [id_eq]
    | (intro p hp; cases p <;> first | rfl | (exfalso; revert hp; decide))

theorem almNext_changes (s : State) :
    Changes [.alm] s (almNext s) := by
  unfold almNext
  repeat' first
    | assumption
    | decide
    | with_reducible apply Changes.refl
    | with_reducible apply Changes.after (State.onAlm_changes ..)
    | dsimp only
    | split
    | simp only [id_eq]
    | (intro p hp; cases p <;> first | rfl | (exfalso; revert hp; decide))

theorem almInterrupt_changes (status : Nat) (s : State) :
    Changes [.alm, .spdm, .freeCtr, .out] s (almInterrupt status s) := by
  unfold almInterrupt
  repeat' first
    | assumption
    | decide
    | with_reducible apply Changes.refl
    | with_reducible apply Changes.after (State.onAlm_changes ..)
    | with_reducible apply Changes.after (almNext_changes ..)
    | with_reducible apply Changes.after (almAnswer_changes ..)
    | dsimp only
    | split
    | with_reducible apply Changes.set_freeCtr
    | simp only [id_eq]
    | (intro p hp; cases p <;> first | rfl | (exfalso; revert hp; decide))

theorem almEnd_changes (status : Nat) (reply : Bytes) (s : State) :
    Changes [.alerts, .sys, .alm, .spdm, .out] s (almEnd status reply s) := by
  unfold almEnd
  repeat' first
    | assumption
    | decide
    | with_reducible apply Changes.refl
    | with_reducible apply Changes.after (almNext_changes ..)
    | with_reducible apply Changes.after (State.onAlm_changes ..)
    | with_reducible apply Changes.after (almAnswer_changes ..)
    | with_reducible apply Changes.after (almAlert_changes ..)
    | dsimp only
    | split
    | simp only [id_eq]
    | (intro p hp; cases p <;> first | rfl | (exfalso; revert hp; decide))

theorem measureAlmanac_changes (s : State) :
    Changes [.meas] s (measureAlmanac s) := by
  unfold measureAlmanac
  repeat' first
    | assumption
    | decide
    | with_reducible apply Changes.refl
    | with_reducible apply Changes.after (extend_changes ..)
    | dsimp only
    | split
    | simp only [id_eq]
    | (intro p hp; cases p <;> first | rfl | (exfalso; revert hp; decide))

/-! ### Operands -/

theorem sharePut_changes (s : State) (r : SvcId) (x : Nat) (v : Bytes) :
    Changes [.basin] s (sharePut s r x v) := by
  unfold sharePut
  repeat' first
    | assumption
    | decide
    | with_reducible apply Changes.refl
    | with_reducible apply Changes.after (State.onBasin_changes ..)
    | dsimp only
    | split
    | simp only [id_eq]
    | (intro p hp; cases p <;> first | rfl | (exfalso; revert hp; decide))

/-! ### LinkOps -/

theorem onChan_changes (l : LinkId) (c : Fin 9) (f : Chan → Chan) (s : State) :
    Changes [.link] s (onChan l c f s) := by
  unfold onChan
  repeat' first
    | assumption
    | decide
    | with_reducible apply Changes.refl
    | with_reducible apply Changes.after (State.onLink_changes ..)
    | dsimp only
    | split
    | simp only [id_eq]
    | (intro p hp; cases p <;> first | rfl | (exfalso; revert hp; decide))

theorem queueFrame_changes (l : LinkId) (c : Fin 9) (f : OutFrame) (s : State) :
    Changes [.link] s (queueFrame l c f s) := by
  unfold queueFrame
  repeat' first
    | assumption
    | decide
    | with_reducible apply Changes.refl
    | with_reducible apply Changes.after (onChan_changes ..)
    | dsimp only
    | split
    | simp only [id_eq]
    | (intro p hp; cases p <;> first | rfl | (exfalso; revert hp; decide))

theorem closeChan_changes (l : LinkId) (c : Fin 9) (s : State) :
    Changes [.port, .eph, .link, .chr] s (closeChan l c s) := by
  unfold closeChan
  repeat' first
    | assumption
    | decide
    | with_reducible apply Changes.refl
    | with_reducible apply Changes.after (invalidateSlot_changes ..)
    | with_reducible apply Changes.after (onChan_changes ..)
    | dsimp only
    | split
    | simp only [id_eq]
    | (intro p hp; cases p <;> first | rfl | (exfalso; revert hp; decide))

theorem sendClose_changes (l : LinkId) (c : Fin 9) (s : State) :
    Changes [.port, .eph, .link, .chr] s (sendClose l c s) := by
  unfold sendClose
  repeat' first
    | assumption
    | decide
    | with_reducible apply Changes.refl
    | with_reducible apply Changes.after (onChan_changes ..)
    | with_reducible apply Changes.after (closeChan_changes ..)
    | dsimp only
    | split
    | simp only [id_eq]
    | (intro p hp; cases p <;> first | rfl | (exfalso; revert hp; decide))

theorem dropChan_changes (l : LinkId) (c : Fin 9) (s : State) :
    Changes [.port, .eph, .link, .chr] s (dropChan l c s) := by
  unfold dropChan
  repeat' first
    | assumption
    | decide
    | with_reducible apply Changes.refl
    | with_reducible apply Changes.after (onChan_changes ..)
    | with_reducible apply Changes.after (closeChan_changes ..)
    | dsimp only
    | split
    | simp only [id_eq]
    | (intro p hp; cases p <;> first | rfl | (exfalso; revert hp; decide))

theorem linkAlert_changes (l : LinkId) (c : Fin 9) (cause : Nat) (s : State) :
    Changes [.alerts, .sys] s (linkAlert l c cause s) := by
  unfold linkAlert
  repeat' first
    | assumption
    | decide
    | with_reducible apply Changes.refl
    | with_reducible apply Changes.after (alert_changes ..)
    | dsimp only
    | split
    | simp only [id_eq]
    | (intro p hp; cases p <;> first | rfl | (exfalso; revert hp; decide))

theorem orderExchange_changes (l : LinkId) (r : ReachId) (s : State) :
    Changes [.link] s (orderExchange l r s) := by
  unfold orderExchange
  repeat' first
    | assumption
    | decide
    | with_reducible apply Changes.refl
    | with_reducible apply Changes.after (queueFrame_changes ..)
    | with_reducible apply Changes.after (onChan_changes ..)
    | dsimp only
    | split
    | simp only [id_eq]
    | (intro p hp; cases p <;> first | rfl | (exfalso; revert hp; decide))

theorem orderExchanges_changes (r : ReachId) (s : State) :
    Changes [.link] s (orderExchanges r s) := by
  unfold orderExchanges
  repeat' first
    | assumption
    | decide
    | with_reducible apply Changes.refl
    | with_reducible apply Changes.after (orderExchange_changes ..)
    | with_reducible apply Changes.after (forAll_changes (fun _ _ => ?_) _ _) (fun _ h => h)
    | dsimp only
    | split
    | simp only [id_eq]
    | (intro p hp; cases p <;> first | rfl | (exfalso; revert hp; decide))

theorem handshakeFailure_changes (l : LinkId) (c : Fin 9) (s : State) :
    Changes [.alerts, .sys, .link] s (handshakeFailure l c s) := by
  unfold handshakeFailure
  repeat' first
    | assumption
    | decide
    | with_reducible apply Changes.refl
    | with_reducible apply Changes.after (linkAlert_changes ..)
    | with_reducible apply Changes.after (onChan_changes ..)
    | dsimp only
    | split
    | simp only [id_eq]
    | (intro p hp; cases p <;> first | rfl | (exfalso; revert hp; decide))

theorem failHandshakes_changes (n : ReachId) (s : State) :
    Changes [.alerts, .sys, .link] s (failHandshakes n s) := by
  unfold failHandshakes
  repeat' first
    | assumption
    | decide
    | with_reducible apply Changes.refl
    | with_reducible apply Changes.after (handshakeFailure_changes ..)
    | with_reducible apply Changes.after (forAll_changes (fun _ _ => ?_) _ _) (fun _ h => h)
    | dsimp only
    | split
    | simp only [id_eq]
    | (intro p hp; cases p <;> first | rfl | (exfalso; revert hp; decide))

theorem frameMade_changes (l : LinkId) (c : Fin 9) (f : OutFrame) (s : State) :
    Changes [.link] s (frameMade l c f s) := by
  unfold frameMade
  repeat' first
    | assumption
    | decide
    | with_reducible apply Changes.refl
    | with_reducible apply Changes.after (onChan_changes ..)
    | dsimp only
    | split
    | simp only [id_eq]
    | (intro p hp; cases p <;> first | rfl | (exfalso; revert hp; decide))

theorem sendFrame_changes (l : LinkId) (c : Fin 9) (f : OutFrame) (s : State) :
    Changes [.link, .out] s (sendFrame l c f s) := by
  unfold sendFrame
  repeat' first
    | assumption
    | decide
    | with_reducible apply Changes.refl
    | with_reducible apply Changes.after (emit_changes ..)
    | with_reducible apply Changes.after (frameMade_changes ..)
    | dsimp only
    | split
    | simp only [id_eq]
    | (intro p hp; cases p <;> first | rfl | (exfalso; revert hp; decide))

/-! ### RingOps -/

theorem sysRequest_changes (r : SvcId) (q : SysReq) (s : State) :
    Changes [.sys] s (sysRequest r q s) := by
  unfold sysRequest
  repeat' first
    | assumption
    | decide
    | with_reducible apply Changes.refl
    | with_reducible apply Changes.after (State.onSys_changes ..)
    | dsimp only
    | split
    | simp only [id_eq]
    | (intro p hp; cases p <;> first | rfl | (exfalso; revert hp; decide))

theorem pumpCq_changes (r : SvcId) (s : State) :
    Changes [.ring, .sys] s (pumpCq r s) := by
  unfold pumpCq
  repeat' first
    | assumption
    | decide
    | with_reducible apply Changes.refl
    | with_reducible apply Changes.after (sysRequest_changes ..)
    | with_reducible apply Changes.after (State.onRing_changes ..)
    | dsimp only
    | split
    | simp only [id_eq]
    | (intro p hp; cases p <;> first | rfl | (exfalso; revert hp; decide))

theorem postGroup_changes (r : SvcId) (l : List Rec) (s : State) :
    Changes [.ring, .sys] s (postGroup r l s) := by
  unfold postGroup
  repeat' first
    | assumption
    | decide
    | with_reducible apply Changes.refl
    | with_reducible apply Changes.after (pumpCq_changes ..)
    | with_reducible apply Changes.after (State.onRing_changes ..)
    | dsimp only
    | split
    | simp only [id_eq]
    | (intro p hp; cases p <;> first | rfl | (exfalso; revert hp; decide))

theorem postEach_changes (r : SvcId) (l : List Rec) (s : State) :
    Changes [.ring, .sys] s (postEach r l s) := by
  unfold postEach
  repeat' first
    | assumption
    | decide
    | with_reducible apply Changes.refl
    | with_reducible apply Changes.after (postGroup_changes ..)
    | with_reducible apply Changes.after (forAll_changes (fun _ _ => ?_) _ _) (fun _ h => h)
    | dsimp only
    | split
    | simp only [id_eq]
    | (intro p hp; cases p <;> first | rfl | (exfalso; revert hp; decide))

theorem resetRings_changes (r : SvcId) (s : State) :
    Changes [.ring, .sys] s (resetRings r s) := by
  unfold resetRings
  repeat' first
    | assumption
    | decide
    | with_reducible apply Changes.refl
    | dsimp only
    | split
    | with_reducible apply Changes.set_ring_sys
    | simp only [id_eq]
    | (intro p hp; cases p <;> first | rfl | (exfalso; revert hp; decide))

theorem holdFetches_changes (r : SvcId) (s : State) :
    Changes [.ring, .sys] s (holdFetches r s) := by
  unfold holdFetches
  repeat' first
    | assumption
    | decide
    | with_reducible apply Changes.refl
    | with_reducible apply Changes.after (State.onSys_changes ..)
    | with_reducible apply Changes.after (State.onRing_changes ..)
    | dsimp only
    | split
    | simp only [id_eq]
    | (intro p hp; cases p <;> first | rfl | (exfalso; revert hp; decide))

theorem ringFaultAlert_changes (r : SvcId) (s : State) :
    Changes [.alerts, .sys] s (ringFaultAlert r s) := by
  unfold ringFaultAlert
  repeat' first
    | assumption
    | decide
    | with_reducible apply Changes.refl
    | with_reducible apply Changes.after (raiseIrq_changes ..)
    | with_reducible apply Changes.after (alert_changes ..)
    | dsimp only
    | split
    | simp only [id_eq]
    | (intro p hp; cases p <;> first | rfl | (exfalso; revert hp; decide))

theorem cqFault_changes (r : SvcId) (s : State) :
    Changes [.alerts, .ring, .sys] s (cqFault r s) := by
  unfold cqFault
  repeat' first
    | assumption
    | decide
    | with_reducible apply Changes.refl
    | with_reducible apply Changes.after (ringFaultAlert_changes ..)
    | with_reducible apply Changes.after (State.onRing_changes ..)
    | with_reducible apply Changes.after (holdFetches_changes ..)
    | dsimp only
    | split
    | simp only [id_eq]
    | (intro p hp; cases p <;> first | rfl | (exfalso; revert hp; decide))

theorem recordAcked_changes (r : SvcId) (s : State) :
    Changes [.ring, .sys] s (recordAcked r s) := by
  unfold recordAcked
  repeat' first
    | assumption
    | decide
    | with_reducible apply Changes.refl
    | with_reducible apply Changes.after (pumpCq_changes ..)
    | with_reducible apply Changes.after (State.onRing_changes ..)
    | with_reducible apply Changes.after (sysRequest_changes ..)
    | dsimp only
    | split
    | simp only [id_eq]
    | (intro p hp; cases p <;> first | rfl | (exfalso; revert hp; decide))

theorem pumpSq_changes (r : SvcId) (q : Fin 2) (s : State) :
    Changes [.ring, .sys] s (pumpSq r q s) := by
  unfold pumpSq
  repeat' first
    | assumption
    | decide
    | with_reducible apply Changes.refl
    | with_reducible apply Changes.after (sysRequest_changes ..)
    | with_reducible apply Changes.after (State.onRing_changes ..)
    | dsimp only
    | split
    | simp only [id_eq]
    | (intro p hp; cases p <;> first | rfl | (exfalso; revert hp; decide))

theorem sqFault_changes (r : SvcId) (q : Fin 2) (s : State) :
    Changes [.alerts, .ring, .sys] s (sqFault r q s) := by
  unfold sqFault
  repeat' first
    | assumption
    | decide
    | with_reducible apply Changes.refl
    | with_reducible apply Changes.after (ringFaultAlert_changes ..)
    | with_reducible apply Changes.after (State.onRing_changes ..)
    | dsimp only
    | split
    | simp only [id_eq]
    | (intro p hp; cases p <;> first | rfl | (exfalso; revert hp; decide))

/-! ### TwpOps -/

theorem onTwpChan_changes (c : ChanId) (f : TwpChan → TwpChan) (s : State) :
    Changes [.twp] s (onTwpChan c f s) := by
  unfold onTwpChan
  repeat' first
    | assumption
    | decide
    | with_reducible apply Changes.refl
    | with_reducible apply Changes.after (State.onTwp_changes ..)
    | dsimp only
    | split
    | simp only [id_eq]
    | (intro p hp; cases p <;> first | rfl | (exfalso; revert hp; decide))

theorem onEndpoint_changes (e : Nat) (f : Endpoint → Endpoint) (s : State) :
    Changes [.twp] s (onEndpoint e f s) := by
  unfold onEndpoint
  repeat' first
    | assumption
    | decide
    | with_reducible apply Changes.refl
    | with_reducible apply Changes.after (State.onTwp_changes ..)
    | dsimp only
    | split
    | simp only [id_eq]
    | (intro p hp; cases p <;> first | rfl | (exfalso; revert hp; decide))

theorem twpIrq_changes (e : Nat) (s : State) :
    Changes [.sys] s (twpIrq e s) := by
  unfold twpIrq
  repeat' first
    | assumption
    | decide
    | with_reducible apply Changes.refl
    | with_reducible apply Changes.after (raiseIrq_changes ..)
    | dsimp only
    | split
    | simp only [id_eq]
    | (intro p hp; cases p <;> first | rfl | (exfalso; revert hp; decide))

theorem postMsg_changes (c : ChanId) (s : State) :
    Changes [.sys, .twp] s (postMsg c s) := by
  unfold postMsg
  repeat' first
    | assumption
    | decide
    | with_reducible apply Changes.refl
    | with_reducible apply Changes.after (twpIrq_changes ..)
    | with_reducible apply Changes.after (onEndpoint_changes ..)
    | with_reducible apply Changes.after (onTwpChan_changes ..)
    | dsimp only
    | split
    | simp only [id_eq]
    | (intro p hp; cases p <;> first | rfl | (exfalso; revert hp; decide))

theorem takeMsg_changes (c : ChanId) (s : State) :
    Changes [.sys, .twp] s (takeMsg c s) := by
  unfold takeMsg
  repeat' first
    | assumption
    | decide
    | with_reducible apply Changes.refl
    | with_reducible apply Changes.after (twpIrq_changes ..)
    | with_reducible apply Changes.after (onEndpoint_changes ..)
    | with_reducible apply Changes.after (onTwpChan_changes ..)
    | dsimp only
    | split
    | simp only [id_eq]
    | (intro p hp; cases p <;> first | rfl | (exfalso; revert hp; decide))

theorem clearChannel_changes (c : ChanId) (s : State) :
    Changes [.sys, .twp] s (clearChannel c s) := by
  unfold clearChannel
  repeat' first
    | assumption
    | decide
    | with_reducible apply Changes.refl
    | with_reducible apply Changes.after (onEndpoint_changes ..)
    | with_reducible apply Changes.after (takeMsg_changes ..)
    | dsimp only
    | split
    | simp only [id_eq]
    | (intro p hp; cases p <;> first | rfl | (exfalso; revert hp; decide))

theorem bindChan_changes (c : ChanId) (sender : Nat) (receiver : Nat) (s : State) :
    Changes [.twp] s (bindChan c sender receiver s) := by
  unfold bindChan
  repeat' first
    | assumption
    | decide
    | with_reducible apply Changes.refl
    | with_reducible apply Changes.after (onTwpChan_changes ..)
    | dsimp only
    | split
    | simp only [id_eq]
    | (intro p hp; cases p <;> first | rfl | (exfalso; revert hp; decide))

theorem bindDrydock_changes (s : State) :
    Changes [.twp] s (bindDrydock s) := by
  unfold bindDrydock
  repeat' first
    | assumption
    | decide
    | with_reducible apply Changes.refl
    | with_reducible apply Changes.after (State.onTwp_changes ..)
    | with_reducible apply Changes.after (bindChan_changes ..)
    | dsimp only
    | split
    | simp only [id_eq]
    | (intro p hp; cases p <;> first | rfl | (exfalso; revert hp; decide))

theorem bindAll_changes (s : State) :
    Changes [.twp] s (bindAll s) := by
  unfold bindAll
  repeat' first
    | assumption
    | decide
    | with_reducible apply Changes.refl
    | with_reducible apply Changes.after (bindChan_changes ..)
    | with_reducible apply Changes.after (State.onTwp_changes ..)
    | with_reducible apply Changes.after (forAll_changes (fun _ _ => ?_) _ _) (fun _ h => h)
    | dsimp only
    | split
    | simp only [id_eq]
    | (intro p hp; cases p <;> first | rfl | (exfalso; revert hp; decide))

/-! ### DredgeOps -/

theorem abortBarge_changes (b : BargeId) (s : State) :
    Changes [.barge] s (abortBarge b s) := by
  unfold abortBarge
  repeat' first
    | assumption
    | decide
    | with_reducible apply Changes.refl
    | with_reducible apply Changes.after (State.onBarge_changes ..)
    | dsimp only
    | split
    | simp only [id_eq]
    | (intro p hp; cases p <;> first | rfl | (exfalso; revert hp; decide))

theorem dropFlight_changes (r : SvcId) (s : State) :
    Changes [.flight] s (dropFlight r s) := by
  unfold dropFlight
  repeat' first
    | assumption
    | decide
    | with_reducible apply Changes.refl
    | dsimp only
    | split
    | with_reducible apply Changes.set_flight
    | simp only [id_eq]
    | (intro p hp; cases p <;> first | rfl | (exfalso; revert hp; decide))

theorem dropInputRequests_changes (r : SvcId) (s : State) :
    Changes [.sys] s (dropInputRequests r s) := by
  unfold dropInputRequests
  repeat' first
    | assumption
    | decide
    | with_reducible apply Changes.refl
    | with_reducible apply Changes.after (State.onSys_changes ..)
    | dsimp only
    | split
    | simp only [id_eq]
    | (intro p hp; cases p <;> first | rfl | (exfalso; revert hp; decide))

theorem clearUnitCounters_changes (u : Nat) (s : State) :
    Changes [.chr] s (clearUnitCounters u s) := by
  unfold clearUnitCounters
  repeat' first
    | assumption
    | decide
    | with_reducible apply Changes.refl
    | with_reducible apply Changes.after (onUnit_changes ..)
    | dsimp only
    | split
    | simp only [id_eq]
    | (intro p hp; cases p <;> first | rfl | (exfalso; revert hp; decide))

theorem traceEntry_changes (kind : Nat) (reach : Nat) (logical : Nat) (s : State) :
    Changes [.eye, .freeCtr] s (traceEntry kind reach logical s) := by
  unfold traceEntry
  repeat' first
    | assumption
    | decide
    | with_reducible apply Changes.refl
    | dsimp only
    | split
    | with_reducible apply Changes.set_eye_freeCtr
    | simp only [id_eq]
    | (intro p hp; cases p <;> first | rfl | (exfalso; revert hp; decide))

theorem traceReach_changes (kind : Nat) (r : SvcId) (logical : Nat) (s : State) :
    Changes [.eye, .freeCtr] s (traceReach kind r logical s) := by
  unfold traceReach
  repeat' first
    | assumption
    | decide
    | with_reducible apply Changes.refl
    | with_reducible apply Changes.after (traceEntry_changes ..)
    | dsimp only
    | split
    | simp only [id_eq]
    | (intro p hp; cases p <;> first | rfl | (exfalso; revert hp; decide))

theorem discardPorts_changes (r : SvcId) (s : State) :
    Changes [.port] s (discardPorts r s) := by
  unfold discardPorts
  repeat' first
    | assumption
    | decide
    | with_reducible apply Changes.refl
    | dsimp only
    | split
    | with_reducible apply Changes.set_port
    | simp only [id_eq]
    | (intro p hp; cases p <;> first | rfl | (exfalso; revert hp; decide))

theorem clearBasinCounters_changes (u : Nat) (s : State) :
    Changes [.chr] s (clearBasinCounters u s) := by
  unfold clearBasinCounters
  repeat' first
    | assumption
    | decide
    | with_reducible apply Changes.refl
    | with_reducible apply Changes.after (onUnit_changes ..)
    | dsimp only
    | split
    | simp only [id_eq]
    | (intro p hp; cases p <;> first | rfl | (exfalso; revert hp; decide))

theorem clearUnit_changes (u : Nat) (s : State) :
    Changes [.basin, .chr] s (clearUnit u s) := by
  unfold clearUnit
  repeat' first
    | assumption
    | decide
    | with_reducible apply Changes.refl
    | with_reducible apply Changes.after (clearBasinCounters_changes ..)
    | with_reducible apply Changes.after (State.onBasin_changes ..)
    | dsimp only
    | split
    | simp only [id_eq]
    | (intro p hp; cases p <;> first | rfl | (exfalso; revert hp; decide))

theorem setUnitOwner_changes (u : Nat) (o : Nat) (s : State) :
    Changes [.basin] s (setUnitOwner u o s) := by
  unfold setUnitOwner
  repeat' first
    | assumption
    | decide
    | with_reducible apply Changes.refl
    | with_reducible apply Changes.after (State.onBasin_changes ..)
    | dsimp only
    | split
    | simp only [id_eq]
    | (intro p hp; cases p <;> first | rfl | (exfalso; revert hp; decide))

theorem dropBargeRequests_changes (b : BargeId) (s : State) :
    Changes [.port] s (dropBargeRequests b s) := by
  unfold dropBargeRequests
  repeat' first
    | assumption
    | decide
    | with_reducible apply Changes.refl
    | dsimp only
    | split
    | with_reducible apply Changes.set_port
    | simp only [id_eq]
    | (intro p hp; cases p <;> first | rfl | (exfalso; revert hp; decide))

theorem clearBarge_changes (b : BargeId) (s : State) :
    Changes [.barge, .port, .chr] s (clearBarge b s) := by
  unfold clearBarge
  repeat' first
    | assumption
    | decide
    | with_reducible apply Changes.refl
    | with_reducible apply Changes.after (clearUnitCounters_changes ..)
    | with_reducible apply Changes.after (State.onBarge_changes ..)
    | with_reducible apply Changes.after (dropBargeRequests_changes ..)
    | dsimp only
    | split
    | simp only [id_eq]
    | (intro p hp; cases p <;> first | rfl | (exfalso; revert hp; decide))

theorem dropAsk_changes (b : BargeId) (s : State) :
    Changes [.col] s (dropAsk b s) := by
  unfold dropAsk
  repeat' first
    | assumption
    | decide
    | with_reducible apply Changes.refl
    | with_reducible apply Changes.after (State.onCol_changes ..)
    | dsimp only
    | split
    | simp only [id_eq]
    | (intro p hp; cases p <;> first | rfl | (exfalso; revert hp; decide))

theorem enterSpare_changes (b : BargeId) (s : State) :
    Changes [.barge, .spareClock, .col] s (enterSpare b s) := by
  unfold enterSpare
  repeat' first
    | assumption
    | decide
    | with_reducible apply Changes.refl
    | with_reducible apply Changes.after (dropAsk_changes ..)
    | with_reducible apply Changes.after (State.onBarge_changes ..)
    | dsimp only
    | split
    | with_reducible apply Changes.set_spareClock
    | simp only [id_eq]
    | (intro p hp; cases p <;> first | rfl | (exfalso; revert hp; decide))

theorem setReachState_changes (n : ReachId) (st : RState) (s : State) :
    Changes [.reach, .sys, .slu, .eye, .freeCtr] s (setReachState n st s) := by
  unfold setReachState withNotice
  repeat' first
    | assumption
    | decide
    | with_reducible apply Changes.refl
    | with_reducible apply Changes.after (traceReach_changes ..)
    | with_reducible apply Changes.after (raiseIrq_changes ..)
    | with_reducible apply Changes.after (State.onSlu_changes ..)
    | with_reducible apply Changes.after (State.onReach_changes ..)
    | dsimp only
    | split
    | simp only [id_eq]
    | (intro p hp; cases p <;> first | rfl | (exfalso; revert hp; decide))

theorem clearReachCounters_changes (n : ReachId) (toReset : Bool) (s : State) :
    Changes [.chr] s (clearReachCounters n toReset s) := by
  unfold clearReachCounters
  repeat' first
    | assumption
    | decide
    | with_reducible apply Changes.refl
    | dsimp only
    | split
    | with_reducible apply Changes.set_chr
    | simp only [id_eq]
    | (intro p hp; cases p <;> first | rfl | (exfalso; revert hp; decide))

theorem keepContexts_changes (r : SvcId) (s : State) :
    Changes [.ring] s (keepContexts r s) := by
  unfold keepContexts
  repeat' first
    | assumption
    | decide
    | with_reducible apply Changes.refl
    | with_reducible apply Changes.after (State.onRing_changes ..)
    | dsimp only
    | split
    | simp only [id_eq]
    | (intro p hp; cases p <;> first | rfl | (exfalso; revert hp; decide))

theorem startBargeDredge_changes (b : BargeId) (next : AfterDredge) (s : State) :
    Changes [.barge, .port] s (startBargeDredge b next s) := by
  unfold startBargeDredge
  repeat' first
    | assumption
    | decide
    | with_reducible apply Changes.refl
    | with_reducible apply Changes.after (dropBargeRequests_changes ..)
    | with_reducible apply Changes.after (State.onBarge_changes ..)
    | dsimp only
    | split
    | simp only [id_eq]
    | (intro p hp; cases p <;> first | rfl | (exfalso; revert hp; decide))

theorem stopMigrations_changes (r : SvcId) (s : State) :
    Changes [.barge, .col] s (stopMigrations r s) := by
  unfold stopMigrations
  repeat' first
    | assumption
    | decide
    | with_reducible apply Changes.refl
    | with_reducible apply Changes.after (State.onBarge_changes ..)
    | with_reducible apply Changes.after (State.onCol_changes ..)
    | with_reducible apply Changes.after (forAll_changes (fun _ _ => ?_) _ _) (fun _ h => h)
    | dsimp only
    | split
    | simp only [id_eq]
    | (intro p hp; cases p <;> first | rfl | (exfalso; revert hp; decide))

theorem endReachSessions_changes (n : ReachId) (s : State) :
    Changes [.spdm] s (endReachSessions n s) := by
  unfold endReachSessions
  repeat' first
    | assumption
    | decide
    | with_reducible apply Changes.refl
    | with_reducible apply Changes.after (State.onSpdm_changes ..)
    | dsimp only
    | split
    | simp only [id_eq]
    | (intro p hp; cases p <;> first | rfl | (exfalso; revert hp; decide))

theorem beginDredge_changes (n : ReachId) (kind : DredgeKind) (s : State) : Changes [.reach, .barge, .port, .keeper, .ring, .sys, .eph, .twp, .slu, .link, .spdm, .eye, .col, .chr, .flight, .freeCtr] s (beginDredge n kind s) := by
  unfold beginDredge
  extract_lets r c s1 s2 s3 s4 s5 s6 s7 s8 s9 s10
  have h1 : Changes [.reach, .barge, .port, .keeper, .ring, .sys, .eph, .twp, .slu, .link, .spdm, .eye, .col, .chr, .flight, .freeCtr] s s1 := by
    refine forAll_changes (fun l t => ?_) _ _
    split
    · exact (dropChan_changes _ _ _).mono (by decide)
    · split
      · exact (sendClose_changes _ _ _).mono (by decide)
      · exact Changes.refl _ _
  have h2 : Changes [.reach, .barge, .port, .keeper, .ring, .sys, .eph, .twp, .slu, .link, .spdm, .eye, .col, .chr, .flight, .freeCtr] s s2 := by
    refine Changes.after (k := [.reach, .barge, .port, .keeper, .ring, .sys, .eph, .twp, .slu, .link, .spdm, .eye, .col, .chr, .flight, .freeCtr]) (t := s1) ?_ (fun _ h => h) h1
    unfold s2
    split
    · exact (endReachSessions_changes _ _).after (by decide) ((invalidateOwnerSlots_changes _ _).mono (by decide))
    · exact (endReachSessions_changes _ _).after (by decide) ((invalidateOwnerSlots_changes _ _).mono (by decide))
    · exact (endReachSessions_changes _ _).after (by decide) ((invalidateOwnerSlots_changes _ _).mono (by decide))
    · exact (expireOwnerSlots_changes _ _).mono (by decide)
  have h3 : Changes [.reach, .barge, .port, .keeper, .ring, .sys, .eph, .twp, .slu, .link, .spdm, .eye, .col, .chr, .flight, .freeCtr] s s3 := (clearChannel_changes _ _).after (by decide) ((clearChannel_changes _ _).after (by decide) h2)
  have h4 : Changes [.reach, .barge, .port, .keeper, .ring, .sys, .eph, .twp, .slu, .link, .spdm, .eye, .col, .chr, .flight, .freeCtr] s s4 := (stopMigrations_changes _ _).after (by decide) h3
  have h5 : Changes [.reach, .barge, .port, .keeper, .ring, .sys, .eph, .twp, .slu, .link, .spdm, .eye, .col, .chr, .flight, .freeCtr] s s5 :=
    (forAll_changes (fun _ _ => (startBargeDredge_changes _ _ _).mono (by decide)) _ _).after (fun _ h => h) h4
  have h6 : Changes [.reach, .barge, .port, .keeper, .ring, .sys, .eph, .twp, .slu, .link, .spdm, .eye, .col, .chr, .flight, .freeCtr] s s6 := (dropInputRequests_changes _ _).after (by decide) ((discardPorts_changes _ _).after (by decide) h5)
  have h7 : Changes [.reach, .barge, .port, .keeper, .ring, .sys, .eph, .twp, .slu, .link, .spdm, .eye, .col, .chr, .flight, .freeCtr] s s7 := (clearUnitCounters_changes _ _).after (by decide) ((keepContexts_changes _ _).after (by decide) ((State.onKeeper_changes _ _ _).after (by decide) h6))
  have h8 : Changes [.reach, .barge, .port, .keeper, .ring, .sys, .eph, .twp, .slu, .link, .spdm, .eye, .col, .chr, .flight, .freeCtr] s s8 := (clearReachCounters_changes _ _ _).after (by decide) h7
  have h9 : Changes [.reach, .barge, .port, .keeper, .ring, .sys, .eph, .twp, .slu, .link, .spdm, .eye, .col, .chr, .flight, .freeCtr] s s9 := (dropFlight_changes _ _).after (by decide) h8
  have h10 : Changes [.reach, .barge, .port, .keeper, .ring, .sys, .eph, .twp, .slu, .link, .spdm, .eye, .col, .chr, .flight, .freeCtr] s s10 := (State.onReach_changes _ _ _).after (by decide) h9
  split
  · exact h10
  · split
    · exact h10
    · exact (setReachState_changes _ _ _).after (by decide) h10
  · exact (setReachState_changes _ _ _).after (by decide) h10

theorem setUnitEpoch_changes (u : Nat) (e : Nat) (s : State) :
    Changes [.basin] s (setUnitEpoch u e s) := by
  unfold setUnitEpoch
  repeat' first
    | assumption
    | decide
    | with_reducible apply Changes.refl
    | with_reducible apply Changes.after (State.onBasin_changes ..)
    | dsimp only
    | split
    | simp only [id_eq]
    | (intro p hp; cases p <;> first | rfl | (exfalso; revert hp; decide))

theorem newEpoch_changes (n : ReachId) (s : State) :
    Changes [.epochCtr, .reach] s (newEpoch n s) := by
  unfold newEpoch
  repeat' first
    | assumption
    | decide
    | with_reducible apply Changes.refl
    | with_reducible apply Changes.after (State.onReach_changes ..)
    | dsimp only
    | split
    | with_reducible apply Changes.set_epochCtr
    | simp only [id_eq]
    | (intro p hp; cases p <;> first | rfl | (exfalso; revert hp; decide))

/-! ### MoveOps -/

theorem memEnqueue_changes (r : SvcId) (q : MemReq) (s : State) :
    Changes [.port] s (memEnqueue r q s) := by
  unfold memEnqueue
  repeat' first
    | assumption
    | decide
    | with_reducible apply Changes.refl
    | with_reducible apply Changes.after (State.onPort_changes ..)
    | dsimp only
    | split
    | simp only [id_eq]
    | (intro p hp; cases p <;> first | rfl | (exfalso; revert hp; decide))

theorem startMove_changes (b : BargeId) (r : SvcId) (reqs : Nat → List MemReq) (writes : List (Nat × Nat)) (tok : Option (Fin 16)) (s : State) :
    Changes [.barge, .port] s (startMove b r reqs writes tok s) := by
  unfold startMove
  repeat' first
    | assumption
    | decide
    | with_reducible apply Changes.refl
    | with_reducible apply Changes.after (State.onBarge_changes ..)
    | with_reducible apply Changes.after (memEnqueue_changes ..)
    | with_reducible apply Changes.after (forAll_changes (fun _ _ => ?_) _ _) (fun _ h => h)
    | dsimp only
    | split
    | simp only [id_eq]
    | (intro p hp; cases p <;> first | rfl | (exfalso; revert hp; decide))

theorem storeMem_changes (b : BargeId) (region : Nat) (cs : List (Nat × Bytes)) (tok : Option (Fin 16)) (s : State) :
    Changes [.barge, .port, .freeCtr] s (storeMem b region cs tok s) := by
  unfold storeMem
  repeat' first
    | assumption
    | decide
    | with_reducible apply Changes.refl
    | with_reducible apply Changes.after (startMove_changes ..)
    | dsimp only
    | split
    | with_reducible apply Changes.set_freeCtr
    | simp only [id_eq]
    | (intro p hp; cases p <;> first | rfl | (exfalso; revert hp; decide))

theorem spacePut_changes (s : State) (b : BargeId) (space : Nat) (region : Nat) (a : Nat) (v : Bytes) :
    Changes [.barge, .basin, .port, .freeCtr] s (spacePut s b space region a v) := by
  unfold spacePut
  repeat' first
    | assumption
    | decide
    | with_reducible apply Changes.refl
    | with_reducible apply Changes.after (State.onBarge_changes ..)
    | with_reducible apply Changes.after (storeMem_changes ..)
    | with_reducible apply Changes.after (sharePut_changes ..)
    | dsimp only
    | split
    | simp only [id_eq]
    | (intro p hp; cases p <;> first | rfl | (exfalso; revert hp; decide))

theorem spaceOld_changes (s : State) (b : BargeId) (space : Nat) (region : Nat) (a : Nat) (n : Nat) :
    Changes [.freeCtr] s (spaceOld s b space region a n).2 := by
  unfold spaceOld
  repeat' first
    | assumption
    | decide
    | with_reducible apply Changes.refl
    | dsimp only
    | split
    | with_reducible apply Changes.set_freeCtr
    | simp only [id_eq]
    | (intro p hp; cases p <;> first | rfl | (exfalso; revert hp; decide))

theorem putFields_changes {s : State} {b : BargeId} {d : Desc} {w row k : Nat} {cs : List Nat} {t : State}
    (h : putFields s b d w row k cs = some t) : Changes [.barge, .basin, .port, .freeCtr] s t := by
  unfold putFields at h
  dsimp only at h
  split at h
  · cases h
    exact (spacePut_changes _ _ _ _ _ _).after (by decide) ((spaceOld_changes _ _ _ _ _ _).mono (by decide))
  · cases h

theorem putCodes_changes {s : State} {b : BargeId} {d : Desc} {row k : Nat} {cs : List Nat} {t : State}
    (h : putCodes s b d row k cs = some t) : Changes [.barge, .basin, .port, .freeCtr] s t := (putFields_changes h).mono (by decide)

theorem putWords_changes {s : State} {b : BargeId} {d : Desc} {row k : Nat} {ws : List Word} {t : State}
    (h : putWords s b d row k ws = some t) : Changes [.barge, .basin, .port, .freeCtr] s t := putCodes_changes h

end Sys2Proof.Machine
end

