-- ==== Sys2Proof/Laws/FrameKeeper.lean ====
section
/-! SUPPORT. What each operation can change: the keeper, power, loading and the life of a barge. -/

namespace Sys2Proof.Machine

set_option Elab.async false

/-! ### KeeperOps -/

theorem abortBarges_changes (r : SvcId) (but : Option BargeId) (s : State) :
    Changes [.barge, .keeper, .flight] s (abortBarges r but s) := by
  unfold abortBarges
  repeat' first
    | assumption
    | decide
    | with_reducible apply Changes.refl
    | with_reducible apply Changes.after (State.onKeeper_changes ..)
    | with_reducible apply Changes.after (dropFlight_changes ..)
    | with_reducible apply Changes.after (abortBarge_changes ..)
    | with_reducible apply Changes.after (forAll_changes (fun _ _ => ?_) _ _) (fun _ h => h)
    | dsimp only
    | split
    | simp only [id_eq]
    | (intro p hp; cases p <;> first | rfl | (exfalso; revert hp; decide))

theorem pruneForm_changes (r : SvcId) (s : State) :
    Changes [.keeper, .sys] s (pruneForm r s) := by
  unfold pruneForm
  repeat' first
    | assumption
    | decide
    | with_reducible apply Changes.refl
    | with_reducible apply Changes.after (dropInputRequests_changes ..)
    | with_reducible apply Changes.after (State.onKeeper_changes ..)
    | dsimp only
    | split
    | simp only [id_eq]
    | (intro p hp; cases p <;> first | rfl | (exfalso; revert hp; decide))

theorem syncContexts_changes (r : SvcId) (s : State) :
    Changes [.basin, .keeper] s (syncContexts r s) := by
  unfold syncContexts
  repeat' first
    | assumption
    | decide
    | with_reducible apply Changes.refl
    | with_reducible apply Changes.after (sharePut_changes ..)
    | with_reducible apply Changes.after (State.onKeeper_changes ..)
    | with_reducible apply Changes.after (forAll_changes (fun _ _ => ?_) _ _) (fun _ h => h)
    | dsimp only
    | split
    | simp only [id_eq]
    | (intro p hp; cases p <;> first | rfl | (exfalso; revert hp; decide))

theorem endReqs_changes (r : SvcId) (p : Req → Bool) (status : Nat) (s : State) :
    Changes [.basin, .keeper, .ring, .sys] s (endReqs r p status s) := by
  unfold endReqs
  repeat' first
    | assumption
    | decide
    | with_reducible apply Changes.refl
    | with_reducible apply Changes.after (postEach_changes ..)
    | with_reducible apply Changes.after (syncContexts_changes ..)
    | with_reducible apply Changes.after (pruneForm_changes ..)
    | with_reducible apply Changes.after (State.onKeeper_changes ..)
    | dsimp only
    | split
    | simp only [id_eq]
    | (intro p hp; cases p <;> first | rfl | (exfalso; revert hp; decide))

theorem cancelReq_changes (r : SvcId) (tag : Nat) (reply : Option (Fin 2)) (s : State) :
    Changes [.basin, .keeper, .ring, .sys] s (cancelReq r tag reply s) := by
  unfold cancelReq
  repeat' first
    | assumption
    | decide
    | with_reducible apply Changes.refl
    | with_reducible apply Changes.after (postGroup_changes ..)
    | with_reducible apply Changes.after (State.onKeeper_changes ..)
    | with_reducible apply Changes.after (endReqs_changes ..)
    | dsimp only
    | split
    | simp only [id_eq]
    | (intro p hp; cases p <;> first | rfl | (exfalso; revert hp; decide))

theorem cancelAll_changes (r : SvcId) (s : State) :
    Changes [.basin, .keeper, .ring, .sys] s (cancelAll r s) := by
  unfold cancelAll
  repeat' first
    | assumption
    | decide
    | with_reducible apply Changes.refl
    | with_reducible apply Changes.after (cancelReq_changes ..)
    | with_reducible apply Changes.after (forAll_changes (fun _ _ => ?_) _ _) (fun _ h => h)
    | dsimp only
    | split
    | simp only [id_eq]
    | (intro p hp; cases p <;> first | rfl | (exfalso; revert hp; decide))

theorem loadProgram_changes (b : BargeId) (r : SvcId) (p : Package) (x : Sched) (s : State) :
    Changes [.barge, .port] s (loadProgram b r p x s) := by
  unfold loadProgram
  repeat' first
    | assumption
    | decide
    | with_reducible apply Changes.refl
    | with_reducible apply Changes.after (startMove_changes ..)
    | with_reducible apply Changes.after (State.onBarge_changes ..)
    | dsimp only
    | split
    | simp only [id_eq]
    | (intro p hp; cases p <;> first | rfl | (exfalso; revert hp; decide))

theorem enterProgram_changes (b : BargeId) (run : Run) (s : State) :
    Changes [.barge, .port, .eye, .freeCtr] s (enterProgram b run s) := by
  unfold enterProgram
  repeat' first
    | assumption
    | decide
    | with_reducible apply Changes.refl
    | with_reducible apply Changes.after (State.onBarge_changes ..)
    | with_reducible apply Changes.after (traceReach_changes ..)
    | with_reducible apply Changes.after (loadProgram_changes ..)
    | dsimp only
    | split
    | simp only [id_eq]
    | (intro p hp; cases p <;> first | rfl | (exfalso; revert hp; decide))

theorem runOnAll_changes (r : SvcId) (run : Run) (s : State) :
    Changes [.barge, .port, .keeper, .eye, .freeCtr] s (runOnAll r run s) := by
  unfold runOnAll
  repeat' first
    | assumption
    | decide
    | with_reducible apply Changes.refl
    | with_reducible apply Changes.after (State.onKeeper_changes ..)
    | with_reducible apply Changes.after (enterProgram_changes ..)
    | with_reducible apply Changes.after (forAll_changes (fun _ _ => ?_) _ _) (fun _ h => h)
    | dsimp only
    | split
    | simp only [id_eq]
    | (intro p hp; cases p <;> first | rfl | (exfalso; revert hp; decide))

theorem checkDrained_changes (r : SvcId) (s : State) :
    Changes [.reach, .barge, .port, .keeper, .ring, .sys, .eph, .twp, .slu, .link, .spdm, .eye, .col, .chr, .flight, .freeCtr] s (checkDrained r s) := by
  unfold checkDrained
  repeat' first
    | assumption
    | decide
    | with_reducible apply Changes.refl
    | with_reducible apply Changes.after (beginDredge_changes ..)
    | dsimp only
    | split
    | simp only [id_eq]
    | (intro p hp; cases p <;> first | rfl | (exfalso; revert hp; decide))

theorem endStep_changes (r : SvcId) (status : Nat) (but : Option BargeId) (s : State) :
    Changes [.reach, .barge, .basin, .port, .keeper, .ring, .sys, .eph, .twp, .slu, .link, .spdm, .eye, .col, .chr, .flight, .freeCtr] s (endStep r status but s) := by
  unfold endStep
  repeat' first
    | assumption
    | decide
    | with_reducible apply Changes.refl
    | with_reducible apply Changes.after (State.onKeeper_changes ..)
    | with_reducible apply Changes.after (dropInputRequests_changes ..)
    | with_reducible apply Changes.after (syncContexts_changes ..)
    | with_reducible apply Changes.after (abortBarges_changes ..)
    | with_reducible apply Changes.after (checkDrained_changes ..)
    | with_reducible apply Changes.after (postEach_changes ..)
    | dsimp only
    | split
    | simp only [id_eq]
    | (intro p hp; cases p <;> first | rfl | (exfalso; revert hp; decide))

theorem moreError_changes (r : SvcId) (status : Nat) (s : State) :
    Changes [.ring] s (moreError r status s) := by
  unfold moreError
  repeat' first
    | assumption
    | decide
    | with_reducible apply Changes.refl
    | with_reducible apply Changes.after (State.onRing_changes ..)
    | dsimp only
    | split
    | simp only [id_eq]
    | (intro p hp; cases p <;> first | rfl | (exfalso; revert hp; decide))

theorem moorReqs_changes (r : SvcId) (p : Req → Bool) (s : State) :
    Changes [.basin, .keeper, .ring, .sys, .chr] s (moorReqs r p s) := by
  unfold moorReqs
  repeat' first
    | assumption
    | decide
    | with_reducible apply Changes.refl
    | with_reducible apply Changes.after (postEach_changes ..)
    | with_reducible apply Changes.after (syncContexts_changes ..)
    | with_reducible apply Changes.after (State.onKeeper_changes ..)
    | with_reducible apply Changes.after (chrEvent_changes ..)
    | dsimp only
    | split
    | simp only [id_eq]
    | (intro p hp; cases p <;> first | rfl | (exfalso; revert hp; decide))

theorem applyTolls_changes (r : SvcId) (s : State) :
    Changes [.basin, .keeper, .ring, .sys, .chr] s (applyTolls r s) := by
  unfold applyTolls
  repeat' first
    | assumption
    | decide
    | with_reducible apply Changes.refl
    | with_reducible apply Changes.after (endReqs_changes ..)
    | with_reducible apply Changes.after (moorReqs_changes ..)
    | dsimp only
    | split
    | simp only [id_eq]
    | (intro p hp; cases p <;> first | rfl | (exfalso; revert hp; decide))

theorem testAll_changes (r : SvcId) (s : State) :
    Changes [.basin, .keeper, .sys, .chr] s (testAll r s).1 := by
  unfold testAll
  repeat' first
    | assumption
    | decide
    | with_reducible apply Changes.refl
    | with_reducible apply Changes.after (syncContexts_changes ..)
    | with_reducible apply Changes.after (pruneForm_changes ..)
    | with_reducible apply Changes.after (State.onKeeper_changes ..)
    | with_reducible apply Changes.after (chrEvent_changes ..)
    | dsimp only
    | split
    | simp only [id_eq]
    | (intro p hp; cases p <;> first | rfl | (exfalso; revert hp; decide))

theorem commitCycle_changes (r : SvcId) (s : State) :
    Changes [.reach, .barge, .basin, .port, .keeper, .ring, .sys, .eph, .twp, .slu, .link, .spdm, .eye, .col, .chr, .flight, .freeCtr] s (commitCycle r s) := by
  unfold commitCycle
  repeat' first
    | assumption
    | decide
    | with_reducible apply Changes.refl
    | with_reducible apply Changes.after (chrEvent_changes ..)
    | with_reducible apply Changes.after (State.onKeeper_changes ..)
    | with_reducible apply Changes.after (syncContexts_changes ..)
    | with_reducible apply Changes.after (testAll_changes ..)
    | with_reducible apply Changes.after (postGroup_changes ..)
    | with_reducible apply Changes.after (orderExchanges_changes ..)
    | with_reducible apply Changes.after (checkDrained_changes ..)
    | with_reducible apply Changes.after (traceReach_changes ..)
    | with_reducible apply Changes.after (Changes.foldl (fun _ _ => ?_) _ _) (fun _ h => h)
    | dsimp only
    | split
    | simp only [id_eq]
    | (intro p hp; cases p <;> first | rfl | (exfalso; revert hp; decide))

theorem dropStep_changes (r : SvcId) (s : State) :
    Changes [.keeper] s (dropStep r s) := by
  unfold dropStep
  repeat' first
    | assumption
    | decide
    | with_reducible apply Changes.refl
    | with_reducible apply Changes.after (State.onKeeper_changes ..)
    | dsimp only
    | split
    | simp only [id_eq]
    | (intro p hp; cases p <;> first | rfl | (exfalso; revert hp; decide))

theorem stageInputs_changes (r : SvcId) (s : State) :
    Changes [.keeper, .sys] s (stageInputs r s) := by
  unfold stageInputs
  repeat' first
    | assumption
    | decide
    | with_reducible apply Changes.refl
    | with_reducible apply Changes.after (sysRequest_changes ..)
    | with_reducible apply Changes.after (State.onKeeper_changes ..)
    | with_reducible apply Changes.after (forAll_changes (fun _ _ => ?_) _ _) (fun _ h => h)
    | dsimp only
    | split
    | simp only [id_eq]
    | (intro p hp; cases p <;> first | rfl | (exfalso; revert hp; decide))

theorem refillTolls_changes (r : SvcId) (s : State) :
    Changes [.keeper] s (refillTolls r s) := by
  unfold refillTolls
  repeat' first
    | assumption
    | decide
    | with_reducible apply Changes.refl
    | with_reducible apply Changes.after (State.onKeeper_changes ..)
    | dsimp only
    | split
    | simp only [id_eq]
    | (intro p hp; cases p <;> first | rfl | (exfalso; revert hp; decide))

theorem testDeadlines_changes (r : SvcId) (s : State) :
    Changes [.basin, .keeper, .ring, .sys, .chr] s (testDeadlines r s) := by
  unfold testDeadlines
  repeat' first
    | assumption
    | decide
    | with_reducible apply Changes.refl
    | with_reducible apply Changes.after (testAll_changes ..)
    | with_reducible apply Changes.after (postEach_changes ..)
    | dsimp only
    | split
    | simp only [id_eq]
    | (intro p hp; cases p <;> first | rfl | (exfalso; revert hp; decide))

theorem formCycle_changes (r : SvcId) (s : State) :
    Changes [.basin, .keeper, .ring, .sys, .chr] s (formCycle r s) := by
  unfold formCycle
  repeat' first
    | assumption
    | decide
    | with_reducible apply Changes.refl
    | with_reducible apply Changes.after (applyTolls_changes ..)
    | with_reducible apply Changes.after (testDeadlines_changes ..)
    | with_reducible apply Changes.after (refillTolls_changes ..)
    | with_reducible apply Changes.after (syncContexts_changes ..)
    | with_reducible apply Changes.after (State.onKeeper_changes ..)
    | with_reducible apply Changes.after (moorReqs_changes ..)
    | with_reducible apply Changes.after (stageInputs_changes ..)
    | dsimp only
    | split
    | simp only [id_eq]
    | (intro p hp; cases p <;> first | rfl | (exfalso; revert hp; decide))

theorem onReq_changes (r : SvcId) (ctx : Nat) (f : Req → Req) (s : State) :
    Changes [.keeper] s (onReq r ctx f s) := by
  unfold onReq
  repeat' first
    | assumption
    | decide
    | with_reducible apply Changes.refl
    | with_reducible apply Changes.after (State.onKeeper_changes ..)
    | dsimp only
    | split
    | simp only [id_eq]
    | (intro p hp; cases p <;> first | rfl | (exfalso; revert hp; decide))

theorem startCycle_changes (r : SvcId) (s : State) :
    Changes [.basin, .keeper, .eye, .flight, .freeCtr] s (startCycle r s) := by
  unfold startCycle
  repeat' first
    | assumption
    | decide
    | with_reducible apply Changes.refl
    | with_reducible apply Changes.after (sharePut_changes ..)
    | with_reducible apply Changes.after (State.onKeeper_changes ..)
    | with_reducible apply Changes.after (traceReach_changes ..)
    | dsimp only
    | split
    | with_reducible apply Changes.set_flight
    | simp only [id_eq]
    | (intro p hp; cases p <;> first | rfl | (exfalso; revert hp; decide))

theorem tick_changes (r : SvcId) (kc : Nat) (s : State) :
    Changes [.keeper] s (tick r kc s) := by
  unfold tick
  repeat' first
    | assumption
    | decide
    | with_reducible apply Changes.refl
    | with_reducible apply Changes.after (State.onKeeper_changes ..)
    | dsimp only
    | split
    | simp only [id_eq]
    | (intro p hp; cases p <;> first | rfl | (exfalso; revert hp; decide))

/-! ### PowerOps -/

theorem unstop_changes (b : BargeId) (s : State) :
    Changes [.isl] s (unstop b s) := by
  unfold unstop
  repeat' first
    | assumption
    | decide
    | with_reducible apply Changes.refl
    | with_reducible apply Changes.after (State.onIsl_changes ..)
    | dsimp only
    | split
    | simp only [id_eq]
    | (intro p hp; cases p <;> first | rfl | (exfalso; revert hp; decide))

theorem setClock_changes (i : Fin 64) (mhz : Nat) (s : State) :
    Changes [.isl] s (setClock i mhz s) := by
  unfold setClock
  repeat' first
    | assumption
    | decide
    | with_reducible apply Changes.refl
    | with_reducible apply Changes.after (State.onIsl_changes ..)
    | dsimp only
    | split
    | simp only [id_eq]
    | (intro p hp; cases p <;> first | rfl | (exfalso; revert hp; decide))

theorem powerIsl_changes (i : Fin 64) (mhz : Nat) (gated : Bool) (s : State) :
    Changes [.isl] s (powerIsl i mhz gated s) := by
  unfold powerIsl
  repeat' first
    | assumption
    | decide
    | with_reducible apply Changes.refl
    | with_reducible apply Changes.after (setClock_changes ..)
    | with_reducible apply Changes.after (State.onIsl_changes ..)
    | dsimp only
    | split
    | simp only [id_eq]
    | (intro p hp; cases p <;> first | rfl | (exfalso; revert hp; decide))

theorem stopClock_changes (b : BargeId) (s : State) :
    Changes [.isl] s (stopClock b s) := by
  unfold stopClock
  repeat' first
    | assumption
    | decide
    | with_reducible apply Changes.refl
    | with_reducible apply Changes.after (State.onIsl_changes ..)
    | dsimp only
    | split
    | simp only [id_eq]
    | (intro p hp; cases p <;> first | rfl | (exfalso; revert hp; decide))

theorem runStep_changes (b : BargeId) (step : Nat) (s : State) :
    Changes [.isl] s (runStep b step s) := by
  unfold runStep
  repeat' first
    | assumption
    | decide
    | with_reducible apply Changes.refl
    | with_reducible apply Changes.after (stopClock_changes ..)
    | with_reducible apply Changes.after (powerIsl_changes ..)
    | with_reducible apply Changes.after (unstop_changes ..)
    | dsimp only
    | split
    | simp only [id_eq]
    | (intro p hp; cases p <;> first | rfl | (exfalso; revert hp; decide))

theorem unpowerIsl_changes (i : Fin 64) (s : State) :
    Changes [.isl] s (unpowerIsl i s) := by
  unfold unpowerIsl
  repeat' first
    | assumption
    | decide
    | with_reducible apply Changes.refl
    | with_reducible apply Changes.after (State.onIsl_changes ..)
    | dsimp only
    | split
    | simp only [id_eq]
    | (intro p hp; cases p <;> first | rfl | (exfalso; revert hp; decide))

theorem unpowerBarge_changes (b : BargeId) (s : State) :
    Changes [.isl, .barge, .keeper, .chr, .flight] s (unpowerBarge b s) := by
  unfold unpowerBarge
  repeat' first
    | assumption
    | decide
    | with_reducible apply Changes.refl
    | with_reducible apply Changes.after (State.onKeeper_changes ..)
    | with_reducible apply Changes.after (clearUnitCounters_changes ..)
    | with_reducible apply Changes.after (unpowerIsl_changes ..)
    | with_reducible apply Changes.after (State.onBarge_changes ..)
    | dsimp only
    | split
    | with_reducible apply Changes.set_flight
    | simp only [id_eq]
    | (intro p hp; cases p <;> first | rfl | (exfalso; revert hp; decide))

theorem clockIsland_changes (b : BargeId) (s : State) :
    Changes [.isl, .barge, .keeper, .chr, .flight] s (clockIsland b s) := by
  unfold clockIsland
  repeat' first
    | assumption
    | decide
    | with_reducible apply Changes.refl
    | with_reducible apply Changes.after (unpowerBarge_changes ..)
    | with_reducible apply Changes.after (powerIsl_changes ..)
    | with_reducible apply Changes.after (unstop_changes ..)
    | with_reducible apply Changes.after (runStep_changes ..)
    | dsimp only
    | split
    | simp only [id_eq]
    | (intro p hp; cases p <;> first | rfl | (exfalso; revert hp; decide))

theorem syncRail_changes (r : Fin 6) (s : State) :
    Changes [.slu, .chr, .out] s (syncRail r s) := by
  unfold syncRail
  repeat' first
    | assumption
    | decide
    | with_reducible apply Changes.refl
    | with_reducible apply Changes.after (emit_changes ..)
    | with_reducible apply Changes.after (State.onSlu_changes ..)
    | with_reducible apply Changes.after (chrAlways_changes ..)
    | dsimp only
    | split
    | simp only [id_eq]
    | (intro p hp; cases p <;> first | rfl | (exfalso; revert hp; decide))

theorem clockBarge_changes (b : BargeId) (s : State) :
    Changes [.isl, .barge, .keeper, .slu, .chr, .flight, .out] s (clockBarge b s) := by
  unfold clockBarge
  repeat' first
    | assumption
    | decide
    | with_reducible apply Changes.refl
    | with_reducible apply Changes.after (syncRail_changes ..)
    | with_reducible apply Changes.after (clockIsland_changes ..)
    | dsimp only
    | split
    | simp only [id_eq]
    | (intro p hp; cases p <;> first | rfl | (exfalso; revert hp; decide))

theorem wakeReach_changes (n : ReachId) (s : State) :
    Changes [.isl, .barge, .keeper, .slu, .chr, .flight, .out] s (wakeReach n s) := by
  unfold wakeReach withNotice
  repeat' first
    | assumption
    | decide
    | with_reducible apply Changes.refl
    | with_reducible apply Changes.after (State.onSlu_changes ..)
    | with_reducible apply Changes.after (clockBarge_changes ..)
    | with_reducible apply Changes.after (forAll_changes (fun _ _ => ?_) _ _) (fun _ h => h)
    | dsimp only
    | split
    | simp only [id_eq]
    | (intro p hp; cases p <;> first | rfl | (exfalso; revert hp; decide))

theorem syncRails_changes (s : State) :
    Changes [.slu, .chr, .out] s (syncRails s) := by
  unfold syncRails
  repeat' first
    | assumption
    | decide
    | with_reducible apply Changes.refl
    | with_reducible apply Changes.after (syncRail_changes ..)
    | with_reducible apply Changes.after (forAll_changes (fun _ _ => ?_) _ _) (fun _ h => h)
    | dsimp only
    | split
    | simp only [id_eq]
    | (intro p hp; cases p <;> first | rfl | (exfalso; revert hp; decide))

theorem clockAll_changes (s : State) :
    Changes [.isl, .barge, .keeper, .slu, .chr, .flight, .out] s (clockAll s) := by
  unfold clockAll
  repeat' first
    | assumption
    | decide
    | with_reducible apply Changes.refl
    | with_reducible apply Changes.after (runStep_changes ..)
    | with_reducible apply Changes.after (syncRails_changes ..)
    | with_reducible apply Changes.after (clockIsland_changes ..)
    | with_reducible apply Changes.after (forAll_changes (fun _ _ => ?_) _ _) (fun _ h => h)
    | dsimp only
    | split
    | simp only [id_eq]
    | (intro p hp; cases p <;> first | rfl | (exfalso; revert hp; decide))

theorem setThermal_changes (on : Bool) (s : State) :
    Changes [.iso] s (setThermal on s) := by
  unfold setThermal
  repeat' first
    | assumption
    | decide
    | with_reducible apply Changes.refl
    | dsimp only
    | split
    | with_reducible apply Changes.set_iso
    | simp only [id_eq]
    | (intro p hp; cases p <;> first | rfl | (exfalso; revert hp; decide))

/-! ### LoadOps -/

theorem failReach_changes (n : ReachId) (rec : Option (Nat × Fin 2)) (status : Nat) (s : State) :
    Changes [.reach, .barge, .port, .keeper, .ring, .sys, .eph, .twp, .slu, .link, .spdm, .eye, .col, .chr, .flight, .freeCtr] s (failReach n rec status s) := by
  unfold failReach
  repeat' first
    | assumption
    | decide
    | with_reducible apply Changes.refl
    | with_reducible apply Changes.after (invalidateSlot_changes ..)
    | with_reducible apply Changes.after (beginDredge_changes ..)
    | with_reducible apply Changes.after (State.onReach_changes ..)
    | dsimp only
    | split
    | simp only [id_eq]
    | (intro p hp; cases p <;> first | rfl | (exfalso; revert hp; decide))

theorem answerLoad_changes (n : ReachId) (tag : Nat) (status : Nat) (sq : Fin 2) (s : State) :
    Changes [.ring, .sys] s (answerLoad n tag status sq s) := by
  unfold answerLoad
  repeat' first
    | assumption
    | decide
    | with_reducible apply Changes.refl
    | with_reducible apply Changes.after (postGroup_changes ..)
    | dsimp only
    | split
    | simp only [id_eq]
    | (intro p hp; cases p <;> first | rfl | (exfalso; revert hp; decide))

theorem fetchChunk_changes {s t : State} (h : fetchChunk s = some t) : Changes [.loader, .sys] s t := by
  unfold fetchChunk at h
  split at h
  · cases h
    exact Changes.refl _ _
  · dsimp only at h
    split at h
    · cases h
    · cases h
      refine (forAll_changes (fun _ _ => (sysRequest_changes _ _ _)) _ _).after (by decide) ?_
      apply Changes.set_loader (by decide)
      exact Changes.refl _ _

theorem loaderFailed_changes (status : Nat) (s : State) :
    Changes [.loader] s (loaderFailed status s) := by
  unfold loaderFailed
  repeat' first
    | assumption
    | decide
    | with_reducible apply Changes.refl
    | dsimp only
    | split
    | with_reducible apply Changes.set_loader
    | simp only [id_eq]
    | (intro p hp; cases p <;> first | rfl | (exfalso; revert hp; decide))

theorem startLoads_changes (f : Nat) (s : State) : Changes [.reach, .barge, .port, .loader, .keeper, .ring, .sys, .eph, .twp, .slu, .link, .spdm, .eye, .col, .chr, .flight, .freeCtr] s (startLoads f s) := by
  induction f generalizing s with
  | zero => exact Changes.refl _ _
  | succ f ih =>
    unfold startLoads
    split
    · dsimp only
      split
      · rename_i h
        refine (fetchChunk_changes h).after (by decide) ((State.onReach_changes _ _ _).after (by decide) ?_)
        apply Changes.set_loader (by decide)
        exact Changes.refl _ _
      · refine (ih _).after (fun _ h => h) ((failReach_changes _ _ _ _).after (by decide) ((loaderFailed_changes _ _).after (by decide) ?_))
        refine (State.onReach_changes _ _ _).after (by decide) ?_
        apply Changes.set_loader (by decide)
        exact Changes.refl _ _
    · exact Changes.refl _ _

theorem stopLoad_changes (n : ReachId) (status : Nat) (s : State) :
    Changes [.reach, .barge, .port, .loader, .keeper, .ring, .sys, .eph, .twp, .slu, .link, .spdm, .eye, .col, .chr, .flight, .freeCtr] s (stopLoad n status s) := by
  unfold stopLoad
  repeat' first
    | assumption
    | decide
    | with_reducible apply Changes.refl
    | with_reducible apply Changes.after (answerLoad_changes ..)
    | with_reducible apply Changes.after (State.onReach_changes ..)
    | with_reducible apply Changes.after (startLoads_changes ..)
    | with_reducible apply Changes.after (dropInputRequests_changes ..)
    | with_reducible apply Changes.after (loaderFailed_changes ..)
    | with_reducible apply Changes.after (forAll_changes (fun _ _ => ?_) _ _) (fun _ h => h)
    | dsimp only
    | split
    | with_reducible apply Changes.set_loader
    | simp only [id_eq]
    | (intro p hp; cases p <;> first | rfl | (exfalso; revert hp; decide))

theorem failLoad_changes (status : Nat) (s : State) :
    Changes [.reach, .barge, .port, .loader, .keeper, .ring, .sys, .eph, .twp, .slu, .link, .spdm, .eye, .col, .chr, .flight, .freeCtr] s (failLoad status s) := by
  unfold failLoad
  repeat' first
    | assumption
    | decide
    | with_reducible apply Changes.refl
    | with_reducible apply Changes.after (startLoads_changes ..)
    | with_reducible apply Changes.after (failReach_changes ..)
    | with_reducible apply Changes.after (loaderFailed_changes ..)
    | dsimp only
    | split
    | simp only [id_eq]
    | (intro p hp; cases p <;> first | rfl | (exfalso; revert hp; decide))

/-! ### ColOps -/

theorem endTest_changes (s : State) :
    Changes [.isl, .barge, .keeper, .slu, .col, .chr, .flight, .out] s (endTest s) := by
  unfold endTest
  repeat' first
    | assumption
    | decide
    | with_reducible apply Changes.refl
    | with_reducible apply Changes.after (clockBarge_changes ..)
    | with_reducible apply Changes.after (State.onCol_changes ..)
    | dsimp only
    | split
    | simp only [id_eq]
    | (intro p hp; cases p <;> first | rfl | (exfalso; revert hp; decide))

theorem beginTest_changes (b : BargeId) (s : State) :
    Changes [.isl, .barge, .keeper, .slu, .col, .chr, .flight, .out] s (beginTest b s) := by
  unfold beginTest
  repeat' first
    | assumption
    | decide
    | with_reducible apply Changes.refl
    | with_reducible apply Changes.after (State.onCol_changes ..)
    | with_reducible apply Changes.after (clockBarge_changes ..)
    | with_reducible apply Changes.after (State.onBarge_changes ..)
    | dsimp only
    | split
    | simp only [id_eq]
    | (intro p hp; cases p <;> first | rfl | (exfalso; revert hp; decide))

theorem makePick_changes (s : State) :
    Changes [.isl, .barge, .keeper, .slu, .col, .chr, .flight, .out] s (makePick s) := by
  unfold makePick
  repeat' first
    | assumption
    | decide
    | with_reducible apply Changes.refl
    | with_reducible apply Changes.after (State.onCol_changes ..)
    | with_reducible apply Changes.after (beginTest_changes ..)
    | dsimp only
    | split
    | simp only [id_eq]
    | (intro p hp; cases p <;> first | rfl | (exfalso; revert hp; decide))

theorem settlePick_changes (s : State) :
    Changes [.isl, .barge, .keeper, .slu, .col, .chr, .flight, .out] s (settlePick s) := by
  unfold settlePick
  repeat' first
    | assumption
    | decide
    | with_reducible apply Changes.refl
    | with_reducible apply Changes.after (makePick_changes ..)
    | dsimp only
    | split
    | simp only [id_eq]
    | (intro p hp; cases p <;> first | rfl | (exfalso; revert hp; decide))

/-! ### BargeOps -/

theorem reschedule_changes (r : SvcId) (s : State) :
    Changes [.barge, .port, .keeper, .eye, .freeCtr] s (reschedule r s) := by
  unfold reschedule
  repeat' first
    | assumption
    | decide
    | with_reducible apply Changes.refl
    | with_reducible apply Changes.after (State.onKeeper_changes ..)
    | with_reducible apply Changes.after (runOnAll_changes ..)
    | dsimp only
    | split
    | simp only [id_eq]
    | (intro p hp; cases p <;> first | rfl | (exfalso; revert hp; decide))

theorem assignBarge_changes (b : BargeId) (n : ReachId) (logical : Nat) (s : State) :
    Changes [.isl, .barge, .keeper, .slu, .chr, .flight, .out] s (assignBarge b n logical s) := by
  unfold assignBarge
  repeat' first
    | assumption
    | decide
    | with_reducible apply Changes.refl
    | with_reducible apply Changes.after (clockBarge_changes ..)
    | with_reducible apply Changes.after (State.onBarge_changes ..)
    | dsimp only
    | split
    | simp only [id_eq]
    | (intro p hp; cases p <;> first | rfl | (exfalso; revert hp; decide))

theorem refill_changes (f : Nat) (s : State) : Changes [.isl, .barge, .port, .keeper, .slu, .eye, .chr, .flight, .freeCtr, .out] s (refill f s) := by
  induction f generalizing s with
  | zero => exact Changes.refl _ _
  | succ f ih =>
    unfold refill
    split
    · exact (ih _).after (fun _ h => h) ((reschedule_changes _ _).after (by decide) ((assignBarge_changes _ _ _ _).mono (by decide)))
    · exact Changes.refl _ _

theorem freeOwner_changes (o : Nat) (s : State) :
    Changes [.port, .sys] s (freeOwner o s) := by
  unfold freeOwner
  repeat' first
    | assumption
    | decide
    | with_reducible apply Changes.refl
    | dsimp only
    | split
    | with_reducible apply Changes.set_port_sys
    | simp only [id_eq]
    | (intro p hp; cases p <;> first | rfl | (exfalso; revert hp; decide))

theorem toSpare_changes (b : BargeId) (s : State) :
    Changes [.isl, .barge, .spareClock, .keeper, .slu, .col, .chr, .flight, .out] s (toSpare b s) := by
  unfold toSpare
  repeat' first
    | assumption
    | decide
    | with_reducible apply Changes.refl
    | with_reducible apply Changes.after (clockBarge_changes ..)
    | with_reducible apply Changes.after (enterSpare_changes ..)
    | dsimp only
    | split
    | simp only [id_eq]
    | (intro p hp; cases p <;> first | rfl | (exfalso; revert hp; decide))

theorem releaseTwilight_changes (s : State) :
    Changes [.isl, .mer, .barge, .spareClock, .basin, .port, .twPkg, .keeper, .ring, .sys, .eph, .slu, .eye, .col, .chr, .flight, .freeCtr, .out] s (releaseTwilight s) := by
  unfold releaseTwilight
  repeat' first
    | assumption
    | decide
    | with_reducible apply Changes.refl
    | with_reducible apply Changes.after (toSpare_changes ..)
    | with_reducible apply Changes.after (clearBarge_changes ..)
    | with_reducible apply Changes.after (dropBargeRequests_changes ..)
    | with_reducible apply Changes.after (setUnitOwner_changes ..)
    | with_reducible apply Changes.after (clearUnit_changes ..)
    | with_reducible apply Changes.after (discardPorts_changes ..)
    | with_reducible apply Changes.after (clearUnitCounters_changes ..)
    | with_reducible apply Changes.after (State.onKeeper_changes ..)
    | with_reducible apply Changes.after (freeOwner_changes ..)
    | with_reducible apply Changes.after (resetRings_changes ..)
    | with_reducible apply Changes.after (invalidateSlots_changes ..)
    | with_reducible apply Changes.after (refill_changes ..)
    | with_reducible apply Changes.after (State.onMer_changes ..)
    | with_reducible apply Changes.after (forAll_changes (fun _ _ => ?_) _ _) (fun _ h => h)
    | dsimp only
    | split
    | with_reducible apply Changes.set_twPkg
    | simp only [id_eq]
    | (intro p hp; cases p <;> first | rfl | (exfalso; revert hp; decide))

theorem settleTwilight_changes (s : State) :
    Changes [.isl, .mer, .barge, .spareClock, .basin, .port, .twPkg, .keeper, .ring, .sys, .eph, .slu, .eye, .col, .chr, .flight, .freeCtr, .out] s (settleTwilight s) := by
  unfold settleTwilight
  repeat' first
    | assumption
    | decide
    | with_reducible apply Changes.refl
    | with_reducible apply Changes.after (releaseTwilight_changes ..)
    | dsimp only
    | split
    | simp only [id_eq]
    | (intro p hp; cases p <;> first | rfl | (exfalso; revert hp; decide))

theorem renumber_changes (r : SvcId) (lost : Nat) (s : State) :
    Changes [.barge] s (renumber r lost s) := by
  unfold renumber
  repeat' first
    | assumption
    | decide
    | with_reducible apply Changes.refl
    | dsimp only
    | split
    | with_reducible apply Changes.set_barge
    | simp only [id_eq]
    | (intro p hp; cases p <;> first | rfl | (exfalso; revert hp; decide))

theorem twilightLost_changes (lost : Nat) (s : State) :
    Changes [.isl, .mer, .barge, .spareClock, .basin, .port, .twPkg, .keeper, .ring, .sys, .eph, .slu, .eye, .col, .chr, .flight, .freeCtr, .out] s (twilightLost lost s) := by
  unfold twilightLost
  repeat' first
    | assumption
    | decide
    | with_reducible apply Changes.refl
    | with_reducible apply Changes.after (renumber_changes ..)
    | with_reducible apply Changes.after (settleTwilight_changes ..)
    | with_reducible apply Changes.after (endReqs_changes ..)
    | with_reducible apply Changes.after (State.onMer_changes ..)
    | with_reducible apply Changes.after (reschedule_changes ..)
    | dsimp only
    | split
    | simp only [id_eq]
    | (intro p hp; cases p <;> first | rfl | (exfalso; revert hp; decide))

theorem lastBargeLost_changes (n : ReachId) (s : State) :
    Changes [.reach, .barge, .basin, .port, .keeper, .ring, .sys, .eph, .twp, .slu, .link, .spdm, .eye, .col, .chr, .flight, .freeCtr] s (lastBargeLost n s) := by
  unfold lastBargeLost
  repeat' first
    | assumption
    | decide
    | with_reducible apply Changes.refl
    | with_reducible apply Changes.after (setReachState_changes ..)
    | with_reducible apply Changes.after (State.onReach_changes ..)
    | with_reducible apply Changes.after (checkDrained_changes ..)
    | with_reducible apply Changes.after (endReqs_changes ..)
    | dsimp only
    | split
    | simp only [id_eq]
    | (intro p hp; cases p <;> first | rfl | (exfalso; revert hp; decide))

theorem resumeBarge_changes (r : SvcId) (b : BargeId) (s : State) :
    Changes [.barge, .port, .keeper, .eye, .freeCtr] s (resumeBarge r b s) := by
  unfold resumeBarge
  repeat' first
    | assumption
    | decide
    | with_reducible apply Changes.refl
    | with_reducible apply Changes.after (State.onKeeper_changes ..)
    | with_reducible apply Changes.after (enterProgram_changes ..)
    | dsimp only
    | split
    | simp only [id_eq]
    | (intro p hp; cases p <;> first | rfl | (exfalso; revert hp; decide))

theorem replaceBarge_changes (n : ReachId) (lost : Nat) (s : State) :
    Changes [.isl, .reach, .barge, .basin, .port, .keeper, .ring, .sys, .eph, .twp, .slu, .link, .spdm, .eye, .col, .chr, .flight, .freeCtr, .out] s (replaceBarge n lost s) := by
  unfold replaceBarge
  repeat' first
    | assumption
    | decide
    | with_reducible apply Changes.refl
    | with_reducible apply Changes.after (assignBarge_changes ..)
    | with_reducible apply Changes.after (resumeBarge_changes ..)
    | with_reducible apply Changes.after (reschedule_changes ..)
    | with_reducible apply Changes.after (renumber_changes ..)
    | with_reducible apply Changes.after (lastBargeLost_changes ..)
    | with_reducible apply Changes.after (State.onKeeper_changes ..)
    | dsimp only
    | split
    | simp only [id_eq]
    | (intro p hp; cases p <;> first | rfl | (exfalso; revert hp; decide))

theorem settleLost_changes (n : ReachId) (a1 : Nat) (a2 : State) :
    Changes [.isl, .reach, .barge, .basin, .port, .keeper, .ring, .sys, .eph, .twp, .slu, .link, .spdm, .eye, .col, .chr, .flight, .freeCtr, .out] a2 (settleLost n a1 a2) := by
  induction a1 generalizing a2 with
  | zero => exact Changes.refl _ _
  | succ f ih =>
    unfold settleLost
    repeat' first
      | assumption
      | decide
      | with_reducible apply Changes.after (ih ..) (fun _ h => h)
      | with_reducible apply Changes.refl
      | with_reducible apply Changes.after (State.onKeeper_changes ..)
      | with_reducible apply Changes.after (replaceBarge_changes ..)
      | dsimp only
      | split

theorem settleLosses_changes (n : ReachId) (s : State) :
    Changes [.isl, .reach, .barge, .basin, .port, .keeper, .ring, .sys, .eph, .twp, .slu, .link, .spdm, .eye, .col, .chr, .flight, .freeCtr, .out] s (settleLosses n s) := by
  unfold settleLosses
  repeat' first
    | assumption
    | decide
    | with_reducible apply Changes.refl
    | with_reducible apply Changes.after (settleLost_changes ..)
    | dsimp only
    | split
    | simp only [id_eq]
    | (intro p hp; cases p <;> first | rfl | (exfalso; revert hp; decide))

theorem dropTest_changes (b : BargeId) (s : State) :
    Changes [.isl, .barge, .keeper, .slu, .col, .chr, .flight, .out] s (dropTest b s) := by
  unfold dropTest
  repeat' first
    | assumption
    | decide
    | with_reducible apply Changes.refl
    | with_reducible apply Changes.after (endTest_changes ..)
    | dsimp only
    | split
    | simp only [id_eq]
    | (intro p hp; cases p <;> first | rfl | (exfalso; revert hp; decide))

theorem failBarge_changes (b : BargeId) (s : State) :
    Changes [.isl, .barge, .port, .keeper, .slu, .col, .chr, .flight, .out] s (failBarge b s) := by
  unfold failBarge
  repeat' first
    | assumption
    | decide
    | with_reducible apply Changes.refl
    | with_reducible apply Changes.after (State.onCol_changes ..)
    | with_reducible apply Changes.after (dropAsk_changes ..)
    | with_reducible apply Changes.after (dropBargeRequests_changes ..)
    | with_reducible apply Changes.after (clockBarge_changes ..)
    | with_reducible apply Changes.after (dropTest_changes ..)
    | with_reducible apply Changes.after (State.onBarge_changes ..)
    | dsimp only
    | split
    | simp only [id_eq]
    | (intro p hp; cases p <;> first | rfl | (exfalso; revert hp; decide))

theorem recordFault_changes (b : BargeId) (cause : BargeCause) (s : State) :
    Changes [.alerts, .barge, .sys] s (recordFault b cause s) := by
  unfold recordFault
  repeat' first
    | assumption
    | decide
    | with_reducible apply Changes.refl
    | with_reducible apply Changes.after (alert_changes ..)
    | with_reducible apply Changes.after (State.onBarge_changes ..)
    | dsimp only
    | split
    | simp only [id_eq]
    | (intro p hp; cases p <;> first | rfl | (exfalso; revert hp; decide))

theorem bargeLost_changes (b : BargeId) (cause : BargeCause) (s : State) :
    Changes [.alerts, .isl, .mer, .reach, .barge, .spareClock, .basin, .port, .twPkg, .keeper, .ring, .sys, .eph, .twp, .slu, .link, .spdm, .eye, .col, .chr, .flight, .freeCtr, .out] s (bargeLost b cause s) := by
  unfold bargeLost
  repeat' first
    | assumption
    | decide
    | with_reducible apply Changes.refl
    | with_reducible apply Changes.after (recordFault_changes ..)
    | with_reducible apply Changes.after (failBarge_changes ..)
    | with_reducible apply Changes.after (State.onCol_changes ..)
    | with_reducible apply Changes.after (State.onBarge_changes ..)
    | with_reducible apply Changes.after (resumeBarge_changes ..)
    | with_reducible apply Changes.after (State.onKeeper_changes ..)
    | with_reducible apply Changes.after (moreError_changes ..)
    | with_reducible apply Changes.after (endStep_changes ..)
    | with_reducible apply Changes.after (settleLosses_changes ..)
    | with_reducible apply Changes.after (failReach_changes ..)
    | with_reducible apply Changes.after (twilightLost_changes ..)
    | dsimp only
    | split
    | simp only [id_eq]
    | (intro p hp; cases p <;> first | rfl | (exfalso; revert hp; decide))

theorem bargeFault_changes (b : BargeId) (cause : BargeCause) (s : State) :
    Changes [.alerts, .isl, .mer, .reach, .barge, .spareClock, .basin, .port, .twPkg, .keeper, .ring, .sys, .eph, .twp, .slu, .link, .spdm, .eye, .col, .chr, .flight, .freeCtr, .out] s (bargeFault b cause s) := by
  unfold bargeFault
  repeat' first
    | assumption
    | decide
    | with_reducible apply Changes.refl
    | with_reducible apply Changes.after (settlePick_changes ..)
    | with_reducible apply Changes.after (bargeLost_changes ..)
    | dsimp only
    | split
    | simp only [id_eq]
    | (intro p hp; cases p <;> first | rfl | (exfalso; revert hp; decide))

theorem readSpad_changes (b : BargeId) (a : Nat) (n : Nat) (s : State) :
    Changes [.alerts, .isl, .mer, .reach, .barge, .spareClock, .basin, .port, .twPkg, .keeper, .ring, .sys, .eph, .twp, .slu, .link, .spdm, .eye, .col, .chr, .flight, .freeCtr, .out] s (readSpad b a n s).2 := by
  unfold readSpad
  repeat' first
    | assumption
    | decide
    | with_reducible apply Changes.refl
    | with_reducible apply Changes.after (bargeFault_changes ..)
    | with_reducible apply Changes.after (chrEvent_changes ..)
    | with_reducible apply Changes.after (State.onBarge_changes ..)
    | dsimp only
    | split
    | simp only [id_eq]
    | (intro p hp; cases p <;> first | rfl | (exfalso; revert hp; decide))

theorem countCorrected_changes (word : Nat) (s : State) :
    Changes [.chr] s (countCorrected word s) := by
  unfold countCorrected
  repeat' first
    | assumption
    | decide
    | with_reducible apply Changes.refl
    | with_reducible apply Changes.after (chrBasin_changes ..)
    | dsimp only
    | split
    | simp only [id_eq]
    | (intro p hp; cases p <;> first | rfl | (exfalso; revert hp; decide))

theorem stepError_changes (r : SvcId) (status : Nat) (s : State) :
    Changes [.reach, .barge, .basin, .port, .keeper, .ring, .sys, .eph, .twp, .slu, .link, .spdm, .eye, .col, .chr, .flight, .freeCtr] s (stepError r status s) := by
  unfold stepError
  repeat' first
    | assumption
    | decide
    | with_reducible apply Changes.refl
    | with_reducible apply Changes.after (endStep_changes ..)
    | with_reducible apply Changes.after (moreError_changes ..)
    | with_reducible apply Changes.after (failReach_changes ..)
    | with_reducible apply Changes.after (startBargeDredge_changes ..)
    | with_reducible apply Changes.after (forAll_changes (fun _ _ => ?_) _ _) (fun _ h => h)
    | dsimp only
    | split
    | simp only [id_eq]
    | (intro p hp; cases p <;> first | rfl | (exfalso; revert hp; decide))

theorem basinError_changes (r : Option SvcId) (bank : Nat) (s : State) :
    Changes [.alerts, .reach, .barge, .basin, .port, .keeper, .ring, .sys, .eph, .twp, .slu, .link, .spdm, .eye, .col, .chr, .flight, .freeCtr] s (basinError r bank s) := by
  unfold basinError
  repeat' first
    | assumption
    | decide
    | with_reducible apply Changes.refl
    | with_reducible apply Changes.after (State.onBasin_changes ..)
    | with_reducible apply Changes.after (alert_changes ..)
    | with_reducible apply Changes.after (stepError_changes ..)
    | dsimp only
    | split
    | simp only [id_eq]
    | (intro p hp; cases p <;> first | rfl | (exfalso; revert hp; decide))

theorem readShare_changes (r : SvcId) (x : Nat) (n : Nat) (s : State) :
    Changes [.alerts, .reach, .barge, .basin, .port, .keeper, .ring, .sys, .eph, .twp, .slu, .link, .spdm, .eye, .col, .chr, .flight, .freeCtr] s (readShare r x n s).2 := by
  unfold readShare
  repeat' first
    | assumption
    | decide
    | with_reducible apply Changes.refl
    | with_reducible apply Changes.after (basinError_changes ..)
    | with_reducible apply Changes.after (countCorrected_changes ..)
    | with_reducible apply Changes.after (State.onBasin_changes ..)
    | with_reducible apply Changes.after (forAll_changes (fun _ _ => ?_) _ _) (fun _ h => h)
    | dsimp only
    | split
    | simp only [id_eq]
    | (intro p hp; cases p <;> first | rfl | (exfalso; revert hp; decide))

theorem readRanges_changes (b : BargeId) (a1 : List Range) (a2 : State) :
    Changes [.alerts, .isl, .mer, .reach, .barge, .spareClock, .basin, .port, .twPkg, .keeper, .ring, .sys, .eph, .twp, .slu, .link, .spdm, .eye, .col, .chr, .flight, .freeCtr, .out] a2 (readRanges b a1 a2).2 := by
  induction a1 generalizing a2 with
  | nil => exact Changes.refl _ _
  | cons x l ih =>
    unfold readRanges
    repeat' first
      | assumption
      | decide
      | with_reducible apply Changes.after (ih ..) (fun _ h => h)
      | with_reducible apply Changes.refl
      | with_reducible apply Changes.after (readShare_changes ..)
      | with_reducible apply Changes.after (readSpad_changes ..)
      | dsimp only
      | split

theorem becomeSpare_changes (b : BargeId) (s : State) :
    Changes [.isl, .barge, .spareClock, .port, .keeper, .slu, .eye, .col, .chr, .flight, .freeCtr, .out] s (becomeSpare b s) := by
  unfold becomeSpare
  repeat' first
    | assumption
    | decide
    | with_reducible apply Changes.refl
    | with_reducible apply Changes.after (refill_changes ..)
    | with_reducible apply Changes.after (toSpare_changes ..)
    | dsimp only
    | split
    | simp only [id_eq]
    | (intro p hp; cases p <;> first | rfl | (exfalso; revert hp; decide))

theorem bargeDredged_changes (b : BargeId) (s : State) :
    Changes [.isl, .reach, .barge, .spareClock, .basin, .port, .keeper, .ring, .sys, .eph, .twp, .slu, .link, .spdm, .eye, .col, .chr, .flight, .freeCtr, .out] s (bargeDredged b s) := by
  unfold bargeDredged
  repeat' first
    | assumption
    | decide
    | with_reducible apply Changes.refl
    | with_reducible apply Changes.after (clearBarge_changes ..)
    | with_reducible apply Changes.after (becomeSpare_changes ..)
    | with_reducible apply Changes.after (resumeBarge_changes ..)
    | with_reducible apply Changes.after (State.onBarge_changes ..)
    | with_reducible apply Changes.after (settleLosses_changes ..)
    | dsimp only
    | split
    | simp only [id_eq]
    | (intro p hp; cases p <;> first | rfl | (exfalso; revert hp; decide))

theorem beginInit_changes (n : ReachId) (rec : Option (Nat × Fin 2)) (s : State) :
    Changes [.reach, .barge, .port, .keeper, .eye, .freeCtr] s (beginInit n rec s) := by
  unfold beginInit
  repeat' first
    | assumption
    | decide
    | with_reducible apply Changes.refl
    | with_reducible apply Changes.after (State.onReach_changes ..)
    | with_reducible apply Changes.after (runOnAll_changes ..)
    | dsimp only
    | split
    | simp only [id_eq]
    | (intro p hp; cases p <;> first | rfl | (exfalso; revert hp; decide))

theorem pumpExchange_changes (l : LinkId) (r : ReachId) (s : State) :
    Changes [.alerts, .reach, .barge, .basin, .port, .keeper, .ring, .sys, .eph, .twp, .slu, .link, .spdm, .eye, .col, .chr, .flight, .freeCtr] s (pumpExchange l r s) := by
  unfold pumpExchange
  repeat' first
    | assumption
    | decide
    | with_reducible apply Changes.refl
    | with_reducible apply Changes.after (readShare_changes ..)
    | with_reducible apply Changes.after (onChan_changes ..)
    | dsimp only
    | split
    | simp only [id_eq]
    | (intro p hp; cases p <;> first | rfl | (exfalso; revert hp; decide))

theorem pumpExchanges_changes (r : SvcId) (s : State) :
    Changes [.alerts, .reach, .barge, .basin, .port, .keeper, .ring, .sys, .eph, .twp, .slu, .link, .spdm, .eye, .col, .chr, .flight, .freeCtr] s (pumpExchanges r s) := by
  unfold pumpExchanges
  repeat' first
    | assumption
    | decide
    | with_reducible apply Changes.refl
    | with_reducible apply Changes.after (pumpExchange_changes ..)
    | with_reducible apply Changes.after (forAll_changes (fun _ _ => ?_) _ _) (fun _ h => h)
    | dsimp only
    | split
    | simp only [id_eq]
    | (intro p hp; cases p <;> first | rfl | (exfalso; revert hp; decide))

theorem finishClearing_changes (n : ReachId) (s : State) : Changes [.barge, .basin, .port, .chr] s (finishClearing n s) := by
  unfold finishClearing
  dsimp only
  refine (discardPorts_changes _ _).after (by decide) ((forAll_changes (fun u t => ?_) _ _).after (fun _ h => h)
    (forAll_changes (fun _ _ => (clearBarge_changes _ _).mono (by decide)) _ _))
  split
  · exact Changes.refl _ _
  · exact (clearUnit_changes _ _).mono (by decide)

theorem sealReach_changes (n : ReachId) (s : State) :
    Changes [.isl, .iso, .reach, .barge, .keeper, .sys, .slu, .eye, .chr, .flight, .freeCtr, .out] s (sealReach n s) := by
  unfold sealReach
  repeat' first
    | assumption
    | decide
    | with_reducible apply Changes.refl
    | with_reducible apply Changes.after (setReachState_changes ..)
    | with_reducible apply Changes.after (State.onReach_changes ..)
    | with_reducible apply Changes.after (State.onKeeper_changes ..)
    | with_reducible apply Changes.after (State.onSlu_changes ..)
    | with_reducible apply Changes.after (clockBarge_changes ..)
    | with_reducible apply Changes.after (forAll_changes (fun _ _ => ?_) _ _) (fun _ h => h)
    | dsimp only
    | split
    | with_reducible apply Changes.set_iso
    | simp only [id_eq]
    | (intro p hp; cases p <;> first | rfl | (exfalso; revert hp; decide))

theorem initDone_changes (n : ReachId) (s : State) :
    Changes [.isl, .iso, .reach, .barge, .keeper, .ring, .sys, .slu, .eye, .chr, .flight, .freeCtr, .out] s (initDone n s) := by
  unfold initDone
  repeat' first
    | assumption
    | decide
    | with_reducible apply Changes.refl
    | with_reducible apply Changes.after (sealReach_changes ..)
    | with_reducible apply Changes.after (answerLoad_changes ..)
    | with_reducible apply Changes.after (State.onReach_changes ..)
    | dsimp only
    | split
    | simp only [id_eq]
    | (intro p hp; cases p <;> first | rfl | (exfalso; revert hp; decide))

theorem programDone_changes (r : SvcId) (b : BargeId) (s : State) :
    Changes [.isl, .iso, .reach, .barge, .keeper, .ring, .sys, .slu, .eye, .chr, .flight, .freeCtr, .out] s (programDone r b s) := by
  unfold programDone
  repeat' first
    | assumption
    | decide
    | with_reducible apply Changes.refl
    | with_reducible apply Changes.after (State.onKeeper_changes ..)
    | with_reducible apply Changes.after (initDone_changes ..)
    | dsimp only
    | split
    | with_reducible apply Changes.set_flight
    | simp only [id_eq]
    | (intro p hp; cases p <;> first | rfl | (exfalso; revert hp; decide))

theorem releaseReach_changes (n : ReachId) (s : State) :
    Changes [.alerts, .isl, .reach, .barge, .spareClock, .basin, .port, .keeper, .ring, .sys, .eph, .slu, .link, .eye, .col, .chr, .flight, .freeCtr, .out] s (releaseReach n s) := by
  unfold releaseReach
  repeat' first
    | assumption
    | decide
    | with_reducible apply Changes.refl
    | with_reducible apply Changes.after (toSpare_changes ..)
    | with_reducible apply Changes.after (failHandshakes_changes ..)
    | with_reducible apply Changes.after (setUnitOwner_changes ..)
    | with_reducible apply Changes.after (setUnitEpoch_changes ..)
    | with_reducible apply Changes.after (State.onBasin_changes ..)
    | with_reducible apply Changes.after (freeOwner_changes ..)
    | with_reducible apply Changes.after (State.onEph_changes ..)
    | with_reducible apply Changes.after (resetRings_changes ..)
    | with_reducible apply Changes.after (State.onKeeper_changes ..)
    | with_reducible apply Changes.after (clearReachCounters_changes ..)
    | with_reducible apply Changes.after (State.onSlu_changes ..)
    | with_reducible apply Changes.after (setReachState_changes ..)
    | with_reducible apply Changes.after (State.onReach_changes ..)
    | with_reducible apply Changes.after (forAll_changes (fun _ _ => ?_) _ _) (fun _ h => h)
    | dsimp only
    | split
    | with_reducible apply Changes.set_link
    | with_reducible apply Changes.set_port
    | with_reducible apply Changes.set_port_link
    | simp only [id_eq]
    | (intro p hp; cases p <;> first | rfl | (exfalso; revert hp; decide))

theorem reassign_changes (n : ReachId) (s : State) :
    Changes [.isl, .barge, .spareClock, .basin, .keeper, .slu, .col, .chr, .flight, .out] s (reassign n s) := by
  unfold reassign
  repeat' first
    | assumption
    | decide
    | with_reducible apply Changes.refl
    | with_reducible apply Changes.after (toSpare_changes ..)
    | with_reducible apply Changes.after (State.onBarge_changes ..)
    | with_reducible apply Changes.after (setUnitEpoch_changes ..)
    | with_reducible apply Changes.after (forAll_changes (fun _ _ => ?_) _ _) (fun _ h => h)
    | dsimp only
    | split
    | simp only [id_eq]
    | (intro p hp; cases p <;> first | rfl | (exfalso; revert hp; decide))

theorem reachDredged_changes (n : ReachId) (s : State) :
    Changes [.alerts, .isl, .epochCtr, .reach, .barge, .spareClock, .basin, .port, .keeper, .ring, .sys, .eph, .twp, .slu, .link, .spdm, .eye, .col, .chr, .flight, .freeCtr, .out] s (reachDredged n s) := by
  unfold reachDredged
  repeat' first
    | assumption
    | decide
    | with_reducible apply Changes.refl
    | with_reducible apply Changes.after (finishClearing_changes ..)
    | with_reducible apply Changes.after (reassign_changes ..)
    | with_reducible apply Changes.after (newEpoch_changes ..)
    | with_reducible apply Changes.after (State.onKeeper_changes ..)
    | with_reducible apply Changes.after (State.onReach_changes ..)
    | with_reducible apply Changes.after (answerLoad_changes ..)
    | with_reducible apply Changes.after (refill_changes ..)
    | with_reducible apply Changes.after (settleLosses_changes ..)
    | with_reducible apply Changes.after (setReachState_changes ..)
    | with_reducible apply Changes.after (releaseReach_changes ..)
    | dsimp only
    | split
    | simp only [id_eq]
    | (intro p hp; cases p <;> first | rfl | (exfalso; revert hp; decide))

end Sys2Proof.Machine
end

