-- ==== Sys2Proof/Laws/FrameUnits.lean ====
section
/-! SUPPORT. What each operation can change: the Staircase, Astrolabe, attestation and the operand forms of the Passage. -/

namespace Sys2Proof.Machine

set_option Elab.async false

/-! ### AstOps -/

theorem astWipe_changes (owner : Nat) (s : State) :
    Changes [.ast, .spdm] s (astWipe owner s) := by
  unfold astWipe
  repeat' first
    | assumption
    | decide
    | with_reducible apply Changes.refl
    | with_reducible apply Changes.after (State.onSpdm_changes ..)
    | with_reducible apply Changes.after (State.onAst_changes ..)
    | dsimp only
    | split
    | simp only [id_eq]
    | (intro p hp; cases p <;> first | rfl | (exfalso; revert hp; decide))

theorem astTake_changes (owner : Nat) (s : State) :
    Changes [.ast, .spdm] s (astTake owner s) := by
  unfold astTake
  repeat' first
    | assumption
    | decide
    | with_reducible apply Changes.refl
    | with_reducible apply Changes.after (astWipe_changes ..)
    | dsimp only
    | split
    | simp only [id_eq]
    | (intro p hp; cases p <;> first | rfl | (exfalso; revert hp; decide))

theorem astBegin_changes (op : AstOp) (owner : Nat) (keyline : Nat) (label : Option Nat) (slot : SlotId) (s : State) :
    Changes [.alerts, .sys, .eph, .ast, .spdm, .chr, .freeCtr] s (astBegin op owner keyline label slot s) := by
  unfold astBegin
  repeat' first
    | assumption
    | decide
    | with_reducible apply Changes.refl
    | with_reducible apply Changes.after (countDraws_changes ..)
    | with_reducible apply Changes.after (chrAlways_changes ..)
    | with_reducible apply Changes.after (astTake_changes ..)
    | with_reducible apply Changes.after (State.onAst_changes ..)
    | with_reducible apply Changes.after (useKey_changes ..)
    | with_reducible apply Changes.after (draw_changes ..)
    | dsimp only
    | split
    | simp only [id_eq]
    | (intro p hp; cases p <;> first | rfl | (exfalso; revert hp; decide))

theorem astAbort_changes (s : State) :
    Changes [.ast, .spdm] s (astAbort s) := by
  unfold astAbort
  repeat' first
    | assumption
    | decide
    | with_reducible apply Changes.refl
    | with_reducible apply Changes.after (State.onAst_changes ..)
    | with_reducible apply Changes.after (astWipe_changes ..)
    | dsimp only
    | split
    | simp only [id_eq]
    | (intro p hp; cases p <;> first | rfl | (exfalso; revert hp; decide))

theorem invariantFailed_changes (s : State) :
    Changes [.alerts, .sys, .ast, .spdm] s (invariantFailed s) := by
  unfold invariantFailed
  repeat' first
    | assumption
    | decide
    | with_reducible apply Changes.refl
    | with_reducible apply Changes.after (State.onAst_changes ..)
    | with_reducible apply Changes.after (astAbort_changes ..)
    | with_reducible apply Changes.after (alert_changes ..)
    | dsimp only
    | split
    | simp only [id_eq]
    | (intro p hp; cases p <;> first | rfl | (exfalso; revert hp; decide))

theorem endSelftest_changes (j : AstJob) (passes : Bool) (s : State) :
    Changes [.alerts, .sys, .ast] s (endSelftest j passes s) := by
  unfold endSelftest
  repeat' first
    | assumption
    | decide
    | with_reducible apply Changes.refl
    | with_reducible apply Changes.after (State.onAst_changes ..)
    | with_reducible apply Changes.after (alert_changes ..)
    | dsimp only
    | split
    | simp only [id_eq]
    | (intro p hp; cases p <;> first | rfl | (exfalso; revert hp; decide))

theorem astEnd_changes (holds : Bool) (passes : Bool) (s : State) :
    Changes [.alerts, .sys, .ast, .spdm] s (astEnd holds passes s) := by
  unfold astEnd
  repeat' first
    | assumption
    | decide
    | with_reducible apply Changes.refl
    | with_reducible apply Changes.after (State.onAst_changes ..)
    | with_reducible apply Changes.after (endSelftest_changes ..)
    | with_reducible apply Changes.after (invariantFailed_changes ..)
    | dsimp only
    | split
    | simp only [id_eq]
    | (intro p hp; cases p <;> first | rfl | (exfalso; revert hp; decide))

theorem merMove_changes (out : Bool) (owner : Nat) (d : Bytes) (s : State) :
    Changes [.mer, .ast] s (merMove out owner d s) := by
  unfold merMove
  repeat' first
    | assumption
    | decide
    | with_reducible apply Changes.refl
    | with_reducible apply Changes.after (State.onAst_changes ..)
    | with_reducible apply Changes.after (State.onMer_changes ..)
    | dsimp only
    | split
    | simp only [id_eq]
    | (intro p hp; cases p <;> first | rfl | (exfalso; revert hp; decide))

theorem astRun_changes (op : AstOp) (owner : Nat) (keyline : Nat) (label : Option Nat) (slot : SlotId) (input : Bytes) (s : State) :
    Changes [.alerts, .mer, .sys, .eph, .ast, .spdm, .chr, .freeCtr] s (astRun op owner keyline label slot input s).2.2 := by
  unfold astRun
  repeat' first
    | assumption
    | decide
    | with_reducible apply Changes.refl
    | with_reducible apply Changes.after (merMove_changes ..)
    | with_reducible apply Changes.after (astTake_changes ..)
    | with_reducible apply Changes.after (astEnd_changes ..)
    | with_reducible apply Changes.after (astBegin_changes ..)
    | dsimp only
    | split
    | simp only [id_eq]
    | (intro p hp; cases p <;> first | rfl | (exfalso; revert hp; decide))

theorem parityFault_changes (s : State) :
    Changes [.alerts, .sys, .ast, .spdm] s (parityFault s) := by
  unfold parityFault
  repeat' first
    | assumption
    | decide
    | with_reducible apply Changes.refl
    | with_reducible apply Changes.after (alert_changes ..)
    | with_reducible apply Changes.after (State.onAst_changes ..)
    | with_reducible apply Changes.after (astAbort_changes ..)
    | dsimp only
    | split
    | simp only [id_eq]
    | (intro p hp; cases p <;> first | rfl | (exfalso; revert hp; decide))

/-! ### StcOps -/

theorem storeOp_changes (s : State) :
    Changes [.stc] s (storeOp s).2 := by
  unfold storeOp
  repeat' first
    | assumption
    | decide
    | with_reducible apply Changes.refl
    | with_reducible apply Changes.after (State.onStc_changes ..)
    | dsimp only
    | split
    | simp only [id_eq]
    | (intro p hp; cases p <;> first | rfl | (exfalso; revert hp; decide))

theorem tryWriteCtl_changes (f : Staircase → Staircase) (s : State) :
    Changes [.stc] s (tryWriteCtl f s).2 := by
  unfold tryWriteCtl
  repeat' first
    | assumption
    | decide
    | with_reducible apply Changes.refl
    | with_reducible apply Changes.after (storeOp_changes ..)
    | with_reducible apply Changes.after (State.onStc_changes ..)
    | dsimp only
    | split
    | simp only [id_eq]
    | (intro p hp; cases p <;> first | rfl | (exfalso; revert hp; decide))

theorem writeCtl_changes (f : Staircase → Staircase) (s : State) :
    Changes [.stc] s (writeCtl f s) := by
  unfold writeCtl
  repeat' first
    | assumption
    | decide
    | with_reducible apply Changes.refl
    | with_reducible apply Changes.after (tryWriteCtl_changes ..)
    | dsimp only
    | split
    | simp only [id_eq]
    | (intro p hp; cases p <;> first | rfl | (exfalso; revert hp; decide))

theorem hybridVerify_changes (ec : Bytes) (pq : Bytes) (p : Nat) (m : Bytes) (sig : Bytes) (s : State) :
    Changes [.alerts, .mer, .sys, .eph, .ast, .spdm, .chr, .freeCtr] s (hybridVerify ec pq p m sig s).2 := by
  unfold hybridVerify
  repeat' first
    | assumption
    | decide
    | with_reducible apply Changes.refl
    | with_reducible apply Changes.after (astRun_changes ..)
    | dsimp only
    | split
    | simp only [id_eq]
    | (intro p hp; cases p <;> first | rfl | (exfalso; revert hp; decide))

theorem manifestSigned_changes (m : Bytes) (s : State) :
    Changes [.alerts, .mer, .sys, .eph, .ast, .spdm, .chr, .freeCtr] s (manifestSigned m s).2 := by
  unfold manifestSigned
  repeat' first
    | assumption
    | decide
    | with_reducible apply Changes.refl
    | with_reducible apply Changes.after (hybridVerify_changes ..)
    | dsimp only
    | split
    | simp only [id_eq]
    | (intro p hp; cases p <;> first | rfl | (exfalso; revert hp; decide))

theorem manifestFail_changes (m : Bytes) (s : State) :
    Changes [.alerts, .mer, .sys, .eph, .ast, .spdm, .chr, .freeCtr] s (manifestFail m s).2 := by
  unfold manifestFail
  repeat' first
    | assumption
    | decide
    | with_reducible apply Changes.refl
    | with_reducible apply Changes.after (manifestSigned_changes ..)
    | dsimp only
    | split
    | simp only [id_eq]
    | (intro p hp; cases p <;> first | rfl | (exfalso; revert hp; decide))

theorem slotFail_changes (a : Bool) (s : State) :
    Changes [.alerts, .mer, .sys, .eph, .ast, .stc, .spdm, .chr, .freeCtr] s (slotFail a s).2 := by
  unfold slotFail
  repeat' first
    | assumption
    | decide
    | with_reducible apply Changes.refl
    | with_reducible apply Changes.after (storeOp_changes ..)
    | with_reducible apply Changes.after (manifestFail_changes ..)
    | dsimp only
    | split
    | simp only [id_eq]
    | (intro p hp; cases p <;> first | rfl | (exfalso; revert hp; decide))

theorem trySlots_changes (a0 : List Bool) (a1 : Nat) (a2 : State) :
    Changes [.alerts, .mer, .sys, .eph, .ast, .stc, .spdm, .chr, .freeCtr] a2 (trySlots a0 a1 a2).2.2 := by
  induction a0 generalizing a2 a1 with
  | nil => exact Changes.refl _ _
  | cons x l ih =>
    unfold trySlots
    repeat' first
      | assumption
      | decide
      | with_reducible apply Changes.after (ih ..) (fun _ h => h)
      | with_reducible apply Changes.refl
      | with_reducible apply Changes.after (State.onStc_changes ..)
      | with_reducible apply Changes.after (slotFail_changes ..)
      | dsimp only
      | split

theorem storeOps_changes (a0 : Nat) (a1 : State) :
    Changes [.stc] a1 (storeOps a0 a1).2 := by
  induction a0 generalizing a1 with
  | zero => exact Changes.refl _ _
  | succ f ih =>
    unfold storeOps
    repeat' first
      | assumption
      | decide
      | with_reducible apply Changes.after (ih ..) (fun _ h => h)
      | with_reducible apply Changes.refl
      | with_reducible apply Changes.after (storeOp_changes ..)
      | dsimp only
      | split

/-! ### BlockOps -/

theorem enterDrydock_changes (cause : Nat) (s : State) :
    Changes [.mer, .twp] s (enterDrydock cause s) := by
  unfold enterDrydock
  repeat' first
    | assumption
    | decide
    | with_reducible apply Changes.refl
    | with_reducible apply Changes.after (bindDrydock_changes ..)
    | with_reducible apply Changes.after (State.onMer_changes ..)
    | dsimp only
    | split
    | simp only [id_eq]
    | (intro p hp; cases p <;> first | rfl | (exfalso; revert hp; decide))

theorem selectSlot_changes (s : State) :
    Changes [.alerts, .mer, .meas, .sys, .eph, .ast, .stc, .twp, .spdm, .chr, .freeCtr] s (selectSlot s) := by
  unfold selectSlot
  repeat' first
    | assumption
    | decide
    | with_reducible apply Changes.refl
    | with_reducible apply Changes.after (storeOp_changes ..)
    | with_reducible apply Changes.after (State.onStc_changes ..)
    | with_reducible apply Changes.after (writeCtl_changes ..)
    | with_reducible apply Changes.after (enterDrydock_changes ..)
    | with_reducible apply Changes.after (extend_changes ..)
    | with_reducible apply Changes.after (trySlots_changes ..)
    | with_reducible apply Changes.after (State.onMer_changes ..)
    | dsimp only
    | split
    | simp only [id_eq]
    | (intro p hp; cases p <;> first | rfl | (exfalso; revert hp; decide))

theorem keepEnter_changes (s : State) :
    Changes [.isl, .barge, .port, .keeper, .slu, .chr, .flight, .out] s (keepEnter s) := by
  unfold keepEnter withNotice
  repeat' first
    | assumption
    | decide
    | with_reducible apply Changes.refl
    | with_reducible apply Changes.after (State.onSlu_changes ..)
    | with_reducible apply Changes.after (clockIsland_changes ..)
    | with_reducible apply Changes.after (unpowerIsl_changes ..)
    | with_reducible apply Changes.after (setClock_changes ..)
    | with_reducible apply Changes.after (clearUnitCounters_changes ..)
    | with_reducible apply Changes.after (syncRails_changes ..)
    | with_reducible apply Changes.after (forAll_changes (fun _ _ => ?_) _ _) (fun _ h => h)
    | dsimp only
    | split
    | with_reducible apply Changes.set_port
    | simp only [id_eq]
    | (intro p hp; cases p <;> first | rfl | (exfalso; revert hp; decide))

theorem settleKeep_changes (s : State) :
    Changes [.isl, .barge, .port, .keeper, .slu, .chr, .flight, .out] s (settleKeep s) := by
  unfold settleKeep
  repeat' first
    | assumption
    | decide
    | with_reducible apply Changes.refl
    | with_reducible apply Changes.after (keepEnter_changes ..)
    | dsimp only
    | split
    | simp only [id_eq]
    | (intro p hp; cases p <;> first | rfl | (exfalso; revert hp; decide))

theorem keepWake_changes (s : State) :
    Changes [.isl, .barge, .port, .keeper, .sys, .slu, .col, .chr, .flight, .out] s (keepWake s) := by
  unfold keepWake withNotice
  repeat' first
    | assumption
    | decide
    | with_reducible apply Changes.refl
    | with_reducible apply Changes.after (State.onSlu_changes ..)
    | with_reducible apply Changes.after (State.onSys_changes ..)
    | with_reducible apply Changes.after (State.onCol_changes ..)
    | with_reducible apply Changes.after (powerIsl_changes ..)
    | with_reducible apply Changes.after (clockIsland_changes ..)
    | with_reducible apply Changes.after (clearBarge_changes ..)
    | with_reducible apply Changes.after (syncRails_changes ..)
    | with_reducible apply Changes.after (forAll_changes (fun _ _ => ?_) _ _) (fun _ h => h)
    | dsimp only
    | split
    | simp only [id_eq]
    | (intro p hp; cases p <;> first | rfl | (exfalso; revert hp; decide))

theorem almDrop_changes (s : State) :
    Changes [.alm, .spdm, .freeCtr, .out] s (almDrop s) := by
  unfold almDrop
  repeat' first
    | assumption
    | decide
    | with_reducible apply Changes.refl
    | with_reducible apply Changes.after (almInterrupt_changes ..)
    | with_reducible apply Changes.after (State.onAlm_changes ..)
    | dsimp only
    | split
    | simp only [id_eq]
    | (intro p hp; cases p <;> first | rfl | (exfalso; revert hp; decide))

theorem checkWait_changes (s : State) :
    Changes [.mer] s (checkWait s) := by
  unfold checkWait
  repeat' first
    | assumption
    | decide
    | with_reducible apply Changes.refl
    | with_reducible apply Changes.after (State.onMer_changes ..)
    | dsimp only
    | split
    | simp only [id_eq]
    | (intro p hp; cases p <;> first | rfl | (exfalso; revert hp; decide))

theorem disableBarges_changes (s : State) :
    Changes [.isl, .barge] s (disableBarges s) := by
  unfold disableBarges
  repeat' first
    | assumption
    | decide
    | with_reducible apply Changes.refl
    | with_reducible apply Changes.after (powerIsl_changes ..)
    | with_reducible apply Changes.after (unpowerIsl_changes ..)
    | with_reducible apply Changes.after (State.onBarge_changes ..)
    | with_reducible apply Changes.after (forAll_changes (fun _ _ => ?_) _ _) (fun _ h => h)
    | dsimp only
    | split
    | simp only [id_eq]
    | (intro p hp; cases p <;> first | rfl | (exfalso; revert hp; decide))

theorem dredgeBlock_changes (s : State) :
    Changes [.iso, .reach, .barge, .spareClock, .basin, .port, .twPkg, .loader, .keeper, .ring, .sys, .eph, .ast, .alm, .stc, .twp, .slu, .link, .spdm, .eye, .col, .flight, .freeCtr, .out] s (dredgeBlock s) := by
  unfold dredgeBlock
  repeat' first
    | assumption
    | decide
    | with_reducible apply Changes.refl
    | with_reducible apply Changes.after (almDrop_changes ..)
    | with_reducible apply Changes.after (raiseIrq_changes ..)
    | dsimp only
    | split
    | with_reducible apply Changes.set_iso_reach_and_20
    | simp only [id_eq]
    | (intro p hp; cases p <;> first | rfl | (exfalso; revert hp; decide))

theorem enableLinks_changes (s : State) :
    Changes [.isl] s (enableLinks s) := by
  unfold enableLinks
  repeat' first
    | assumption
    | decide
    | with_reducible apply Changes.refl
    | with_reducible apply Changes.after (powerIsl_changes ..)
    | with_reducible apply Changes.after (unpowerIsl_changes ..)
    | with_reducible apply Changes.after (forAll_changes (fun _ _ => ?_) _ _) (fun _ h => h)
    | dsimp only
    | split
    | simp only [id_eq]
    | (intro p hp; cases p <;> first | rfl | (exfalso; revert hp; decide))

theorem resetBlock_changes (s : State) : Changes [.pins, .isl, .iso, .mer, .meas, .epochCtr, .reach, .barge, .spareClock, .basin, .port, .twPkg, .loader, .keeper, .ring, .sys, .eph, .ast, .alm, .stc, .twp, .slu, .link, .spdm, .eye, .col, .chr, .flight, .freeCtr, .out] s (resetBlock s) := by
  refine Changes.after (k := [.pins, .isl, .iso, .mer, .meas, .epochCtr, .reach, .barge, .spareClock, .basin, .port, .twPkg, .loader, .keeper, .ring, .sys, .eph, .ast, .alm, .stc, .twp, .slu, .link, .spdm, .eye, .col, .chr, .flight, .freeCtr, .out]) (t := almDrop s) ?_ (fun _ h => h) ((almDrop_changes _).mono (by decide))
  intro p hp
  cases p <;> first | rfl | (exfalso; revert hp; decide)

theorem enterReset_changes (status : Nat) (s : State) :
    Changes [.pins, .alerts, .isl, .iso, .mer, .meas, .epochCtr, .reach, .barge, .spareClock, .basin, .port, .twPkg, .loader, .keeper, .ring, .sys, .eph, .ast, .alm, .stc, .twp, .slu, .link, .spdm, .eye, .col, .chr, .flight, .freeCtr, .out] s (enterReset status s) := by
  unfold enterReset
  repeat' first
    | assumption
    | decide
    | with_reducible apply Changes.refl
    | with_reducible apply Changes.after (resetBlock_changes ..)
    | with_reducible apply Changes.after (alert_changes ..)
    | dsimp only
    | split
    | simp only [id_eq]
    | (intro p hp; cases p <;> first | rfl | (exfalso; revert hp; decide))

theorem loadMicrocode_changes (s : State) :
    Changes [.isl, .barge, .spareClock, .keeper, .slu, .col, .chr, .flight, .out] s (loadMicrocode s) := by
  unfold loadMicrocode
  repeat' first
    | assumption
    | decide
    | with_reducible apply Changes.refl
    | with_reducible apply Changes.after (clockIsland_changes ..)
    | with_reducible apply Changes.after (enterSpare_changes ..)
    | with_reducible apply Changes.after (State.onBarge_changes ..)
    | with_reducible apply Changes.after (syncRails_changes ..)
    | with_reducible apply Changes.after (forAll_changes (fun _ _ => ?_) _ _) (fun _ h => h)
    | dsimp only
    | split
    | simp only [id_eq]
    | (intro p hp; cases p <;> first | rfl | (exfalso; revert hp; decide))

theorem porBlock_changes (recordCut : Bool) (s : State) : Changes [.pins, .alerts, .windows, .isl, .iso, .mer, .meas, .epochCtr, .reach, .barge, .spareClock, .basin, .port, .twPkg, .loader, .keeper, .ring, .sys, .eph, .ast, .alm, .stc, .twp, .slu, .link, .spdm, .eye, .col, .chr, .flight, .freeCtr, .out] s (porBlock recordCut s) := by
  refine Changes.after (k := [.pins, .alerts, .windows, .isl, .iso, .mer, .meas, .epochCtr, .reach, .barge, .spareClock, .basin, .port, .twPkg, .loader, .keeper, .ring, .sys, .eph, .ast, .alm, .stc, .twp, .slu, .link, .spdm, .eye, .col, .chr, .flight, .freeCtr, .out]) (t := almDrop s) ?_ (fun _ h => h) ((almDrop_changes _).mono (by decide))
  intro p hp
  cases p <;> first | rfl | (exfalso; revert hp; decide)

theorem releaseIsland_changes (i : Fin 64) (s : State) :
    Changes [.isl] s (releaseIsland i s) := by
  unfold releaseIsland
  repeat' first
    | assumption
    | decide
    | with_reducible apply Changes.refl
    | with_reducible apply Changes.after (powerIsl_changes ..)
    | dsimp only
    | split
    | simp only [id_eq]
    | (intro p hp; cases p <;> first | rfl | (exfalso; revert hp; decide))

theorem startBlock_changes (s : State) :
    Changes [.pins, .isl, .mer, .meas, .keeper, .eph, .ast, .alm, .twp, .slu, .spdm, .eye, .col, .chr, .out] s (startBlock s) := by
  unfold startBlock
  repeat' first
    | assumption
    | decide
    | with_reducible apply Changes.refl
    | with_reducible apply Changes.after (releaseIsland_changes ..)
    | with_reducible apply Changes.after (syncRails_changes ..)
    | with_reducible apply Changes.after (extend_changes ..)
    | with_reducible apply Changes.after (forAll_changes (fun _ _ => ?_) _ _) (fun _ h => h)
    | dsimp only
    | split
    | with_reducible apply Changes.set_pins_mer_and_11
    | simp only [id_eq]
    | (intro p hp; cases p <;> first | rfl | (exfalso; revert hp; decide))

theorem securityRestart_changes (s : State) :
    Changes [.pins, .alerts, .isl, .iso, .mer, .meas, .reach, .barge, .spareClock, .basin, .port, .twPkg, .loader, .keeper, .ring, .sys, .eph, .ast, .alm, .stc, .twp, .slu, .link, .spdm, .eye, .col, .chr, .flight, .freeCtr, .out] s (securityRestart s) := by
  unfold securityRestart
  repeat' first
    | assumption
    | decide
    | with_reducible apply Changes.refl
    | with_reducible apply Changes.after (dredgeBlock_changes ..)
    | with_reducible apply Changes.after (alert_changes ..)
    | with_reducible apply Changes.after (startBlock_changes ..)
    | dsimp only
    | split
    | with_reducible apply Changes.set_mer_meas
    | simp only [id_eq]
    | (intro p hp; cases p <;> first | rfl | (exfalso; revert hp; decide))

theorem startIfFree_changes (s : State) :
    Changes [.pins, .isl, .mer, .meas, .keeper, .eph, .ast, .alm, .twp, .slu, .spdm, .eye, .col, .chr, .out] s (startIfFree s) := by
  unfold startIfFree
  repeat' first
    | assumption
    | decide
    | with_reducible apply Changes.refl
    | with_reducible apply Changes.after (startBlock_changes ..)
    | dsimp only
    | split
    | simp only [id_eq]
    | (intro p hp; cases p <;> first | rfl | (exfalso; revert hp; decide))

theorem tamperAlmanac_changes (s : State) :
    Changes [.alm, .slu, .spdm, .chr, .freeCtr, .out] s (tamperAlmanac s) := by
  unfold tamperAlmanac
  repeat' first
    | assumption
    | decide
    | with_reducible apply Changes.refl
    | with_reducible apply Changes.after (syncRail_changes ..)
    | with_reducible apply Changes.after (almInterrupt_changes ..)
    | dsimp only
    | split
    | simp only [id_eq]
    | (intro p hp; cases p <;> first | rfl | (exfalso; revert hp; decide))

theorem tamperClocks_changes (s : State) :
    Changes [.isl, .slu, .chr, .out] s (tamperClocks s) := by
  unfold tamperClocks
  repeat' first
    | assumption
    | decide
    | with_reducible apply Changes.refl
    | with_reducible apply Changes.after (syncRails_changes ..)
    | with_reducible apply Changes.after (powerIsl_changes ..)
    | with_reducible apply Changes.after (forAll_changes (fun _ _ => ?_) _ _) (fun _ h => h)
    | dsimp only
    | split
    | simp only [id_eq]
    | (intro p hp; cases p <;> first | rfl | (exfalso; revert hp; decide))

theorem tamperEnds_changes (s : State) :
    Changes [.pins, .loader, .stc, .spdm, .eye] s (tamperEnds s) := by
  unfold tamperEnds
  repeat' first
    | assumption
    | decide
    | with_reducible apply Changes.refl
    | dsimp only
    | split
    | with_reducible apply Changes.set_pins_loader_and_3
    | simp only [id_eq]
    | (intro p hp; cases p <;> first | rfl | (exfalso; revert hp; decide))

theorem zeroKeys_changes (s : State) :
    Changes [.eph] s (zeroKeys s) := by
  unfold zeroKeys
  repeat' first
    | assumption
    | decide
    | with_reducible apply Changes.refl
    | with_reducible apply Changes.after (State.onEph_changes ..)
    | dsimp only
    | split
    | simp only [id_eq]
    | (intro p hp; cases p <;> first | rfl | (exfalso; revert hp; decide))

theorem tamperResponse_changes (s : State) :
    Changes [.pins, .isl, .mer, .reach, .barge, .spareClock, .basin, .port, .twPkg, .loader, .keeper, .ring, .sys, .eph, .ast, .alm, .stc, .twp, .slu, .link, .spdm, .eye, .col, .chr, .flight, .freeCtr, .out] s (tamperResponse s) := by
  unfold tamperResponse
  repeat' first
    | assumption
    | decide
    | with_reducible apply Changes.refl
    | with_reducible apply Changes.after (astAbort_changes ..)
    | with_reducible apply Changes.after (tamperEnds_changes ..)
    | with_reducible apply Changes.after (tamperAlmanac_changes ..)
    | with_reducible apply Changes.after (zeroKeys_changes ..)
    | with_reducible apply Changes.after (beginDredge_changes ..)
    | with_reducible apply Changes.after (dropChan_changes ..)
    | with_reducible apply Changes.after (releaseTwilight_changes ..)
    | with_reducible apply Changes.after (clearChannel_changes ..)
    | with_reducible apply Changes.after (State.onCol_changes ..)
    | with_reducible apply Changes.after (forAll_changes (fun _ _ => ?_) _ _) (fun _ h => h)
    | dsimp only
    | split
    | simp only [id_eq]
    | (intro p hp; cases p <;> first | rfl | (exfalso; revert hp; decide))

/-! ### MgmtOps -/

theorem endSession_changes (i : Fin 8) (s : State) :
    Changes [.port, .eph, .spdm, .chr] s (endSession i s) := by
  unfold endSession
  repeat' first
    | assumption
    | decide
    | with_reducible apply Changes.refl
    | with_reducible apply Changes.after (invalidateSlot_changes ..)
    | with_reducible apply Changes.after (State.onSpdm_changes ..)
    | dsimp only
    | split
    | simp only [id_eq]
    | (intro p hp; cases p <;> first | rfl | (exfalso; revert hp; decide))

theorem inSession_changes {l : List Part} {s : State} {what : String} {i : Fin 8} {y : Session} {f : State → State}
    (hl : ∀ p ∈ ([.alerts, .port, .sys, .eph, .spdm, .chr, .events] : List Part), p ∈ l) (h : ∀ t, Changes l t (f t)) : Changes l s (inSession what i y f s) := by
  have h1 : Changes l s (asType 0x06 s) := (asType_changes _ _).mono (fun p hp => hl p (by revert p; decide))
  have h2 : ∀ a b c u, Changes l s u → Changes l s (useKey a b c u).2.2 := fun a b c u hu => (useKey_changes _ _ _ _).after (fun p hp => hl p (by revert p; decide)) hu
  have h3 : ∀ u, Changes l s u → Changes l s (endSession i u) := fun u hu => (endSession_changes _ _).after (fun p hp => hl p (by revert p; decide)) hu
  have h4 : ∀ (g : Spdm → Spdm) u, Changes l s u → Changes l s (f (u.onSpdm g)) :=
    fun g u hu => (h _).after (fun _ hp => hp) ((State.onSpdm_changes _ _).after (fun p hp => hl p (by revert p; decide)) hu)
  unfold inSession
  dsimp only
  split
  · exact (refuse_changes _ _ _).after (fun p hp => hl p (by revert p; decide)) (h3 _ (h2 _ _ _ _ (h2 _ _ _ _ h1)))
  · split
    · exact h3 _ (h4 _ _ (h2 _ _ _ _ (h2 _ _ _ _ h1)))
    · exact h4 _ _ (h2 _ _ _ _ (h2 _ _ _ _ h1))

theorem handled_changes (s : State) :
    Changes [.chr] s (handled s) := by
  unfold handled
  repeat' first
    | assumption
    | decide
    | with_reducible apply Changes.refl
    | with_reducible apply Changes.after (chrEvent_changes ..)
    | dsimp only
    | split
    | simp only [id_eq]
    | (intro p hp; cases p <;> first | rfl | (exfalso; revert hp; decide))

theorem mctpMessage_changes (s : State) :
    Changes [.spdm, .chr] s (mctpMessage s) := by
  unfold mctpMessage
  repeat' first
    | assumption
    | decide
    | with_reducible apply Changes.refl
    | with_reducible apply Changes.after (asType_changes ..)
    | with_reducible apply Changes.after (chrEvent_changes ..)
    | dsimp only
    | split
    | simp only [id_eq]
    | (intro p hp; cases p <;> first | rfl | (exfalso; revert hp; decide))

/-! ### Almanac -/

theorem advanceLc_changes (token : Bytes) (l : Lc) (s : State) :
    Changes [.alerts, .mer, .sys, .eph, .ast, .alm, .slu, .spdm, .chr, .freeCtr, .out, .events] s (advanceLc token l s) := by
  unfold advanceLc
  repeat' first
    | assumption
    | decide
    | with_reducible apply Changes.refl
    | with_reducible apply Changes.after (hybridVerify_changes ..)
    | with_reducible apply Changes.after (syncRail_changes ..)
    | with_reducible apply Changes.after (almStart_changes ..)
    | with_reducible apply Changes.after (State.onMer_changes ..)
    | with_reducible apply Changes.after (refuseMgmt_changes ..)
    | dsimp only
    | split
    | simp only [id_eq]
    | (intro p hp; cases p <;> first | rfl | (exfalso; revert hp; decide))

theorem afterJob_changes (j : AlmJob) (status : Nat) (s : State) :
    Changes [.mer, .stc] s (afterJob j status s) := by
  unfold afterJob
  repeat' first
    | assumption
    | decide
    | with_reducible apply Changes.refl
    | with_reducible apply Changes.after (State.onMer_changes ..)
    | with_reducible apply Changes.after (State.onStc_changes ..)
    | dsimp only
    | split
    | simp only [id_eq]
    | (intro p hp; cases p <;> first | rfl | (exfalso; revert hp; decide))

theorem controller_changes (what : String) (bad : Option Nat) (data : Option (BitVec 64)) (j : AlmJob) (s : State) :
    Changes [.alm, .slu, .chr, .out, .events] s (controller what bad data j s) := by
  unfold controller
  repeat' first
    | assumption
    | decide
    | with_reducible apply Changes.refl
    | with_reducible apply Changes.after (refuse_changes ..)
    | with_reducible apply Changes.after (State.onAlm_changes ..)
    | with_reducible apply Changes.after (syncRail_changes ..)
    | with_reducible apply Changes.after (almStart_changes ..)
    | dsimp only
    | split
    | simp only [id_eq]
    | (intro p hp; cases p <;> first | rfl | (exfalso; revert hp; decide))

theorem almCmd_changes (op : Nat) (word : Nat) (part : Nat) (data : Option (BitVec 64)) (s : State) :
    Changes [.alm, .slu, .chr, .out, .events] s (almCmd op word part data s) := by
  unfold almCmd
  repeat' first
    | assumption
    | decide
    | with_reducible apply Changes.refl
    | with_reducible apply Changes.after (controller_changes ..)
    | dsimp only
    | split
    | simp only [id_eq]
    | (intro p hp; cases p <;> first | rfl | (exfalso; revert hp; decide))

theorem rootsLost_changes (s : State) :
    Changes [.mer, .reach, .keeper, .eye] s (rootsLost s) := by
  unfold rootsLost
  repeat' first
    | assumption
    | decide
    | with_reducible apply Changes.refl
    | with_reducible apply Changes.after (State.onMer_changes ..)
    | dsimp only
    | split
    | with_reducible apply Changes.set_reach_keeper_eye
    | simp only [id_eq]
    | (intro p hp; cases p <;> first | rfl | (exfalso; revert hp; decide))

theorem withdrawBoost_changes (s : State) :
    Changes [.isl, .barge, .keeper, .alm, .slu, .chr, .flight, .out] s (withdrawBoost s) := by
  unfold withdrawBoost
  repeat' first
    | assumption
    | decide
    | with_reducible apply Changes.refl
    | with_reducible apply Changes.after (clockAll_changes ..)
    | dsimp only
    | split
    | with_reducible apply Changes.set_alm_slu
    | simp only [id_eq]
    | (intro p hp; cases p <;> first | rfl | (exfalso; revert hp; decide))

theorem reread_changes (before : Bytes) (s : State) :
    Changes [.alerts, .isl, .mer, .meas, .reach, .barge, .keeper, .sys, .alm, .slu, .eye, .chr, .flight, .out] s (reread before s) := by
  unfold reread
  repeat' first
    | assumption
    | decide
    | with_reducible apply Changes.refl
    | with_reducible apply Changes.after (State.onAlm_changes ..)
    | with_reducible apply Changes.after (almAlert_changes ..)
    | with_reducible apply Changes.after (measureAlmanac_changes ..)
    | with_reducible apply Changes.after (withdrawBoost_changes ..)
    | with_reducible apply Changes.after (rootsLost_changes ..)
    | dsimp only
    | split
    | simp only [id_eq]
    | (intro p hp; cases p <;> first | rfl | (exfalso; revert hp; decide))

theorem criticalDone_changes (marginal : List Nat) (spares : List Nat) (s : State) :
    Changes [.alerts, .isl, .mer, .meas, .reach, .barge, .keeper, .sys, .alm, .slu, .eye, .chr, .flight, .out] s (criticalDone marginal spares s) := by
  unfold criticalDone
  repeat' first
    | assumption
    | decide
    | with_reducible apply Changes.refl
    | with_reducible apply Changes.after (reread_changes ..)
    | with_reducible apply Changes.after (State.onAlm_changes ..)
    | dsimp only
    | split
    | simp only [id_eq]
    | (intro p hp; cases p <;> first | rfl | (exfalso; revert hp; decide))

theorem readDone_changes (w : Nat) (marginal : List Nat) (spares : List Nat) (s : State) :
    Changes [.alerts, .isl, .mer, .meas, .reach, .barge, .keeper, .sys, .alm, .slu, .eye, .chr, .flight, .out] s (readDone w marginal spares s) := by
  unfold readDone
  repeat' first
    | assumption
    | decide
    | with_reducible apply Changes.refl
    | with_reducible apply Changes.after (State.onAlm_changes ..)
    | with_reducible apply Changes.after (reread_changes ..)
    | dsimp only
    | split
    | simp only [id_eq]
    | (intro p hp; cases p <;> first | rfl | (exfalso; revert hp; decide))

theorem runJob_changes (outcome : ProgOutcome) (marginal : List Nat) (spareFails : List Nat) (j : AlmJob) (s : State) :
    Changes [.alerts, .mer, .sys, .eph, .alm, .stc, .spdm, .freeCtr, .out] s (runJob outcome marginal spareFails j s) := by
  unfold runJob
  repeat' first
    | assumption
    | decide
    | with_reducible apply Changes.refl
    | with_reducible apply Changes.after (draw_changes ..)
    | with_reducible apply Changes.after (afterJob_changes ..)
    | with_reducible apply Changes.after (almEnd_changes ..)
    | dsimp only
    | split
    | with_reducible apply Changes.set_alm_freeCtr
    | simp only [id_eq]
    | (intro p hp; cases p <;> first | rfl | (exfalso; revert hp; decide))

theorem serveLcAdvance_changes (token : Bytes) (s : State) :
    Changes [.alerts, .isl, .mer, .barge, .port, .keeper, .sys, .eph, .ast, .alm, .slu, .spdm, .col, .chr, .flight, .freeCtr, .out, .events] s (serveLcAdvance token s) := by
  unfold serveLcAdvance withAst provisioner operator
  repeat' first
    | assumption
    | decide
    | with_reducible apply Changes.refl
    | with_reducible apply Changes.after (handled_changes ..)
    | with_reducible apply Changes.after (asType_changes ..)
    | with_reducible apply Changes.after (mctpMessage_changes ..)
    | with_reducible apply Changes.after (refuse_changes ..)
    | with_reducible apply Changes.after (keepWake_changes ..)
    | with_reducible apply Changes.after (refuseMgmt_changes ..)
    | with_reducible apply Changes.after (inSession_changes (l := [.alerts, .isl, .mer, .barge, .port, .keeper, .sys, .eph, .ast, .alm, .slu, .spdm, .col, .chr, .flight, .freeCtr, .out, .events]) (by decide) fun _ => ?_) (fun _ h => h)
    | with_reducible apply Changes.after (answerSpdm_changes ..)
    | with_reducible apply Changes.after (State.onSpdm_changes ..)
    | with_reducible apply Changes.after (advanceLc_changes ..)
    | dsimp only
    | split
    | simp only [id_eq]
    | (intro p hp; cases p <;> first | rfl | (exfalso; revert hp; decide))

/-! ### Towpath -/

theorem pumpOutcome_changes (s : State) :
    Changes [.sys, .stc, .twp] s (pumpOutcome s) := by
  unfold pumpOutcome
  repeat' first
    | assumption
    | decide
    | with_reducible apply Changes.refl
    | with_reducible apply Changes.after (postMsg_changes ..)
    | with_reducible apply Changes.after (onTwpChan_changes ..)
    | with_reducible apply Changes.after (State.onStc_changes ..)
    | dsimp only
    | split
    | simp only [id_eq]
    | (intro p hp; cases p <;> first | rfl | (exfalso; revert hp; decide))

theorem twpState_changes (offset : Nat) (lsb : Nat) (written : Nat) (applied : Nat) (mid : Nat) (width : Nat) (s : State) :
    Changes [.sys] s (twpState offset lsb written applied mid width s) := by
  unfold twpState
  repeat' first
    | assumption
    | decide
    | with_reducible apply Changes.refl
    | with_reducible apply Changes.after (audit_changes ..)
    | dsimp only
    | split
    | simp only [id_eq]
    | (intro p hp; cases p <;> first | rfl | (exfalso; revert hp; decide))

theorem twpWake_changes (mid : Nat) (s : State) :
    Changes [.isl, .barge, .port, .keeper, .sys, .slu, .col, .chr, .flight, .out] s (twpWake mid s) := by
  unfold twpWake
  repeat' first
    | assumption
    | decide
    | with_reducible apply Changes.refl
    | with_reducible apply Changes.after (keepWake_changes ..)
    | dsimp only
    | split
    | simp only [id_eq]
    | (intro p hp; cases p <;> first | rfl | (exfalso; revert hp; decide))

/-! ### Staircase -/

theorem sendBack_changes (route : StreamRoute) (ack : Bytes) (s : State) :
    Changes [.stc, .link] s (sendBack route ack s) := by
  unfold sendBack
  repeat' first
    | assumption
    | decide
    | with_reducible apply Changes.refl
    | with_reducible apply Changes.after (queueFrame_changes ..)
    | with_reducible apply Changes.after (State.onStc_changes ..)
    | dsimp only
    | split
    | simp only [id_eq]
    | (intro p hp; cases p <;> first | rfl | (exfalso; revert hp; decide))

theorem reportStream_changes (route : StreamRoute) (digest : Bytes) (status : Nat) (s : State) :
    Changes [.sys, .stc, .twp, .link] s (reportStream route digest status s) := by
  unfold reportStream
  repeat' first
    | assumption
    | decide
    | with_reducible apply Changes.refl
    | with_reducible apply Changes.after (State.onStc_changes ..)
    | with_reducible apply Changes.after (sendBack_changes ..)
    | with_reducible apply Changes.after (pumpOutcome_changes ..)
    | dsimp only
    | split
    | simp only [id_eq]
    | (intro p hp; cases p <;> first | rfl | (exfalso; revert hp; decide))

theorem endStream_changes (status : Nat) (s : State) :
    Changes [.sys, .stc, .twp, .link] s (endStream status s) := by
  unfold endStream
  repeat' first
    | assumption
    | decide
    | with_reducible apply Changes.refl
    | with_reducible apply Changes.after (writeCtl_changes ..)
    | with_reducible apply Changes.after (reportStream_changes ..)
    | with_reducible apply Changes.after (State.onStc_changes ..)
    | dsimp only
    | split
    | simp only [id_eq]
    | (intro p hp; cases p <;> first | rfl | (exfalso; revert hp; decide))

theorem abortStream_changes (s : State) :
    Changes [.sys, .stc, .twp, .link] s (abortStream s) := by
  unfold abortStream
  repeat' first
    | assumption
    | decide
    | with_reducible apply Changes.refl
    | with_reducible apply Changes.after (endStream_changes ..)
    | with_reducible apply Changes.after (queueFrame_changes ..)
    | with_reducible apply Changes.after (forAll_changes (fun _ _ => ?_) _ _) (fun _ h => h)
    | dsimp only
    | split
    | simp only [id_eq]
    | (intro p hp; cases p <;> first | rfl | (exfalso; revert hp; decide))

theorem advanceCounter0_changes (s : State) :
    Changes [.alm, .slu, .chr, .out] s (advanceCounter0 s) := by
  unfold advanceCounter0
  repeat' first
    | assumption
    | decide
    | with_reducible apply Changes.refl
    | with_reducible apply Changes.after (syncRail_changes ..)
    | with_reducible apply Changes.after (almStart_changes ..)
    | dsimp only
    | split
    | simp only [id_eq]
    | (intro p hp; cases p <;> first | rfl | (exfalso; revert hp; decide))

theorem onJob_changes (f : Stream → Stream) (s : State) :
    Changes [.stc] s (onJob f s) := by
  unfold onJob
  repeat' first
    | assumption
    | decide
    | with_reducible apply Changes.refl
    | with_reducible apply Changes.after (State.onStc_changes ..)
    | dsimp only
    | split
    | simp only [id_eq]
    | (intro p hp; cases p <;> first | rfl | (exfalso; revert hp; decide))

theorem forwardNew_changes (s : State) :
    Changes [.stc, .link] s (forwardNew s) := by
  unfold forwardNew
  repeat' first
    | assumption
    | decide
    | with_reducible apply Changes.refl
    | with_reducible apply Changes.after (onJob_changes ..)
    | with_reducible apply Changes.after (queueFrame_changes ..)
    | with_reducible apply Changes.after (forAll_changes (fun _ _ => ?_) _ _) (fun _ h => h)
    | dsimp only
    | split
    | simp only [id_eq]
    | (intro p hp; cases p <;> first | rfl | (exfalso; revert hp; decide))

theorem openSlot_changes (toA : Bool) (s : State) :
    Changes [.stc] s (openSlot toA s) := by
  unfold openSlot
  repeat' first
    | assumption
    | decide
    | with_reducible apply Changes.refl
    | with_reducible apply Changes.after (tryWriteCtl_changes ..)
    | with_reducible apply Changes.after (storeOp_changes ..)
    | with_reducible apply Changes.after (State.onStc_changes ..)
    | with_reducible apply Changes.after (onJob_changes ..)
    | dsimp only
    | split
    | simp only [id_eq]
    | (intro p hp; cases p <;> first | rfl | (exfalso; revert hp; decide))

theorem judgeManifest_changes (s : State) :
    Changes [.alerts, .mer, .sys, .eph, .ast, .stc, .twp, .link, .spdm, .chr, .freeCtr] s (judgeManifest s) := by
  unfold judgeManifest
  repeat' first
    | assumption
    | decide
    | with_reducible apply Changes.refl
    | with_reducible apply Changes.after (manifestSigned_changes ..)
    | with_reducible apply Changes.after (endStream_changes ..)
    | with_reducible apply Changes.after (onJob_changes ..)
    | with_reducible apply Changes.after (State.onStc_changes ..)
    | with_reducible apply Changes.after (openSlot_changes ..)
    | with_reducible apply Changes.after (forwardNew_changes ..)
    | dsimp only
    | split
    | simp only [id_eq]
    | (intro p hp; cases p <;> first | rfl | (exfalso; revert hp; decide))

theorem advanceStream_changes (s : State) :
    Changes [.alerts, .mer, .sys, .eph, .ast, .stc, .twp, .link, .spdm, .chr, .freeCtr] s (advanceStream s) := by
  unfold advanceStream
  repeat' first
    | assumption
    | decide
    | with_reducible apply Changes.refl
    | with_reducible apply Changes.after (judgeManifest_changes ..)
    | with_reducible apply Changes.after (forwardNew_changes ..)
    | with_reducible apply Changes.after (endStream_changes ..)
    | with_reducible apply Changes.after (onJob_changes ..)
    | dsimp only
    | split
    | simp only [id_eq]
    | (intro p hp; cases p <;> first | rfl | (exfalso; revert hp; decide))

theorem relayAck_changes (ack : Bytes) (s : State) :
    Changes [.stc, .link] s (relayAck ack s) := by
  unfold relayAck
  repeat' first
    | assumption
    | decide
    | with_reducible apply Changes.refl
    | with_reducible apply Changes.after (sendBack_changes ..)
    | dsimp only
    | split
    | simp only [id_eq]
    | (intro p hp; cases p <;> first | rfl | (exfalso; revert hp; decide))

theorem streamPiece_changes (route : StreamRoute) (drydock : Bool) (seq : Option Nat) (offset : Nat) (data : Bytes) (s : State) :
    Changes [.alerts, .mer, .sys, .eph, .ast, .stc, .twp, .link, .spdm, .chr, .freeCtr, .events] s (streamPiece route drydock seq offset data s).2 := by
  unfold streamPiece
  repeat' first
    | assumption
    | decide
    | with_reducible apply Changes.refl
    | with_reducible apply Changes.after (advanceStream_changes ..)
    | with_reducible apply Changes.after (State.onStc_changes ..)
    | with_reducible apply Changes.after (refuse_changes ..)
    | with_reducible apply Changes.after (reportStream_changes ..)
    | with_reducible apply Changes.after (endStream_changes ..)
    | with_reducible apply Changes.after (onJob_changes ..)
    | dsimp only
    | split
    | simp only [id_eq]
    | (intro p hp; cases p <;> first | rfl | (exfalso; revert hp; decide))

/-! ### Ephemeris -/

theorem loadRootNow_changes (i : SlotId) (s : State) :
    Changes [.eph, .chr] s (loadRootNow i s) := by
  unfold loadRootNow
  repeat' first
    | assumption
    | decide
    | with_reducible apply Changes.refl
    | with_reducible apply Changes.after (writeSlot_changes ..)
    | dsimp only
    | split
    | simp only [id_eq]
    | (intro p hp; cases p <;> first | rfl | (exfalso; revert hp; decide))

theorem ephCmd_changes (op : Nat) (slot : SlotId) (parent : SlotId) (owner : Nat) (label : BitVec 4) (s : State) :
    Changes [.port, .eph, .chr, .events] s (ephCmd op slot parent owner label s) := by
  unfold ephCmd ephJudge ephRun
  repeat' first
    | assumption
    | decide
    | with_reducible apply Changes.refl
    | with_reducible apply Changes.after (writeSlot_changes ..)
    | with_reducible apply Changes.after (refuse_changes ..)
    | with_reducible apply Changes.after (ephCommand_changes ..)
    | with_reducible apply Changes.after (State.onEph_changes ..)
    | with_reducible apply Changes.after (loadRootNow_changes ..)
    | with_reducible apply Changes.after (invalidateSlot_changes ..)
    | with_reducible apply Changes.after (invalidateOwnerSlots_changes ..)
    | with_reducible apply Changes.after (expireOwnerSlots_changes ..)
    | dsimp only
    | split
    | simp only [id_eq]
    | (intro p hp; cases p <;> first | rfl | (exfalso; revert hp; decide))

theorem ephRegs_changes (engines : BitVec 7) (lifetime : BitVec 2) (klen : BitVec 2) (uses : Word) (ctx : Bytes) (key : Bytes) (s : State) :
    Changes [.eph] s (ephRegs engines lifetime klen uses ctx key s) := by
  unfold ephRegs
  repeat' first
    | assumption
    | decide
    | with_reducible apply Changes.refl
    | with_reducible apply Changes.after (State.onEph_changes ..)
    | dsimp only
    | split
    | simp only [id_eq]
    | (intro p hp; cases p <;> first | rfl | (exfalso; revert hp; decide))

/-! ### AttestOps -/

theorem mldsaPart_changes (pk : Bytes) (m : Bytes) (s : State) :
    Changes [.alerts, .mer, .sys, .eph, .ast, .spdm, .chr, .freeCtr] s (mldsaPart pk m s).2 := by
  unfold mldsaPart
  repeat' first
    | assumption
    | decide
    | with_reducible apply Changes.refl
    | with_reducible apply Changes.after (astRun_changes ..)
    | dsimp only
    | split
    | simp only [id_eq]
    | (intro p hp; cases p <;> first | rfl | (exfalso; revert hp; decide))

theorem evalKey_changes (label : Nat) (s : State) :
    Changes [.alerts, .mer, .sys, .eph, .ast, .spdm, .chr, .freeCtr] s (evalKey label s).2 := by
  unfold evalKey
  repeat' first
    | assumption
    | decide
    | with_reducible apply Changes.refl
    | with_reducible apply Changes.after (astRun_changes ..)
    | dsimp only
    | split
    | simp only [id_eq]
    | (intro p hp; cases p <;> first | rfl | (exfalso; revert hp; decide))

theorem pqPart_changes (label : Nat) (m : Bytes) (s : State) :
    Changes [.alerts, .mer, .sys, .eph, .ast, .spdm, .chr, .freeCtr] s (pqPart label m s).2 := by
  unfold pqPart
  repeat' first
    | assumption
    | decide
    | with_reducible apply Changes.refl
    | with_reducible apply Changes.after (evalKey_changes ..)
    | with_reducible apply Changes.after (mldsaPart_changes ..)
    | dsimp only
    | split
    | simp only [id_eq]
    | (intro p hp; cases p <;> first | rfl | (exfalso; revert hp; decide))

theorem ecdsaPart_changes (label : Nat) (m : Bytes) (s : State) :
    Changes [.alerts, .mer, .sys, .eph, .ast, .spdm, .chr, .freeCtr] s (ecdsaPart label m s).2 := by
  unfold ecdsaPart
  repeat' first
    | assumption
    | decide
    | with_reducible apply Changes.refl
    | with_reducible apply Changes.after (evalKey_changes ..)
    | with_reducible apply Changes.after (astRun_changes ..)
    | dsimp only
    | split
    | simp only [id_eq]
    | (intro p hp; cases p <;> first | rfl | (exfalso; revert hp; decide))

theorem buildIdentity_changes (s : State) :
    Changes [.alerts, .mer, .sys, .eph, .ast, .spdm, .chr, .freeCtr] s (buildIdentity s) := by
  unfold buildIdentity
  repeat' first
    | assumption
    | decide
    | with_reducible apply Changes.refl
    | with_reducible apply Changes.after (evalKey_changes ..)
    | with_reducible apply Changes.after (ecdsaPart_changes ..)
    | with_reducible apply Changes.after (pqPart_changes ..)
    | with_reducible apply Changes.after (draw_changes ..)
    | with_reducible apply Changes.after (State.onMer_changes ..)
    | with_reducible apply Changes.after (alert_changes ..)
    | dsimp only
    | split
    | simp only [id_eq]
    | (intro p hp; cases p <;> first | rfl | (exfalso; revert hp; decide))

theorem deriveSeeds_changes (s : State) :
    Changes [.eph, .chr] s (deriveSeeds s) := by
  unfold deriveSeeds
  repeat' first
    | assumption
    | decide
    | with_reducible apply Changes.refl
    | with_reducible apply Changes.after (loadRootNow_changes ..)
    | with_reducible apply Changes.after (writeSlot_changes ..)
    | dsimp only
    | split
    | simp only [id_eq]
    | (intro p hp; cases p <;> first | rfl | (exfalso; revert hp; decide))

theorem hybridSign_changes (p : Nat) (m : Bytes) (s : State) :
    Changes [.alerts, .mer, .sys, .eph, .ast, .spdm, .chr, .freeCtr] s (hybridSign p m s).2 := by
  unfold hybridSign
  repeat' first
    | assumption
    | decide
    | with_reducible apply Changes.refl
    | with_reducible apply Changes.after (ecdsaPart_changes ..)
    | with_reducible apply Changes.after (pqPart_changes ..)
    | dsimp only
    | split
    | simp only [id_eq]
    | (intro p hp; cases p <;> first | rfl | (exfalso; revert hp; decide))

theorem nativeReport_changes (reach : Option ReachId) (nonce : Bytes) (s : State) :
    Changes [.alerts, .mer, .sys, .eph, .ast, .spdm, .chr, .freeCtr] s (nativeReport reach nonce s).2 := by
  unfold nativeReport
  repeat' first
    | assumption
    | decide
    | with_reducible apply Changes.refl
    | with_reducible apply Changes.after (hybridSign_changes ..)
    | dsimp only
    | split
    | simp only [id_eq]
    | (intro p hp; cases p <;> first | rfl | (exfalso; revert hp; decide))

theorem token_changes (reach : Option ReachId) (nonce : Bytes) (s : State) :
    Changes [.alerts, .mer, .sys, .eph, .ast, .spdm, .chr, .freeCtr] s (token reach nonce s).2 := by
  unfold token
  repeat' first
    | assumption
    | decide
    | with_reducible apply Changes.refl
    | with_reducible apply Changes.after (ecdsaPart_changes ..)
    | with_reducible apply Changes.after (pqPart_changes ..)
    | dsimp only
    | split
    | simp only [id_eq]
    | (intro p hp; cases p <;> first | rfl | (exfalso; revert hp; decide))

/-! ### PassageOps -/

theorem advance_changes (b : BargeId) (s : State) :
    Changes [.barge] s (advance b s) := by
  unfold advance
  repeat' first
    | assumption
    | decide
    | with_reducible apply Changes.refl
    | with_reducible apply Changes.after (State.onBarge_changes ..)
    | dsimp only
    | split
    | simp only [id_eq]
    | (intro p hp; cases p <;> first | rfl | (exfalso; revert hp; decide))

theorem dispatched_changes (b : BargeId) (i : Instr) (s : State) :
    Changes [.chr] s (dispatched b i s) := by
  unfold dispatched
  repeat' first
    | assumption
    | decide
    | with_reducible apply Changes.refl
    | with_reducible apply Changes.after (chrEvent_changes ..)
    | dsimp only
    | split
    | simp only [id_eq]
    | (intro p hp; cases p <;> first | rfl | (exfalso; revert hp; decide))

theorem hold_changes (b : BargeId) (h : Held) (s : State) :
    Changes [.barge] s (hold b h s) := by
  unfold hold
  repeat' first
    | assumption
    | decide
    | with_reducible apply Changes.refl
    | with_reducible apply Changes.after (State.onBarge_changes ..)
    | dsimp only
    | split
    | simp only [id_eq]
    | (intro p hp; cases p <;> first | rfl | (exfalso; revert hp; decide))

theorem fetchOperands_changes (b : BargeId) (i : Instr) (rs : List Range) (s : State) :
    Changes [.barge, .port] s (fetchOperands b i rs s) := by
  unfold fetchOperands
  repeat' first
    | assumption
    | decide
    | with_reducible apply Changes.refl
    | with_reducible apply Changes.after (hold_changes ..)
    | with_reducible apply Changes.after (startMove_changes ..)
    | dsimp only
    | split
    | simp only [id_eq]
    | (intro p hp; cases p <;> first | rfl | (exfalso; revert hp; decide))

theorem linesMoved_changes (b : BargeId) (rs : List Range) (s : State) :
    Changes [.chr] s (linesMoved b rs s) := by
  unfold linesMoved
  repeat' first
    | assumption
    | decide
    | with_reducible apply Changes.refl
    | with_reducible apply Changes.after (chrEvent_changes ..)
    | dsimp only
    | split
    | simp only [id_eq]
    | (intro p hp; cases p <;> first | rfl | (exfalso; revert hp; decide))

theorem addToken_changes (b : BargeId) (ch : Fin 16) (n : Nat) (s : State) :
    Changes [.alerts, .isl, .mer, .reach, .barge, .spareClock, .basin, .port, .twPkg, .keeper, .ring, .sys, .eph, .twp, .slu, .link, .spdm, .eye, .col, .chr, .flight, .freeCtr, .out] s (addToken b ch n s) := by
  unfold addToken
  repeat' first
    | assumption
    | decide
    | with_reducible apply Changes.refl
    | with_reducible apply Changes.after (bargeFault_changes ..)
    | with_reducible apply Changes.after (State.onBarge_changes ..)
    | dsimp only
    | split
    | simp only [id_eq]
    | (intro p hp; cases p <;> first | rfl | (exfalso; revert hp; decide))

theorem postToken_changes (b : BargeId) (tok : Option (Fin 16)) (s : State) :
    Changes [.alerts, .isl, .mer, .reach, .barge, .spareClock, .basin, .port, .twPkg, .keeper, .ring, .sys, .eph, .twp, .slu, .link, .spdm, .eye, .col, .chr, .flight, .freeCtr, .out] s (postToken b tok s) := by
  unfold postToken
  repeat' first
    | assumption
    | decide
    | with_reducible apply Changes.refl
    | with_reducible apply Changes.after (addToken_changes ..)
    | dsimp only
    | split
    | simp only [id_eq]
    | (intro p hp; cases p <;> first | rfl | (exfalso; revert hp; decide))

theorem storeChunks_changes (b : BargeId) (dst : Desc) (cs : List (Nat × Bytes)) (tok : Option (Fin 16)) (s : State) :
    Changes [.alerts, .isl, .mer, .reach, .barge, .spareClock, .basin, .port, .twPkg, .keeper, .ring, .sys, .eph, .twp, .slu, .link, .spdm, .eye, .col, .chr, .flight, .freeCtr, .out] s (storeChunks b dst cs tok s) := by
  unfold storeChunks
  repeat' first
    | assumption
    | decide
    | with_reducible apply Changes.refl
    | with_reducible apply Changes.after (advance_changes ..)
    | with_reducible apply Changes.after (storeMem_changes ..)
    | with_reducible apply Changes.after (postToken_changes ..)
    | with_reducible apply Changes.after (spacePut_changes ..)
    | with_reducible apply Changes.after (forAll_changes (fun _ _ => ?_) _ _) (fun _ h => h)
    | dsimp only
    | split
    | simp only [id_eq]
    | (intro p hp; cases p <;> first | rfl | (exfalso; revert hp; decide))

theorem loadPieces_changes (b : BargeId) (src : Desc) (ps : List MovePiece) (tok : Option (Fin 16)) (s : State) :
    Changes [.alerts, .isl, .mer, .reach, .barge, .spareClock, .basin, .port, .twPkg, .keeper, .ring, .sys, .eph, .twp, .slu, .link, .spdm, .eye, .col, .chr, .flight, .freeCtr, .out] s (loadPieces b src ps tok s) := by
  unfold loadPieces
  repeat' first
    | assumption
    | decide
    | with_reducible apply Changes.refl
    | with_reducible apply Changes.after (bargeFault_changes ..)
    | with_reducible apply Changes.after (postToken_changes ..)
    | with_reducible apply Changes.after (advance_changes ..)
    | with_reducible apply Changes.after (startMove_changes ..)
    | dsimp only
    | split
    | simp only [id_eq]
    | (intro p hp; cases p <;> first | rfl | (exfalso; revert hp; decide))

theorem movePieces_changes (b : BargeId) (g : Barge) (src : Desc) (dst : Desc) (ps : List MovePiece) (tok : Option (Fin 16)) (s : State) :
    Changes [.alerts, .isl, .mer, .reach, .barge, .spareClock, .basin, .port, .twPkg, .keeper, .ring, .sys, .eph, .twp, .slu, .link, .spdm, .eye, .col, .chr, .flight, .freeCtr, .out] s (movePieces b g src dst ps tok s) := by
  unfold movePieces
  repeat' first
    | assumption
    | decide
    | with_reducible apply Changes.refl
    | with_reducible apply Changes.after (loadPieces_changes ..)
    | with_reducible apply Changes.after (storeChunks_changes ..)
    | with_reducible apply Changes.after (linesMoved_changes ..)
    | dsimp only
    | split
    | simp only [id_eq]
    | (intro p hp; cases p <;> first | rfl | (exfalso; revert hp; decide))

theorem badOperand_changes (what : String) (s : State) :
    Changes [.events] s (badOperand what s) := by
  unfold badOperand
  repeat' first
    | assumption
    | decide
    | with_reducible apply Changes.refl
    | with_reducible apply Changes.after (refuse_changes ..)
    | dsimp only
    | split
    | simp only [id_eq]
    | (intro p hp; cases p <;> first | rfl | (exfalso; revert hp; decide))

theorem putFill_changes (b : BargeId) (data : List (Nat × Bytes)) (operand : Bool) (s : State) :
    Changes [.alerts, .isl, .mer, .reach, .barge, .spareClock, .basin, .port, .twPkg, .keeper, .ring, .sys, .eph, .twp, .slu, .link, .spdm, .eye, .col, .chr, .flight, .freeCtr, .out] s (putFill b data operand s) := by
  unfold putFill
  repeat' first
    | assumption
    | decide
    | with_reducible apply Changes.refl
    | with_reducible apply Changes.after (State.onBarge_changes ..)
    | with_reducible apply Changes.after (readRanges_changes ..)
    | with_reducible apply Changes.after (Changes.foldl (fun _ _ => ?_) _ _) (fun _ h => h)
    | dsimp only
    | split
    | simp only [id_eq]
    | (intro p hp; cases p <;> first | rfl | (exfalso; revert hp; decide))

theorem sendFill_changes (src : Option BargeId) (b : BargeId) (data : List (Nat × Bytes)) (s : State) :
    Changes [.alerts, .isl, .mer, .reach, .barge, .spareClock, .basin, .port, .twPkg, .keeper, .ring, .sys, .eph, .twp, .slu, .link, .spdm, .eye, .col, .chr, .flight, .freeCtr, .out] s (sendFill src b data s) := by
  unfold sendFill
  repeat' first
    | assumption
    | decide
    | with_reducible apply Changes.refl
    | with_reducible apply Changes.after (putFill_changes ..)
    | dsimp only
    | split
    | with_reducible apply Changes.set_flight
    | simp only [id_eq]
    | (intro p hp; cases p <;> first | rfl | (exfalso; revert hp; decide))

theorem spendCredit_changes (b : BargeId) (cv : Bool) (cc : Fin 16) (s : State) :
    Changes [.barge] s (spendCredit b cv cc s) := by
  unfold spendCredit
  repeat' first
    | assumption
    | decide
    | with_reducible apply Changes.refl
    | with_reducible apply Changes.after (State.onBarge_changes ..)
    | dsimp only
    | split
    | simp only [id_eq]
    | (intro p hp; cases p <;> first | rfl | (exfalso; revert hp; decide))

theorem planeChunk_changes (g : Barge) (dest : BargeId) (src : Desc) (dst : Desc) (x : Plane) (s : State) :
    Changes [.freeCtr] s (planeChunk g dest src dst x s).2 := by
  unfold planeChunk
  repeat' first
    | assumption
    | decide
    | with_reducible apply Changes.refl
    | with_reducible apply Changes.after (spaceOld_changes ..)
    | dsimp only
    | split
    | simp only [id_eq]
    | (intro p hp; cases p <;> first | rfl | (exfalso; revert hp; decide))

theorem tensorChunks_changes (g : Barge) (dest : BargeId) (src dst : Desc) (s : State) :
    Changes [.freeCtr] s (tensorChunks g dest src dst s).2 := by
  have h : ∀ (xs : List Plane) (acc : List (Nat × Bytes) × State), Changes [.freeCtr] acc.2
      (xs.foldl (fun (acc : List (Nat × Bytes) × State) x =>
        (acc.1 ++ [(planeChunk g dest src dst x acc.2).1], (planeChunk g dest src dst x acc.2).2)) acc).2 := by
    intro xs
    induction xs with
    | nil => exact fun acc => Changes.refl _ _
    | cons x xs ih =>
      intro acc
      refine (ih _).after (fun _ h => h) ?_
      exact (planeChunk_changes g dest src dst x acc.2).mono (by decide)
  exact h _ ([], s)

theorem moveTensor_changes (b : BargeId) (g : Barge) (src : Desc) (dst : Desc) (tok : Option (Fin 16)) (s : State) :
    Changes [.alerts, .isl, .mer, .reach, .barge, .spareClock, .basin, .port, .twPkg, .keeper, .ring, .sys, .eph, .twp, .slu, .link, .spdm, .eye, .col, .chr, .flight, .freeCtr, .out] s (moveTensor b g src dst tok s) := by
  unfold moveTensor
  repeat' first
    | assumption
    | decide
    | with_reducible apply Changes.refl
    | with_reducible apply Changes.after (loadPieces_changes ..)
    | with_reducible apply Changes.after (tensorChunks_changes ..)
    | with_reducible apply Changes.after (storeChunks_changes ..)
    | with_reducible apply Changes.after (linesMoved_changes ..)
    | dsimp only
    | split
    | simp only [id_eq]
    | (intro p hp; cases p <;> first | rfl | (exfalso; revert hp; decide))

theorem stepDone_changes (b : BargeId) (s : State) :
    Changes [.barge, .flight] s (stepDone b s) := by
  unfold stepDone
  repeat' first
    | assumption
    | decide
    | with_reducible apply Changes.refl
    | with_reducible apply Changes.after (State.onBarge_changes ..)
    | dsimp only
    | split
    | with_reducible apply Changes.set_flight
    | simp only [id_eq]
    | (intro p hp; cases p <;> first | rfl | (exfalso; revert hp; decide))

end Sys2Proof.Machine
end

