-- ==== Sys2Proof/Laws/FramePassage.lean ====
section
/-! SUPPORT. What each operation can change: running instructions, the System Port and the Memory Port. -/

namespace Sys2Proof.Machine

set_option Elab.async false

/-! ### Passage -/

theorem doMgth_changes (b : BargeId) (dst : DescId) (src : DescId) (p16 : Bool) (tv : Bool) (tch : Fin 16) (s : State) :
    Changes [.alerts, .isl, .mer, .reach, .barge, .spareClock, .basin, .port, .twPkg, .keeper, .ring, .sys, .eph, .twp, .slu, .link, .spdm, .eye, .col, .chr, .flight, .freeCtr, .out, .events] s (doMgth b dst src p16 tv tch s) := by
  unfold doMgth access
  repeat' first
    | assumption
    | decide
    | with_reducible apply Changes.refl
    | with_reducible apply Changes.after (badOperand_changes ..)
    | with_reducible apply Changes.after (hold_changes ..)
    | with_reducible apply Changes.after (bargeFault_changes ..)
    | with_reducible apply Changes.after (fetchOperands_changes ..)
    | with_reducible apply Changes.after (dispatched_changes ..)
    | with_reducible apply Changes.after (State.onBarge_changes ..)
    | with_reducible apply Changes.after (readRanges_changes ..)
    | with_reducible apply Changes.after (advance_changes ..)
    | with_reducible apply Changes.after (chrBasin_changes ..)
    | with_reducible apply Changes.after (movePieces_changes ..)
    | with_reducible apply Changes.after (forAll_changes (fun _ _ => ?_) _ _) (fun _ h => h)
    | dsimp only
    | split
    | simp only [id_eq]
    | (intro p hp; cases p <;> first | rfl | (exfalso; revert hp; decide))

theorem finish_changes {l : List Part} {s : State} {b : BargeId} {o : Option State} (hl : ∀ p ∈ ([.alerts, .isl, .mer, .reach, .barge, .spareClock, .basin, .port, .twPkg, .keeper, .ring, .sys, .eph, .twp, .slu, .link, .spdm, .eye, .col, .chr, .flight, .freeCtr, .out] : List Part), p ∈ l)
    (h : ∀ t, o = some t → Changes l s t) : Changes l s (finish b o s) := by
  unfold finish
  split
  · exact (advance_changes _ _).after (fun p hp => hl p (by revert p; decide)) (h _ rfl)
  · exact (bargeFault_changes _ _ _).mono (fun p hp => hl p hp)

theorem access_changes {l : List Part} {s : State} {b : BargeId} {i : Instr} {f : Barge → State → State}
    (hl : ∀ p ∈ ([.alerts, .isl, .mer, .reach, .barge, .spareClock, .basin, .port, .twPkg, .keeper, .ring, .sys, .eph, .twp, .slu, .link, .spdm, .eye, .col, .chr, .flight, .freeCtr, .out] : List Part), p ∈ l) (h : ∀ g t, Changes l t (f g t)) : Changes l s (access b i f s) := by
  unfold access
  dsimp only
  split
  · exact (hold_changes _ _ _).mono (fun p hp => hl p (by revert p; decide))
  · split
    · exact (bargeFault_changes _ _ _).mono (fun p hp => hl p (by revert p; decide))
    · split
      · exact (fetchOperands_changes _ _ _ _).mono (fun p hp => hl p (by revert p; decide))
      · have hs : Changes l s (dispatched b i (s.onBarge b fun g => { g with operands := [], operandsIn := false })) :=
          (dispatched_changes _ _ _).after (fun p hp => hl p (by revert p; decide)) ((State.onBarge_changes _ _ _).mono fun p hp => hl p (by revert p; decide))
        split
        · have hr : ∀ x, Changes l s (readRanges b x (dispatched b i (s.onBarge b fun g => { g with operands := [], operandsIn := false }))).2 :=
            fun x => (readRanges_changes _ _ _).after (fun p hp => hl p (by revert p; decide)) hs
          split
          · exact (h _ _).after (fun _ hp => hp) (hr _)
          · exact hr _
        · exact (advance_changes _ _).after (fun p hp => hl p (by revert p; decide))
            ((forAll_changes (fun _ _ => (chrBasin_changes _ _ _ _).mono fun p hp => hl p (by revert p; decide)) _ _).after (fun _ hp => hp) hs)

theorem doMxfr_changes (b : BargeId) (dst src : DescId) (lb : Fin 32) (tv : Bool) (tch : Fin 16) (cv : Bool) (cch : Fin 16) (s : State) :
    Changes [.alerts, .isl, .mer, .reach, .barge, .spareClock, .basin, .port, .twPkg, .keeper, .ring, .sys, .eph, .twp, .slu, .link, .spdm, .eye, .col, .chr, .flight, .freeCtr, .out, .events] s (doMxfr b dst src lb tv tch cv cch s) := by
  unfold doMxfr needCredit
  dsimp only
  split
  · exact (bargeFault_changes _ _ _).mono (by decide)
  · split
    · exact (badOperand_changes _ _).mono (by decide)
    · split
      · exact (hold_changes _ _ _).mono (by decide)
      · refine access_changes (by decide) fun g t => ?_
        split
        · exact (readSpad_changes _ _ _ _).mono (by decide)
        · split
          · exact (bargeFault_changes _ _ _).after (by decide) ((readSpad_changes _ _ _ _).mono (by decide))
          · split
            · apply Changes.set_flight (by decide)
              exact (advance_changes _ _).after (by decide) ((sendFill_changes _ _ _ _).after (by decide) ((linesMoved_changes _ _ _).after (by decide)
                ((tensorChunks_changes _ _ _ _ _).after (by decide) ((spendCredit_changes _ _ _ _).after (by decide) ((readSpad_changes _ _ _ _).mono (by decide))))))
            · exact (advance_changes _ _).after (by decide) ((sendFill_changes _ _ _ _).after (by decide) ((linesMoved_changes _ _ _).after (by decide)
                ((tensorChunks_changes _ _ _ _ _).after (by decide) ((spendCredit_changes _ _ _ _).after (by decide) ((readSpad_changes _ _ _ _).mono (by decide))))))

theorem doMst_changes (b : BargeId) (dst : DescId) (src : DescId) (tv : Bool) (tch : Fin 16) (cv : Bool) (cch : Fin 16) (s : State) :
    Changes [.alerts, .isl, .mer, .reach, .barge, .spareClock, .basin, .port, .twPkg, .keeper, .ring, .sys, .eph, .twp, .slu, .link, .spdm, .eye, .col, .chr, .flight, .freeCtr, .out, .events] s (doMst b dst src tv tch cv cch s) := by
  unfold doMst needCredit access
  repeat' first
    | assumption
    | decide
    | with_reducible apply Changes.refl
    | with_reducible apply Changes.after (badOperand_changes ..)
    | with_reducible apply Changes.after (hold_changes ..)
    | with_reducible apply Changes.after (bargeFault_changes ..)
    | with_reducible apply Changes.after (fetchOperands_changes ..)
    | with_reducible apply Changes.after (dispatched_changes ..)
    | with_reducible apply Changes.after (State.onBarge_changes ..)
    | with_reducible apply Changes.after (readRanges_changes ..)
    | with_reducible apply Changes.after (advance_changes ..)
    | with_reducible apply Changes.after (chrBasin_changes ..)
    | with_reducible apply Changes.after (moveTensor_changes ..)
    | with_reducible apply Changes.after (spendCredit_changes ..)
    | with_reducible apply Changes.after (forAll_changes (fun _ _ => ?_) _ _) (fun _ h => h)
    | dsimp only
    | split
    | simp only [id_eq]
    | (intro p hp; cases p <;> first | rfl | (exfalso; revert hp; decide))

theorem doMld_changes (b : BargeId) (dst : DescId) (src : DescId) (tv : Bool) (tch : Fin 16) (cv : Bool) (cch : Fin 16) (s : State) :
    Changes [.alerts, .isl, .mer, .reach, .barge, .spareClock, .basin, .port, .twPkg, .keeper, .ring, .sys, .eph, .twp, .slu, .link, .spdm, .eye, .col, .chr, .flight, .freeCtr, .out, .events] s (doMld b dst src tv tch cv cch s) := by
  unfold doMld needCredit access
  repeat' first
    | assumption
    | decide
    | with_reducible apply Changes.refl
    | with_reducible apply Changes.after (badOperand_changes ..)
    | with_reducible apply Changes.after (hold_changes ..)
    | with_reducible apply Changes.after (bargeFault_changes ..)
    | with_reducible apply Changes.after (fetchOperands_changes ..)
    | with_reducible apply Changes.after (dispatched_changes ..)
    | with_reducible apply Changes.after (State.onBarge_changes ..)
    | with_reducible apply Changes.after (readRanges_changes ..)
    | with_reducible apply Changes.after (advance_changes ..)
    | with_reducible apply Changes.after (chrBasin_changes ..)
    | with_reducible apply Changes.after (moveTensor_changes ..)
    | with_reducible apply Changes.after (spendCredit_changes ..)
    | with_reducible apply Changes.after (forAll_changes (fun _ _ => ?_) _ _) (fun _ h => h)
    | dsimp only
    | split
    | simp only [id_eq]
    | (intro p hp; cases p <;> first | rfl | (exfalso; revert hp; decide))

theorem doVsel_changes (b : BargeId) (pdesc idesc : DescId) (nreg : SReg) (va : VReg) (d : SReg) (greedy : Bool) (s : State) :
    Changes [.alerts, .isl, .mer, .reach, .barge, .spareClock, .basin, .port, .twPkg, .keeper, .ring, .sys, .eph, .twp, .slu, .link, .spdm, .eye, .col, .chr, .flight, .freeCtr, .out, .events] s (doVsel b pdesc idesc nreg va d greedy s) := by
  unfold doVsel
  dsimp only
  split
  · exact (badOperand_changes _ _).mono (by decide)
  · split
    · exact (bargeFault_changes _ _ _).mono (by decide)
    · refine access_changes (by decide) fun g t => ?_
      refine finish_changes (by decide) fun u hu => ?_
      obtain ⟨_, -, hu⟩ := Option.bind_eq_some_iff.mp hu
      obtain ⟨_, -, hu⟩ := Option.bind_eq_some_iff.mp hu
      obtain ⟨_, -, rfl⟩ := Option.map_eq_some_iff.mp hu
      exact (State.onBarge_changes _ _ _).mono (by decide)

theorem foldlM_changes {α : Type} {l : List Part} {f : State → α → Option State} (hf : ∀ s x t, f s x = some t → Changes l s t)
    (xs : List α) (s t : State) (h : xs.foldlM f s = some t) : Changes l s t := by
  induction xs generalizing s with
  | nil =>
    cases h
    exact Changes.refl _ _
  | cons x xs ih =>
    rw [List.foldlM_cons] at h
    obtain ⟨u, hu, hr⟩ := Option.bind_eq_some_iff.mp h
    exact (ih u hr).after (fun _ h => h) (hf s x u hu)

theorem doVjoin_changes (b : BargeId) (dst src : DescId) (nreg : SReg) (depth : Fin 8) (s : State) :
    Changes [.alerts, .isl, .mer, .reach, .barge, .spareClock, .basin, .port, .twPkg, .keeper, .ring, .sys, .eph, .twp, .slu, .link, .spdm, .eye, .col, .chr, .flight, .freeCtr, .out, .events] s (doVjoin b dst src nreg depth s) := by
  unfold doVjoin
  dsimp only
  split
  · exact (badOperand_changes _ _).mono (by decide)
  · refine access_changes (by decide) fun g t => ?_
    refine finish_changes (by decide) fun u hu => ?_
    refine foldlM_changes (fun s x v h => ?_) _ _ _ hu
    obtain ⟨ws, -, h⟩ := Option.bind_eq_some_iff.mp h
    exact (putWords_changes h).mono (by decide)

theorem doVred_changes (b : BargeId) (desc : DescId) (vd : VReg) (kind : RedKind) (nreg : SReg) (depth : Fin 8) (part : Fin 32)
    (pdesc : DescId) (s : State) : Changes [.alerts, .isl, .mer, .reach, .barge, .spareClock, .basin, .port, .twPkg, .keeper, .ring, .sys, .eph, .twp, .slu, .link, .spdm, .eye, .col, .chr, .flight, .freeCtr, .out, .events] s (doVred b desc vd kind nreg depth part pdesc s) := by
  unfold doVred
  extract_lets g d p slot
  split
  · exact (badOperand_changes _ _).mono (by decide)
  · split
    · exact (advance_changes _ _).mono (by decide)
    · split
      · exact (badOperand_changes _ _).mono (by decide)
      · refine access_changes (by decide) fun g t => ?_
        refine finish_changes (by decide) fun u hu => ?_
        obtain ⟨ws, -, hu⟩ := Option.bind_eq_some_iff.mp hu
        split at hu
        · cases hu
          exact (State.onBarge_changes _ _ _).mono (by decide)
        · exact (putWords_changes hu).mono (by decide)

theorem doVqst_changes (b : BargeId) (desc : DescId) (va : VReg) (oreg : SReg) (s : State) : Changes [.alerts, .isl, .mer, .reach, .barge, .spareClock, .basin, .port, .twPkg, .keeper, .ring, .sys, .eph, .twp, .slu, .link, .spdm, .eye, .col, .chr, .flight, .freeCtr, .out, .events] s (doVqst b desc va oreg s) := by
  unfold doVqst
  dsimp only
  split
  · exact (badOperand_changes _ _).mono (by decide)
  · refine access_changes (by decide) fun g t => ?_
    refine finish_changes (by decide) fun u hu => ?_
    obtain ⟨v, hv, hu⟩ := Option.bind_eq_some_iff.mp hu
    exact (putFields_changes hu).after (by decide) ((putCodes_changes hv).mono (by decide))

theorem doVst_changes (b : BargeId) (desc : DescId) (va : VReg) (oreg : SReg) (lm1 : Fin 128) (s : State) :
    Changes [.alerts, .isl, .mer, .reach, .barge, .spareClock, .basin, .port, .twPkg, .keeper, .ring, .sys, .eph, .twp, .slu, .link, .spdm, .eye, .col, .chr, .flight, .freeCtr, .out, .events] s (doVst b desc va oreg lm1 s) := by
  unfold doVst finish access
  repeat' first
    | assumption
    | decide
    | with_reducible apply Changes.refl
    | with_reducible apply Changes.after (badOperand_changes ..)
    | with_reducible apply Changes.after (hold_changes ..)
    | with_reducible apply Changes.after (bargeFault_changes ..)
    | with_reducible apply Changes.after (fetchOperands_changes ..)
    | with_reducible apply Changes.after (dispatched_changes ..)
    | with_reducible apply Changes.after (State.onBarge_changes ..)
    | with_reducible apply Changes.after (readRanges_changes ..)
    | with_reducible apply Changes.after (advance_changes ..)
    | with_reducible apply Changes.after (chrBasin_changes ..)
    | with_reducible apply Changes.after (putCodes_changes (by assumption))
    | with_reducible apply Changes.after (forAll_changes (fun _ _ => ?_) _ _) (fun _ h => h)
    | dsimp only
    | split
    | simp only [id_eq]
    | (intro p hp; cases p <;> first | rfl | (exfalso; revert hp; decide))

theorem doVld_changes (b : BargeId) (desc : DescId) (vd : VReg) (oreg : SReg) (lm1 : Fin 128) (s : State) :
    Changes [.alerts, .isl, .mer, .reach, .barge, .spareClock, .basin, .port, .twPkg, .keeper, .ring, .sys, .eph, .twp, .slu, .link, .spdm, .eye, .col, .chr, .flight, .freeCtr, .out, .events] s (doVld b desc vd oreg lm1 s) := by
  unfold doVld
  dsimp only
  split
  · exact (badOperand_changes _ _).mono (by decide)
  · refine access_changes (by decide) fun g t => ?_
    refine finish_changes (by decide) fun u hu => ?_
    obtain ⟨v, -, rfl⟩ := Option.map_eq_some_iff.mp hu
    exact (State.onBarge_changes _ _ _).mono (by decide)

theorem writeTile_changes {b : BargeId} {d : Desc} {slot : Nat} {rows : List (List Word)} {s t : State}
    (h : writeTile b d slot rows s = some t) : Changes [.barge, .basin, .port, .freeCtr] s t := by
  unfold writeTile at h
  generalize rows.mapIdx (fun m r => (m, r)) = l at h
  induction l generalizing s with
  | nil =>
    cases h
    exact Changes.refl _ _
  | cons x l ih =>
    rw [List.foldlM_cons] at h
    obtain ⟨u, hu, hr⟩ := Option.bind_eq_some_iff.mp h
    exact (ih hr).after (fun _ h => h) (putWords_changes hu)

theorem doMma_changes (b : BargeId) (dst srcA srcB : DescId) (mm1 nm1 : Fin 64) (kreg : SReg) (depth : Fin 8) (part : Fin 32) (s : State) :
    Changes [.alerts, .isl, .mer, .reach, .barge, .spareClock, .basin, .port, .twPkg, .keeper, .ring, .sys, .eph, .twp, .slu, .link, .spdm, .eye, .col, .chr, .flight, .freeCtr, .out, .events] s (doMma b dst srcA srcB mm1 nm1 kreg depth part s) := by
  unfold doMma
  extract_lets g d x y slot k narrow
  split
  · exact (badOperand_changes _ _).mono (by decide)
  · split
    · exact (advance_changes _ _).mono (by decide)
    · split
      · exact (badOperand_changes _ _).mono (by decide)
      · split
        · exact (bargeFault_changes _ _ _).mono (by decide)
        · refine access_changes (by decide) fun g t => ?_
          refine finish_changes (by decide) fun u hu => ?_
          obtain ⟨ta, -, hu⟩ := Option.bind_eq_some_iff.mp hu
          obtain ⟨tb, -, hu⟩ := Option.bind_eq_some_iff.mp hu
          exact (writeTile_changes hu).mono (by decide)

theorem doSst_changes (b : BargeId) (ra : SReg) (addr : BitVec 21) (s : State) :
    Changes [.alerts, .isl, .mer, .reach, .barge, .spareClock, .basin, .port, .twPkg, .keeper, .ring, .sys, .eph, .twp, .slu, .link, .spdm, .eye, .col, .chr, .flight, .freeCtr, .out, .events] s (doSst b ra addr s) := by
  unfold doSst access
  repeat' first
    | assumption
    | decide
    | with_reducible apply Changes.refl
    | with_reducible apply Changes.after (badOperand_changes ..)
    | with_reducible apply Changes.after (hold_changes ..)
    | with_reducible apply Changes.after (bargeFault_changes ..)
    | with_reducible apply Changes.after (fetchOperands_changes ..)
    | with_reducible apply Changes.after (dispatched_changes ..)
    | with_reducible apply Changes.after (State.onBarge_changes ..)
    | with_reducible apply Changes.after (readRanges_changes ..)
    | with_reducible apply Changes.after (advance_changes ..)
    | with_reducible apply Changes.after (chrBasin_changes ..)
    | with_reducible apply Changes.after (forAll_changes (fun _ _ => ?_) _ _) (fun _ h => h)
    | dsimp only
    | split
    | simp only [id_eq]
    | (intro p hp; cases p <;> first | rfl | (exfalso; revert hp; decide))

theorem doSignal_changes (b : BargeId) (tgt : SigTgt) (lb : Fin 32) (ch : Fin 16) (amt : BitVec 12) (cv : Bool) (cc : Fin 16) (s : State) :
    Changes [.alerts, .isl, .mer, .reach, .barge, .spareClock, .basin, .port, .twPkg, .keeper, .ring, .sys, .eph, .twp, .slu, .link, .spdm, .eye, .col, .chr, .flight, .freeCtr, .out] s (doSignal b tgt lb ch amt cv cc s) := by
  unfold doSignal withCredit
  repeat' first
    | assumption
    | decide
    | with_reducible apply Changes.refl
    | with_reducible apply Changes.after (hold_changes ..)
    | with_reducible apply Changes.after (State.onBarge_changes ..)
    | with_reducible apply Changes.after (addToken_changes ..)
    | with_reducible apply Changes.after (advance_changes ..)
    | with_reducible apply Changes.after (bargeFault_changes ..)
    | dsimp only
    | split
    | with_reducible apply Changes.set_flight
    | simp only [id_eq]
    | (intro p hp; cases p <;> first | rfl | (exfalso; revert hp; decide))

theorem reissue_changes (i : Instr) (s : State) :
    Changes [.alerts, .isl, .mer, .reach, .barge, .spareClock, .basin, .port, .twPkg, .keeper, .ring, .sys, .eph, .twp, .slu, .link, .spdm, .eye, .col, .chr, .flight, .freeCtr, .out, .events] s (reissue i s) := by
  unfold reissue
  repeat' first
    | assumption
    | decide
    | with_reducible apply Changes.refl
    | with_reducible apply Changes.after (doSignal_changes ..)
    | with_reducible apply Changes.after (doSst_changes ..)
    | with_reducible apply Changes.after (doMma_changes ..)
    | with_reducible apply Changes.after (doVld_changes ..)
    | with_reducible apply Changes.after (doVst_changes ..)
    | with_reducible apply Changes.after (doVqst_changes ..)
    | with_reducible apply Changes.after (doVred_changes ..)
    | with_reducible apply Changes.after (doVjoin_changes ..)
    | with_reducible apply Changes.after (doVsel_changes ..)
    | with_reducible apply Changes.after (doMld_changes ..)
    | with_reducible apply Changes.after (doMst_changes ..)
    | with_reducible apply Changes.after (doMxfr_changes ..)
    | with_reducible apply Changes.after (doMgth_changes ..)
    | dsimp only
    | split
    | simp only [id_eq]
    | (intro p hp; cases p <;> first | rfl | (exfalso; revert hp; decide))

theorem addCredit_changes (b : BargeId) (ch : Fin 16) (n : Nat) (s : State) :
    Changes [.alerts, .isl, .mer, .reach, .barge, .spareClock, .basin, .port, .twPkg, .keeper, .ring, .sys, .eph, .twp, .slu, .link, .spdm, .eye, .col, .chr, .flight, .freeCtr, .out, .events] s (addCredit b ch n s) := by
  unfold addCredit
  repeat' first
    | assumption
    | decide
    | with_reducible apply Changes.refl
    | with_reducible apply Changes.after (bargeFault_changes ..)
    | with_reducible apply Changes.after (State.onBarge_changes ..)
    | with_reducible apply Changes.after (reissue_changes ..)
    | dsimp only
    | split
    | simp only [id_eq]
    | (intro p hp; cases p <;> first | rfl | (exfalso; revert hp; decide))

theorem wakeHeld_changes (b : BargeId) (s : State) :
    Changes [.alerts, .isl, .mer, .reach, .barge, .spareClock, .basin, .port, .twPkg, .keeper, .ring, .sys, .eph, .twp, .slu, .link, .spdm, .eye, .col, .chr, .flight, .freeCtr, .out, .events] s (wakeHeld b s) := by
  unfold wakeHeld
  repeat' first
    | assumption
    | decide
    | with_reducible apply Changes.refl
    | with_reducible apply Changes.after (State.onBarge_changes ..)
    | with_reducible apply Changes.after (advance_changes ..)
    | with_reducible apply Changes.after (stepDone_changes ..)
    | with_reducible apply Changes.after (reissue_changes ..)
    | dsimp only
    | split
    | simp only [id_eq]
    | (intro p hp; cases p <;> first | rfl | (exfalso; revert hp; decide))

theorem moveDone_changes (b : BargeId) (id : Nat) (s : State) :
    Changes [.alerts, .isl, .mer, .reach, .barge, .spareClock, .basin, .port, .twPkg, .keeper, .ring, .sys, .eph, .twp, .slu, .link, .spdm, .eye, .col, .chr, .flight, .freeCtr, .out, .events] s (moveDone b id s) := by
  unfold moveDone
  repeat' first
    | assumption
    | decide
    | with_reducible apply Changes.refl
    | with_reducible apply Changes.after (chrEvent_changes ..)
    | with_reducible apply Changes.after (State.onBarge_changes ..)
    | with_reducible apply Changes.after (addToken_changes ..)
    | with_reducible apply Changes.after (wakeHeld_changes ..)
    | dsimp only
    | split
    | simp only [id_eq]
    | (intro p hp; cases p <;> first | rfl | (exfalso; revert hp; decide))

theorem takeFill_changes (b : BargeId) (data : List (Nat × Bytes)) (move : Option Nat) (operand : Bool) (s : State) :
    Changes [.alerts, .isl, .mer, .reach, .barge, .spareClock, .basin, .port, .twPkg, .keeper, .ring, .sys, .eph, .twp, .slu, .link, .spdm, .eye, .col, .chr, .flight, .freeCtr, .out, .events] s (takeFill b data move operand s) := by
  unfold takeFill
  repeat' first
    | assumption
    | decide
    | with_reducible apply Changes.refl
    | with_reducible apply Changes.after (putFill_changes ..)
    | with_reducible apply Changes.after (moveDone_changes ..)
    | dsimp only
    | split
    | simp only [id_eq]
    | (intro p hp; cases p <;> first | rfl | (exfalso; revert hp; decide))

theorem drainOne_changes (m : Msg) (s : State) :
    Changes [.alerts, .isl, .mer, .reach, .barge, .spareClock, .basin, .port, .twPkg, .keeper, .ring, .sys, .eph, .twp, .slu, .link, .spdm, .eye, .col, .chr, .flight, .freeCtr, .out, .events] s (drainOne m s) := by
  unfold drainOne
  repeat' first
    | assumption
    | decide
    | with_reducible apply Changes.refl
    | with_reducible apply Changes.after (takeFill_changes ..)
    | dsimp only
    | split
    | with_reducible apply Changes.set_flight
    | simp only [id_eq]
    | (intro p hp; cases p <;> first | rfl | (exfalso; revert hp; decide))

theorem drainFills_changes (s : State) :
    Changes [.alerts, .isl, .mer, .reach, .barge, .spareClock, .basin, .port, .twPkg, .keeper, .ring, .sys, .eph, .twp, .slu, .link, .spdm, .eye, .col, .chr, .flight, .freeCtr, .out, .events] s (drainFills s) := by
  unfold drainFills
  repeat' first
    | assumption
    | decide
    | with_reducible apply Changes.refl
    | with_reducible apply Changes.after (drainOne_changes ..)
    | with_reducible apply Changes.after (forAll_changes (fun _ _ => ?_) _ _) (fun _ h => h)
    | dsimp only
    | split
    | simp only [id_eq]
    | (intro p hp; cases p <;> first | rfl | (exfalso; revert hp; decide))

theorem afterCrossing_changes (s : State) :
    Changes [.alerts, .isl, .mer, .reach, .barge, .spareClock, .basin, .port, .twPkg, .keeper, .ring, .sys, .eph, .twp, .slu, .link, .spdm, .eye, .col, .chr, .flight, .freeCtr, .out, .events] s (afterCrossing s) := by
  unfold afterCrossing
  repeat' first
    | assumption
    | decide
    | with_reducible apply Changes.refl
    | with_reducible apply Changes.after (settleKeep_changes ..)
    | with_reducible apply Changes.after (drainFills_changes ..)
    | dsimp only
    | split
    | simp only [id_eq]
    | (intro p hp; cases p <;> first | rfl | (exfalso; revert hp; decide))

theorem portFill_changes (b : BargeId) (data : List (Nat × Bytes)) (id : Nat) (operand : Bool) (s : State) :
    Changes [.alerts, .isl, .mer, .reach, .barge, .spareClock, .basin, .port, .twPkg, .keeper, .ring, .sys, .eph, .twp, .slu, .link, .spdm, .eye, .col, .chr, .flight, .freeCtr, .out, .events] s (portFill b data id operand s) := by
  unfold portFill
  repeat' first
    | assumption
    | decide
    | with_reducible apply Changes.refl
    | with_reducible apply Changes.after (takeFill_changes ..)
    | dsimp only
    | split
    | with_reducible apply Changes.set_flight
    | simp only [id_eq]
    | (intro p hp; cases p <;> first | rfl | (exfalso; revert hp; decide))

theorem doBr_changes (b : BargeId) (ra : SReg) (rb : SReg) (cond : BrCond) (off : BitVec 16) (s : State) :
    Changes [.barge] s (doBr b ra rb cond off s) := by
  unfold doBr
  repeat' first
    | assumption
    | decide
    | with_reducible apply Changes.refl
    | with_reducible apply Changes.after (State.onBarge_changes ..)
    | dsimp only
    | split
    | simp only [id_eq]
    | (intro p hp; cases p <;> first | rfl | (exfalso; revert hp; decide))

theorem doCgive_changes (b : BargeId) (lb : Fin 32) (ch : Fin 16) (amt : BitVec 12) (s : State) :
    Changes [.alerts, .isl, .mer, .reach, .barge, .spareClock, .basin, .port, .twPkg, .keeper, .ring, .sys, .eph, .twp, .slu, .link, .spdm, .eye, .col, .chr, .flight, .freeCtr, .out] s (doCgive b lb ch amt s) := by
  unfold doCgive
  repeat' first
    | assumption
    | decide
    | with_reducible apply Changes.refl
    | with_reducible apply Changes.after (bargeFault_changes ..)
    | with_reducible apply Changes.after (advance_changes ..)
    | dsimp only
    | split
    | with_reducible apply Changes.set_flight
    | simp only [id_eq]
    | (intro p hp; cases p <;> first | rfl | (exfalso; revert hp; decide))

theorem doClim_changes (b : BargeId) (ch : Fin 16) (lim : BitVec 12) (s : State) :
    Changes [.barge] s (doClim b ch lim s) := by
  unfold doClim
  repeat' first
    | assumption
    | decide
    | with_reducible apply Changes.refl
    | with_reducible apply Changes.after (advance_changes ..)
    | with_reducible apply Changes.after (State.onBarge_changes ..)
    | dsimp only
    | split
    | simp only [id_eq]
    | (intro p hp; cases p <;> first | rfl | (exfalso; revert hp; decide))

theorem doFence_changes (b : BargeId) (s : State) :
    Changes [.barge] s (doFence b s) := by
  unfold doFence
  repeat' first
    | assumption
    | decide
    | with_reducible apply Changes.refl
    | with_reducible apply Changes.after (advance_changes ..)
    | with_reducible apply Changes.after (hold_changes ..)
    | dsimp only
    | split
    | simp only [id_eq]
    | (intro p hp; cases p <;> first | rfl | (exfalso; revert hp; decide))

theorem doLi_changes (b : BargeId) (d : SReg) (imm : Word) (s : State) :
    Changes [.barge] s (doLi b d imm s) := by
  unfold doLi
  repeat' first
    | assumption
    | decide
    | with_reducible apply Changes.refl
    | with_reducible apply Changes.after (State.onBarge_changes ..)
    | dsimp only
    | split
    | simp only [id_eq]
    | (intro p hp; cases p <;> first | rfl | (exfalso; revert hp; decide))

theorem doLoop_changes (b : BargeId) (ra : SReg) (len : BitVec 16) (s : State) :
    Changes [.barge, .events] s (doLoop b ra len s) := by
  unfold doLoop
  repeat' first
    | assumption
    | decide
    | with_reducible apply Changes.refl
    | with_reducible apply Changes.after (State.onBarge_changes ..)
    | with_reducible apply Changes.after (badOperand_changes ..)
    | dsimp only
    | split
    | simp only [id_eq]
    | (intro p hp; cases p <;> first | rfl | (exfalso; revert hp; decide))

theorem doSalu_changes (b : BargeId) (d : SReg) (ra : SReg) (rb : SReg) (fn : SFn) (s : State) :
    Changes [.barge] s (doSalu b d ra rb fn s) := by
  unfold doSalu
  repeat' first
    | assumption
    | decide
    | with_reducible apply Changes.refl
    | with_reducible apply Changes.after (State.onBarge_changes ..)
    | dsimp only
    | split
    | simp only [id_eq]
    | (intro p hp; cases p <;> first | rfl | (exfalso; revert hp; decide))

theorem doSld_changes (b : BargeId) (d : SReg) (off : BitVec 14) (s : State) :
    Changes [.alerts, .isl, .mer, .reach, .barge, .spareClock, .basin, .port, .twPkg, .keeper, .ring, .sys, .eph, .twp, .slu, .link, .spdm, .eye, .col, .chr, .flight, .freeCtr, .out] s (doSld b d off s) := by
  unfold doSld
  repeat' first
    | assumption
    | decide
    | with_reducible apply Changes.refl
    | with_reducible apply Changes.after (readSpad_changes ..)
    | with_reducible apply Changes.after (State.onBarge_changes ..)
    | dsimp only
    | split
    | simp only [id_eq]
    | (intro p hp; cases p <;> first | rfl | (exfalso; revert hp; decide))

theorem doStepdone_changes (b : BargeId) (s : State) :
    Changes [.barge, .flight] s (doStepdone b s) := by
  unfold doStepdone
  repeat' first
    | assumption
    | decide
    | with_reducible apply Changes.refl
    | with_reducible apply Changes.after (stepDone_changes ..)
    | with_reducible apply Changes.after (hold_changes ..)
    | dsimp only
    | split
    | simp only [id_eq]
    | (intro p hp; cases p <;> first | rfl | (exfalso; revert hp; decide))

theorem doTdset_changes (b : BargeId) (desc : DescId) (dim : Fin 4) (ra : SReg) (s : State) :
    Changes [.alerts, .isl, .mer, .reach, .barge, .spareClock, .basin, .port, .twPkg, .keeper, .ring, .sys, .eph, .twp, .slu, .link, .spdm, .eye, .col, .chr, .flight, .freeCtr, .out] s (doTdset b desc dim ra s) := by
  unfold doTdset
  repeat' first
    | assumption
    | decide
    | with_reducible apply Changes.refl
    | with_reducible apply Changes.after (readSpad_changes ..)
    | with_reducible apply Changes.after (State.onBarge_changes ..)
    | dsimp only
    | split
    | simp only [id_eq]
    | (intro p hp; cases p <;> first | rfl | (exfalso; revert hp; decide))

theorem doVbc_changes (b : BargeId) (vd : VReg) (va : VReg) (lane : Fin 128) (s : State) :
    Changes [.barge] s (doVbc b vd va lane s) := by
  unfold doVbc
  repeat' first
    | assumption
    | decide
    | with_reducible apply Changes.refl
    | with_reducible apply Changes.after (State.onBarge_changes ..)
    | dsimp only
    | split
    | simp only [id_eq]
    | (intro p hp; cases p <;> first | rfl | (exfalso; revert hp; decide))

theorem doVop_changes (b : BargeId) (fn : VFn) (vd : VReg) (va : VReg) (vb : VReg) (vc : VReg) (lm1 : Fin 128) (s : State) :
    Changes [.barge] s (doVop b fn vd va vb vc lm1 s) := by
  unfold doVop
  repeat' first
    | assumption
    | decide
    | with_reducible apply Changes.refl
    | with_reducible apply Changes.after (State.onBarge_changes ..)
    | dsimp only
    | split
    | simp only [id_eq]
    | (intro p hp; cases p <;> first | rfl | (exfalso; revert hp; decide))

theorem doVrng_changes (b : BargeId) (vd : VReg) (seed : SReg) (tok : SReg) (draw : SReg) (domain : BitVec 8) (lm1 : Fin 128) (s : State) :
    Changes [.barge, .events] s (doVrng b vd seed tok draw domain lm1 s) := by
  unfold doVrng
  repeat' first
    | assumption
    | decide
    | with_reducible apply Changes.refl
    | with_reducible apply Changes.after (badOperand_changes ..)
    | with_reducible apply Changes.after (State.onBarge_changes ..)
    | dsimp only
    | split
    | simp only [id_eq]
    | (intro p hp; cases p <;> first | rfl | (exfalso; revert hp; decide))

theorem doVspl_changes (b : BargeId) (vd : VReg) (ra : SReg) (s : State) :
    Changes [.barge] s (doVspl b vd ra s) := by
  unfold doVspl
  repeat' first
    | assumption
    | decide
    | with_reducible apply Changes.refl
    | with_reducible apply Changes.after (State.onBarge_changes ..)
    | dsimp only
    | split
    | simp only [id_eq]
    | (intro p hp; cases p <;> first | rfl | (exfalso; revert hp; decide))

theorem doWait_changes (b : BargeId) (needs : List (Fin 16 × Nat)) (s : State) :
    Changes [.barge] s (doWait b needs s) := by
  unfold doWait
  repeat' first
    | assumption
    | decide
    | with_reducible apply Changes.refl
    | with_reducible apply Changes.after (State.onBarge_changes ..)
    | with_reducible apply Changes.after (hold_changes ..)
    | dsimp only
    | split
    | simp only [id_eq]
    | (intro p hp; cases p <;> first | rfl | (exfalso; revert hp; decide))

/-! ### Lockcycle -/

theorem readOuts_changes (r : SvcId) (off : Nat) (a2 : Nat) (a3 : State) :
    Changes [.alerts, .reach, .barge, .basin, .port, .keeper, .ring, .sys, .eph, .twp, .slu, .link, .spdm, .eye, .col, .chr, .flight, .freeCtr] a3 (readOuts r off a2 a3).2 := by
  induction a2 generalizing a3 off with
  | zero => exact Changes.refl _ _
  | succ f ih =>
    unfold readOuts
    repeat' first
      | assumption
      | decide
      | with_reducible apply Changes.after (ih ..) (fun _ h => h)
      | with_reducible apply Changes.refl
      | with_reducible apply Changes.after (readShare_changes ..)
      | dsimp only
      | split

theorem commitRunning_changes (r : SvcId) (s : State) :
    Changes [.alerts, .reach, .barge, .basin, .port, .keeper, .ring, .sys, .eph, .twp, .slu, .link, .spdm, .eye, .col, .chr, .flight, .freeCtr] s (commitRunning r s) := by
  unfold commitRunning
  repeat' first
    | assumption
    | decide
    | with_reducible apply Changes.refl
    | with_reducible apply Changes.after (readOuts_changes ..)
    | with_reducible apply Changes.after (reschedule_changes ..)
    | with_reducible apply Changes.after (pumpExchanges_changes ..)
    | with_reducible apply Changes.after (commitCycle_changes ..)
    | dsimp only
    | split
    | simp only [id_eq]
    | (intro p hp; cases p <;> first | rfl | (exfalso; revert hp; decide))

theorem enterStep_changes (b : BargeId) (cycle : Nat) (s : State) :
    Changes [.alerts, .reach, .barge, .basin, .port, .keeper, .ring, .sys, .eph, .twp, .slu, .link, .spdm, .eye, .col, .chr, .flight, .freeCtr] s (enterStep b cycle s) := by
  unfold enterStep
  repeat' first
    | assumption
    | decide
    | with_reducible apply Changes.refl
    | with_reducible apply Changes.after (readShare_changes ..)
    | with_reducible apply Changes.after (enterProgram_changes ..)
    | with_reducible apply Changes.after (State.onBarge_changes ..)
    | dsimp only
    | split
    | simp only [id_eq]
    | (intro p hp; cases p <;> first | rfl | (exfalso; revert hp; decide))

theorem writeTollCap_changes (n : ReachId) (c : Fin 16) (data : Word) (s : State) :
    Changes [.keeper] s (writeTollCap n c data s) := by
  unfold writeTollCap
  repeat' first
    | assumption
    | decide
    | with_reducible apply Changes.refl
    | with_reducible apply Changes.after (State.onKeeper_changes ..)
    | dsimp only
    | split
    | simp only [id_eq]
    | (intro p hp; cases p <;> first | rfl | (exfalso; revert hp; decide))

theorem writeTollCfg_changes (n : ReachId) (c : Fin 16) (mid : Nat) (kc : Nat) (data : Word) (s : State) :
    Changes [.keeper, .sys] s (writeTollCfg n c mid kc data s) := by
  unfold writeTollCfg
  repeat' first
    | assumption
    | decide
    | with_reducible apply Changes.refl
    | with_reducible apply Changes.after (tick_changes ..)
    | with_reducible apply Changes.after (State.onKeeper_changes ..)
    | with_reducible apply Changes.after (audit_changes ..)
    | dsimp only
    | split
    | simp only [id_eq]
    | (intro p hp; cases p <;> first | rfl | (exfalso; revert hp; decide))

/-! ### SysPort -/

theorem clearPend_changes (data : Word) (s : State) :
    Changes [.sys] s (clearPend data s) := by
  unfold clearPend
  repeat' first
    | assumption
    | decide
    | with_reducible apply Changes.refl
    | with_reducible apply Changes.after (State.onSys_changes ..)
    | dsimp only
    | split
    | simp only [id_eq]
    | (intro p hp; cases p <;> first | rfl | (exfalso; revert hp; decide))

theorem deliverSys_changes (t : SysTxn) (s : State) :
    Changes [.basin, .loader, .ring, .sys] s (deliverSys t s) := by
  unfold deliverSys
  repeat' first
    | assumption
    | decide
    | with_reducible apply Changes.refl
    | with_reducible apply Changes.after (State.onRing_changes ..)
    | with_reducible apply Changes.after (sharePut_changes ..)
    | with_reducible apply Changes.after (recordAcked_changes ..)
    | with_reducible apply Changes.after (forAll_changes (fun _ _ => ?_) _ _) (fun _ h => h)
    | dsimp only
    | split
    | with_reducible apply Changes.set_loader
    | simp only [id_eq]
    | (intro p hp; cases p <;> first | rfl | (exfalso; revert hp; decide))

theorem dropTransfer_changes (u : SysUse) (s : State) :
    Changes [.sys] s (dropTransfer u s) := by
  unfold dropTransfer
  repeat' first
    | assumption
    | decide
    | with_reducible apply Changes.refl
    | with_reducible apply Changes.after (State.onSys_changes ..)
    | dsimp only
    | split
    | simp only [id_eq]
    | (intro p hp; cases p <;> first | rfl | (exfalso; revert hp; decide))

theorem dropTxn_changes (k : Rw) (tag : Nat) (s : State) :
    Changes [.sys] s (dropTxn k tag s) := by
  unfold dropTxn
  repeat' first
    | assumption
    | decide
    | with_reducible apply Changes.refl
    | with_reducible apply Changes.after (State.onSys_changes ..)
    | dsimp only
    | split
    | simp only [id_eq]
    | (intro p hp; cases p <;> first | rfl | (exfalso; revert hp; decide))

theorem sysIssue_changes (o : Nat) (tag : Nat) (q : SysReq) (s : State) :
    Changes [.sys, .chr, .out] s (sysIssue o tag q s) := by
  unfold sysIssue
  repeat' first
    | assumption
    | decide
    | with_reducible apply Changes.refl
    | with_reducible apply Changes.after (chrEvent_changes ..)
    | with_reducible apply Changes.after (emit_changes ..)
    | with_reducible apply Changes.after (State.onSys_changes ..)
    | dsimp only
    | split
    | simp only [id_eq]
    | (intro p hp; cases p <;> first | rfl | (exfalso; revert hp; decide))

theorem sendMessage_changes (o : Nat) (i : Fin 16) (s : State) :
    Changes [.sys, .chr, .out] s (sendMessage o i s) := by
  unfold sendMessage
  repeat' first
    | assumption
    | decide
    | with_reducible apply Changes.refl
    | with_reducible apply Changes.after (sysIssue_changes ..)
    | with_reducible apply Changes.after (State.onSys_changes ..)
    | dsimp only
    | split
    | simp only [id_eq]
    | (intro p hp; cases p <;> first | rfl | (exfalso; revert hp; decide))

theorem setTxn_changes (k : Rw) (tag : Nat) (f : SysTxn → SysTxn) (s : State) :
    Changes [.sys] s (setTxn k tag f s) := by
  unfold setTxn
  repeat' first
    | assumption
    | decide
    | with_reducible apply Changes.refl
    | with_reducible apply Changes.after (State.onSys_changes ..)
    | dsimp only
    | split
    | simp only [id_eq]
    | (intro p hp; cases p <;> first | rfl | (exfalso; revert hp; decide))

theorem slotEvents_changes (r : SvcId) (y : SysPort) (after : State) :
    Changes [.chr] after (slotEvents r y after) := by
  unfold slotEvents
  repeat' first
    | assumption
    | decide
    | with_reducible apply Changes.refl
    | with_reducible apply Changes.after (chrEvent_changes ..)
    | dsimp only
    | split
    | simp only [id_eq]
    | (intro p hp; cases p <;> first | rfl | (exfalso; revert hp; decide))

theorem slotRead_changes (r : SvcId) (s : State) :
    Changes [.sys, .chr, .out] s (slotRead r s) := by
  unfold slotRead
  repeat' first
    | assumption
    | decide
    | with_reducible apply Changes.refl
    | with_reducible apply Changes.after (sysIssue_changes ..)
    | with_reducible apply Changes.after (State.onSys_changes ..)
    | dsimp only
    | split
    | simp only [id_eq]
    | (intro p hp; cases p <;> first | rfl | (exfalso; revert hp; decide))

theorem slotWrite_changes (r : SvcId) (s : State) :
    Changes [.sys, .chr, .out] s (slotWrite r s).1 := by
  unfold slotWrite
  repeat' first
    | assumption
    | decide
    | with_reducible apply Changes.refl
    | with_reducible apply Changes.after (sendMessage_changes ..)
    | with_reducible apply Changes.after (sysIssue_changes ..)
    | with_reducible apply Changes.after (State.onSys_changes ..)
    | dsimp only
    | split
    | simp only [id_eq]
    | (intro p hp; cases p <;> first | rfl | (exfalso; revert hp; decide))

theorem stagingFailed_changes (r : SvcId) (s : State) :
    Changes [.reach, .barge, .basin, .port, .keeper, .ring, .sys, .eph, .twp, .slu, .link, .spdm, .eye, .col, .chr, .flight, .freeCtr] s (stagingFailed r s) := by
  unfold stagingFailed
  repeat' first
    | assumption
    | decide
    | with_reducible apply Changes.refl
    | with_reducible apply Changes.after (dropInputRequests_changes ..)
    | with_reducible apply Changes.after (State.onKeeper_changes ..)
    | with_reducible apply Changes.after (checkDrained_changes ..)
    | with_reducible apply Changes.after (endReqs_changes ..)
    | dsimp only
    | split
    | simp only [id_eq]
    | (intro p hp; cases p <;> first | rfl | (exfalso; revert hp; decide))

theorem strayResponse_changes (s : State) :
    Changes [.alerts, .sys] s (strayResponse s) := by
  unfold strayResponse
  repeat' first
    | assumption
    | decide
    | with_reducible apply Changes.refl
    | with_reducible apply Changes.after (alert_changes ..)
    | with_reducible apply Changes.after (State.onSys_changes ..)
    | dsimp only
    | split
    | simp only [id_eq]
    | (intro p hp; cases p <;> first | rfl | (exfalso; revert hp; decide))

theorem transferFailed_changes (t : SysTxn) (s : State) :
    Changes [.alerts, .isl, .mer, .reach, .barge, .spareClock, .basin, .port, .twPkg, .loader, .keeper, .ring, .sys, .eph, .twp, .slu, .link, .spdm, .eye, .col, .chr, .flight, .freeCtr, .out] s (transferFailed t s) := by
  unfold transferFailed
  repeat' first
    | assumption
    | decide
    | with_reducible apply Changes.refl
    | with_reducible apply Changes.after (dropTransfer_changes ..)
    | with_reducible apply Changes.after (alert_changes ..)
    | with_reducible apply Changes.after (sqFault_changes ..)
    | with_reducible apply Changes.after (stagingFailed_changes ..)
    | with_reducible apply Changes.after (settleTwilight_changes ..)
    | with_reducible apply Changes.after (cqFault_changes ..)
    | with_reducible apply Changes.after (failLoad_changes ..)
    | with_reducible apply Changes.after (State.onSys_changes ..)
    | dsimp only
    | split
    | simp only [id_eq]
    | (intro p hp; cases p <;> first | rfl | (exfalso; revert hp; decide))

theorem sysRelease_changes (t : SysTxn) (s : State) :
    Changes [.alerts, .isl, .mer, .reach, .barge, .spareClock, .basin, .port, .twPkg, .loader, .keeper, .ring, .sys, .eph, .twp, .slu, .link, .spdm, .eye, .col, .chr, .flight, .freeCtr, .out] s (sysRelease t s) := by
  unfold sysRelease
  repeat' first
    | assumption
    | decide
    | with_reducible apply Changes.refl
    | with_reducible apply Changes.after (transferFailed_changes ..)
    | with_reducible apply Changes.after (deliverSys_changes ..)
    | dsimp only
    | split
    | simp only [id_eq]
    | (intro p hp; cases p <;> first | rfl | (exfalso; revert hp; decide))

theorem sysAnswer_changes (k : Rw) (tag : Nat) (ok : Bool) (data : Bytes) (s : State) :
    Changes [.alerts, .isl, .mer, .reach, .barge, .spareClock, .basin, .port, .twPkg, .loader, .keeper, .ring, .sys, .eph, .twp, .slu, .link, .spdm, .eye, .col, .chr, .flight, .freeCtr, .out] s (sysAnswer k tag ok data s) := by
  unfold sysAnswer
  repeat' first
    | assumption
    | decide
    | with_reducible apply Changes.refl
    | with_reducible apply Changes.after (strayResponse_changes ..)
    | with_reducible apply Changes.after (dropTxn_changes ..)
    | with_reducible apply Changes.after (State.onSys_changes ..)
    | with_reducible apply Changes.after (sysRelease_changes ..)
    | with_reducible apply Changes.after (chrEvent_changes ..)
    | with_reducible apply Changes.after (setTxn_changes ..)
    | dsimp only
    | split
    | simp only [id_eq]
    | (intro p hp; cases p <;> first | rfl | (exfalso; revert hp; decide))

/-! ### MemOps -/

theorem portAlert_changes (status : Nat) (p : PortId) (owner : Nat) (cause : Nat) (s : State) :
    Changes [.alerts, .sys] s (portAlert status p owner cause s) := by
  unfold portAlert
  repeat' first
    | assumption
    | decide
    | with_reducible apply Changes.refl
    | with_reducible apply Changes.after (alert_changes ..)
    | dsimp only
    | split
    | simp only [id_eq]
    | (intro p hp; cases p <;> first | rfl | (exfalso; revert hp; decide))

theorem setMem_changes (p : PortId) (k : Rw) (tag : Nat) (f : MemTxn → MemTxn) (s : State) :
    Changes [.port] s (setMem p k tag f s) := by
  unfold setMem
  repeat' first
    | assumption
    | decide
    | with_reducible apply Changes.refl
    | with_reducible apply Changes.after (State.onPort_changes ..)
    | dsimp only
    | split
    | simp only [id_eq]
    | (intro p hp; cases p <;> first | rfl | (exfalso; revert hp; decide))

theorem memError_changes (r : SvcId) (status : Nat) (s : State) :
    Changes [.isl, .mer, .meas, .reach, .barge, .spareClock, .basin, .port, .twPkg, .keeper, .ring, .sys, .eph, .twp, .slu, .link, .spdm, .eye, .col, .chr, .flight, .freeCtr, .out] s (memError r status s) := by
  unfold memError
  repeat' first
    | assumption
    | decide
    | with_reducible apply Changes.refl
    | with_reducible apply Changes.after (extend_changes ..)
    | with_reducible apply Changes.after (releaseTwilight_changes ..)
    | with_reducible apply Changes.after (stepError_changes ..)
    | dsimp only
    | split
    | simp only [id_eq]
    | (intro p hp; cases p <;> first | rfl | (exfalso; revert hp; decide))

theorem settleSpill_changes (s : State) :
    Changes [.iso] s (settleSpill s) := by
  unfold settleSpill
  repeat' first
    | assumption
    | decide
    | with_reducible apply Changes.refl
    | dsimp only
    | split
    | with_reducible apply Changes.set_iso
    | simp only [id_eq]
    | (intro p hp; cases p <;> first | rfl | (exfalso; revert hp; decide))

theorem dropMem_changes (p : PortId) (k : Rw) (tag : Nat) (s : State) :
    Changes [.iso, .port] s (dropMem p k tag s) := by
  unfold dropMem
  repeat' first
    | assumption
    | decide
    | with_reducible apply Changes.refl
    | with_reducible apply Changes.after (settleSpill_changes ..)
    | with_reducible apply Changes.after (State.onPort_changes ..)
    | dsimp only
    | split
    | simp only [id_eq]
    | (intro p hp; cases p <;> first | rfl | (exfalso; revert hp; decide))

theorem lateMem_changes (p : PortId) (r : SvcId) (s : State) :
    Changes [.port, .chr] s (lateMem p r s) := by
  unfold lateMem
  repeat' first
    | assumption
    | decide
    | with_reducible apply Changes.refl
    | with_reducible apply Changes.after (State.onPort_changes ..)
    | with_reducible apply Changes.after (chrEvent_changes ..)
    | dsimp only
    | split
    | simp only [id_eq]
    | (intro p hp; cases p <;> first | rfl | (exfalso; revert hp; decide))

theorem deliverRead_changes (t : MemTxn) (s : State) :
    Changes [.alerts, .isl, .mer, .reach, .barge, .spareClock, .basin, .port, .twPkg, .keeper, .ring, .sys, .eph, .twp, .slu, .link, .spdm, .eye, .col, .chr, .flight, .freeCtr, .out, .events] s (deliverRead t s) := by
  unfold deliverRead
  repeat' first
    | assumption
    | decide
    | with_reducible apply Changes.refl
    | with_reducible apply Changes.after (portFill_changes ..)
    | dsimp only
    | split
    | simp only [id_eq]
    | (intro p hp; cases p <;> first | rfl | (exfalso; revert hp; decide))

theorem releaseBlock_changes (p : PortId) (lo : MemTxn) (hi : MemTxn) (late : Bool) (s : State) :
    Changes [.alerts, .isl, .iso, .mer, .reach, .barge, .spareClock, .basin, .port, .twPkg, .keeper, .ring, .sys, .eph, .twp, .slu, .link, .spdm, .eye, .col, .chr, .flight, .freeCtr, .out, .events] s (releaseBlock p lo hi late s) := by
  unfold releaseBlock
  repeat' first
    | assumption
    | decide
    | with_reducible apply Changes.refl
    | with_reducible apply Changes.after (dropMem_changes ..)
    | with_reducible apply Changes.after (deliverRead_changes ..)
    | with_reducible apply Changes.after (lateMem_changes ..)
    | dsimp only
    | split
    | simp only [id_eq]
    | (intro p hp; cases p <;> first | rfl | (exfalso; revert hp; decide))

theorem checkBlock_changes (p : PortId) (tag : Nat) (late : Bool) (s : State) :
    Changes [.alerts, .isl, .iso, .mer, .meas, .reach, .barge, .spareClock, .basin, .port, .twPkg, .keeper, .ring, .sys, .eph, .twp, .slu, .link, .spdm, .eye, .col, .chr, .flight, .freeCtr, .out, .events] s (checkBlock p tag late s) := by
  unfold checkBlock
  repeat' first
    | assumption
    | decide
    | with_reducible apply Changes.refl
    | with_reducible apply Changes.after (releaseBlock_changes ..)
    | with_reducible apply Changes.after (dropMem_changes ..)
    | with_reducible apply Changes.after (useKey_changes ..)
    | with_reducible apply Changes.after (memError_changes ..)
    | with_reducible apply Changes.after (setMem_changes ..)
    | with_reducible apply Changes.after (State.onPort_changes ..)
    | with_reducible apply Changes.after (portAlert_changes ..)
    | dsimp only
    | split
    | simp only [id_eq]
    | (intro p hp; cases p <;> first | rfl | (exfalso; revert hp; decide))

theorem countStatusMem_changes (p : PortId) (status : BitVec 2) (s : State) :
    Changes [.port] s (countStatusMem p status s) := by
  unfold countStatusMem
  repeat' first
    | assumption
    | decide
    | with_reducible apply Changes.refl
    | with_reducible apply Changes.after (State.onPort_changes ..)
    | dsimp only
    | split
    | simp only [id_eq]
    | (intro p hp; cases p <;> first | rfl | (exfalso; revert hp; decide))

theorem finishLoad_changes (s : State) :
    Changes [.reach, .barge, .port, .loader, .keeper, .ring, .sys, .eph, .twp, .slu, .link, .spdm, .eye, .col, .chr, .flight, .freeCtr] s (finishLoad s) := by
  unfold finishLoad
  repeat' first
    | assumption
    | decide
    | with_reducible apply Changes.refl
    | with_reducible apply Changes.after (State.onReach_changes ..)
    | with_reducible apply Changes.after (startLoads_changes ..)
    | with_reducible apply Changes.after (beginInit_changes ..)
    | dsimp only
    | split
    | with_reducible apply Changes.set_loader
    | simp only [id_eq]
    | (intro p hp; cases p <;> first | rfl | (exfalso; revert hp; decide))

theorem loadWritten_changes (s : State) :
    Changes [.reach, .barge, .port, .loader, .keeper, .ring, .sys, .eph, .twp, .slu, .link, .spdm, .eye, .col, .chr, .flight, .freeCtr] s (loadWritten s) := by
  unfold loadWritten
  repeat' first
    | assumption
    | decide
    | with_reducible apply Changes.refl
    | with_reducible apply Changes.after (finishLoad_changes ..)
    | dsimp only
    | split
    | with_reducible apply Changes.set_loader
    | simp only [id_eq]
    | (intro p hp; cases p <;> first | rfl | (exfalso; revert hp; decide))

theorem deliverWrite_changes (t : MemTxn) (s : State) :
    Changes [.alerts, .isl, .mer, .reach, .barge, .spareClock, .basin, .port, .twPkg, .loader, .keeper, .ring, .sys, .eph, .twp, .slu, .link, .spdm, .eye, .col, .chr, .flight, .freeCtr, .out, .events] s (deliverWrite t s) := by
  unfold deliverWrite
  repeat' first
    | assumption
    | decide
    | with_reducible apply Changes.refl
    | with_reducible apply Changes.after (moveDone_changes ..)
    | with_reducible apply Changes.after (loadWritten_changes ..)
    | dsimp only
    | split
    | simp only [id_eq]
    | (intro p hp; cases p <;> first | rfl | (exfalso; revert hp; decide))

theorem keyRefused_changes (p : PortId) (r : SvcId) (q : MemReq) (status : Nat) (s : State) :
    Changes [.isl, .mer, .meas, .reach, .barge, .spareClock, .basin, .port, .twPkg, .loader, .keeper, .ring, .sys, .eph, .twp, .slu, .link, .spdm, .eye, .col, .chr, .flight, .freeCtr, .out] s (keyRefused p r q status s) := by
  unfold keyRefused
  repeat' first
    | assumption
    | decide
    | with_reducible apply Changes.refl
    | with_reducible apply Changes.after (State.onPort_changes ..)
    | with_reducible apply Changes.after (memError_changes ..)
    | with_reducible apply Changes.after (failLoad_changes ..)
    | dsimp only
    | split
    | simp only [id_eq]
    | (intro p hp; cases p <;> first | rfl | (exfalso; revert hp; decide))

theorem lineArrived_changes (p : PortId) (t : MemTxn) (data : Bytes) (s : State) :
    Changes [.alerts, .isl, .iso, .mer, .meas, .reach, .barge, .spareClock, .basin, .port, .twPkg, .keeper, .ring, .sys, .eph, .twp, .slu, .link, .spdm, .eye, .col, .chr, .flight, .freeCtr, .out, .events] s (lineArrived p t data s) := by
  unfold lineArrived
  repeat' first
    | assumption
    | decide
    | with_reducible apply Changes.refl
    | with_reducible apply Changes.after (State.onPort_changes ..)
    | with_reducible apply Changes.after (checkBlock_changes ..)
    | with_reducible apply Changes.after (forAll_changes (fun _ _ => ?_) _ _) (fun _ h => h)
    | dsimp only
    | split
    | simp only [id_eq]
    | (intro p hp; cases p <;> first | rfl | (exfalso; revert hp; decide))

theorem memIssue_changes (p : PortId) (r : SvcId) (tag : Nat) (pool : Bool) (spilled : Bool) (q : MemReq) (s : State) :
    Changes [.port, .chr, .out] s (memIssue p r tag pool spilled q s) := by
  unfold memIssue
  repeat' first
    | assumption
    | decide
    | with_reducible apply Changes.refl
    | with_reducible apply Changes.after (emit_changes ..)
    | with_reducible apply Changes.after (State.onPort_changes ..)
    | with_reducible apply Changes.after (chrEvent_changes ..)
    | dsimp only
    | split
    | simp only [id_eq]
    | (intro p hp; cases p <;> first | rfl | (exfalso; revert hp; decide))

theorem readLost_changes (p : PortId) (t : MemTxn) (cause : Nat) (s : State) :
    Changes [.alerts, .isl, .mer, .meas, .reach, .barge, .spareClock, .basin, .port, .twPkg, .keeper, .ring, .sys, .eph, .twp, .slu, .link, .spdm, .eye, .col, .chr, .flight, .freeCtr, .out] s (readLost p t cause s) := by
  unfold readLost
  repeat' first
    | assumption
    | decide
    | with_reducible apply Changes.refl
    | with_reducible apply Changes.after (State.onPort_changes ..)
    | with_reducible apply Changes.after (memError_changes ..)
    | with_reducible apply Changes.after (portAlert_changes ..)
    | dsimp only
    | split
    | simp only [id_eq]
    | (intro p hp; cases p <;> first | rfl | (exfalso; revert hp; decide))

theorem strayMem_changes (p : PortId) (s : State) :
    Changes [.alerts, .port, .sys] s (strayMem p s) := by
  unfold strayMem
  repeat' first
    | assumption
    | decide
    | with_reducible apply Changes.refl
    | with_reducible apply Changes.after (portAlert_changes ..)
    | with_reducible apply Changes.after (State.onPort_changes ..)
    | dsimp only
    | split
    | simp only [id_eq]
    | (intro p hp; cases p <;> first | rfl | (exfalso; revert hp; decide))

theorem readAnswer_changes (p : PortId) (tag : Nat) (status : BitVec 2) (data : Bytes) (s : State) :
    Changes [.alerts, .isl, .iso, .mer, .meas, .reach, .barge, .spareClock, .basin, .port, .twPkg, .keeper, .ring, .sys, .eph, .twp, .slu, .link, .spdm, .eye, .col, .chr, .flight, .freeCtr, .out, .events] s (readAnswer p tag status data s) := by
  unfold readAnswer
  repeat' first
    | assumption
    | decide
    | with_reducible apply Changes.refl
    | with_reducible apply Changes.after (strayMem_changes ..)
    | with_reducible apply Changes.after (dropMem_changes ..)
    | with_reducible apply Changes.after (countStatusMem_changes ..)
    | with_reducible apply Changes.after (readLost_changes ..)
    | with_reducible apply Changes.after (lineArrived_changes ..)
    | with_reducible apply Changes.after (setMem_changes ..)
    | with_reducible apply Changes.after (checkBlock_changes ..)
    | with_reducible apply Changes.after (deliverRead_changes ..)
    | with_reducible apply Changes.after (lateMem_changes ..)
    | dsimp only
    | split
    | simp only [id_eq]
    | (intro p hp; cases p <;> first | rfl | (exfalso; revert hp; decide))

theorem useMemKeys_changes (r : SvcId) (s : State) :
    Changes [.alerts, .sys, .eph] s (useMemKeys r s).2 := by
  unfold useMemKeys
  repeat' first
    | assumption
    | decide
    | with_reducible apply Changes.refl
    | with_reducible apply Changes.after (useKey_changes ..)
    | dsimp only
    | split
    | simp only [id_eq]
    | (intro p hp; cases p <;> first | rfl | (exfalso; revert hp; decide))

theorem slotIssue_changes (p : PortId) (r : SvcId) (spill : Bool) (acc : State × List Rw) :
    Changes [.alerts, .isl, .mer, .meas, .reach, .barge, .spareClock, .basin, .port, .twPkg, .loader, .keeper, .ring, .sys, .eph, .twp, .slu, .link, .spdm, .eye, .col, .chr, .flight, .freeCtr, .out] acc.1 (slotIssue p r spill acc).1 := by
  have hu : Changes [.alerts, .isl, .mer, .meas, .reach, .barge, .spareClock, .basin, .port, .twPkg, .loader, .keeper, .ring, .sys, .eph, .twp, .slu, .link, .spdm, .eye, .col, .chr, .flight, .freeCtr, .out] acc.1 (useMemKeys r acc.1).2 := (useMemKeys_changes _ _).mono (by decide)
  unfold slotIssue
  dsimp only
  split
  · split
    · exact Changes.refl _ _
    · split
      · exact (keyRefused_changes _ _ _ _ _).after (by decide) hu
      · dsimp only
        split
        · exact (State.onPort_changes _ _ _).after (by decide) ((memIssue_changes _ _ _ _ _ _ _).after (by decide) hu)
        · exact (memIssue_changes _ _ _ _ _ _ _).after (by decide) hu
  · exact Changes.refl _ _

theorem wheelSlot_changes (p : PortId) (s : State) :
    Changes [.alerts, .isl, .mer, .meas, .reach, .barge, .spareClock, .basin, .port, .twPkg, .loader, .keeper, .ring, .sys, .eph, .twp, .slu, .link, .spdm, .eye, .col, .chr, .flight, .freeCtr, .out] s (wheelSlot p s) := by
  unfold wheelSlot
  repeat' first
    | assumption
    | decide
    | with_reducible apply Changes.refl
    | with_reducible apply Changes.after (slotIssue_changes ..)
    | with_reducible apply Changes.after (State.onPort_changes ..)
    | with_reducible apply Changes.after (chrEvent_changes ..)
    | dsimp only
    | split
    | simp only [id_eq]
    | (intro p hp; cases p <;> first | rfl | (exfalso; revert hp; decide))

theorem writeAnswer_changes (p : PortId) (tag : Nat) (status : BitVec 2) (s : State) :
    Changes [.alerts, .isl, .iso, .mer, .meas, .reach, .barge, .spareClock, .basin, .port, .twPkg, .loader, .keeper, .ring, .sys, .eph, .twp, .slu, .link, .spdm, .eye, .col, .chr, .flight, .freeCtr, .out, .events] s (writeAnswer p tag status s) := by
  unfold writeAnswer
  repeat' first
    | assumption
    | decide
    | with_reducible apply Changes.refl
    | with_reducible apply Changes.after (strayMem_changes ..)
    | with_reducible apply Changes.after (countStatusMem_changes ..)
    | with_reducible apply Changes.after (dropMem_changes ..)
    | with_reducible apply Changes.after (portAlert_changes ..)
    | with_reducible apply Changes.after (memError_changes ..)
    | with_reducible apply Changes.after (failLoad_changes ..)
    | with_reducible apply Changes.after (deliverWrite_changes ..)
    | with_reducible apply Changes.after (lateMem_changes ..)
    | with_reducible apply Changes.after (setMem_changes ..)
    | dsimp only
    | split
    | simp only [id_eq]
    | (intro p hp; cases p <;> first | rfl | (exfalso; revert hp; decide))

end Sys2Proof.Machine
end

