-- ==== Sys2Proof/Laws/FrameCommands.lean ====
section
/-! SUPPORT. What each operation can change: the command families: reaches, Aqueduct, rings, registers, packages, Sluice and SPDM. -/

namespace Sys2Proof.Machine

set_option Elab.async false

/-! ### ReachOps -/

theorem answerFailed_changes (n : ReachId) (s : State) :
    Changes [.reach, .ring, .sys] s (answerFailed n s) := by
  unfold answerFailed
  repeat' first
    | assumption
    | decide
    | with_reducible apply Changes.refl
    | with_reducible apply Changes.after (answerLoad_changes ..)
    | with_reducible apply Changes.after (State.onReach_changes ..)
    | dsimp only
    | split
    | simp only [id_eq]
    | (intro p hp; cases p <;> first | rfl | (exfalso; revert hp; decide))

theorem createReach_changes (n : ReachId) (a : CreateArgs) (y : Layout) (s : State) :
    Changes [.isl, .epochCtr, .reach, .barge, .basin, .port, .keeper, .sys, .slu, .link, .eye, .chr, .flight, .freeCtr, .out] s (createReach n a y s) := by
  unfold createReach
  repeat' first
    | assumption
    | decide
    | with_reducible apply Changes.refl
    | with_reducible apply Changes.after (newEpoch_changes ..)
    | with_reducible apply Changes.after (State.onReach_changes ..)
    | with_reducible apply Changes.after (setReachState_changes ..)
    | with_reducible apply Changes.after (assignBarge_changes ..)
    | with_reducible apply Changes.after (setUnitEpoch_changes ..)
    | with_reducible apply Changes.after (setUnitOwner_changes ..)
    | with_reducible apply Changes.after (clearUnit_changes ..)
    | with_reducible apply Changes.after (State.onKeeper_changes ..)
    | with_reducible apply Changes.after (State.onSlu_changes ..)
    | with_reducible apply Changes.after (forAll_changes (fun _ _ => ?_) _ _) (fun _ h => h)
    | with_reducible apply Changes.after (Changes.foldl (fun _ _ => ?_) _ _) (fun _ h => h)
    | dsimp only
    | split
    | with_reducible apply Changes.set_port_sys_link
    | simp only [id_eq]
    | (intro p hp; cases p <;> first | rfl | (exfalso; revert hp; decide))

theorem markDrained_changes (n : ReachId) (s : State) :
    Changes [.spdm] s (markDrained n s) := by
  unfold markDrained
  repeat' first
    | assumption
    | decide
    | with_reducible apply Changes.refl
    | with_reducible apply Changes.after (State.onSpdm_changes ..)
    | dsimp only
    | split
    | simp only [id_eq]
    | (intro p hp; cases p <;> first | rfl | (exfalso; revert hp; decide))

theorem drainReach_changes (n : ReachId) (cancel : Bool) (s : State) :
    Changes [.reach, .barge, .basin, .port, .loader, .keeper, .ring, .sys, .eph, .twp, .slu, .link, .spdm, .eye, .col, .chr, .flight, .freeCtr] s (drainReach n cancel s) := by
  unfold drainReach
  repeat' first
    | assumption
    | decide
    | with_reducible apply Changes.refl
    | with_reducible apply Changes.after (beginDredge_changes ..)
    | with_reducible apply Changes.after (answerFailed_changes ..)
    | with_reducible apply Changes.after (stopLoad_changes ..)
    | with_reducible apply Changes.after (markDrained_changes ..)
    | with_reducible apply Changes.after (setReachState_changes ..)
    | with_reducible apply Changes.after (State.onReach_changes ..)
    | with_reducible apply Changes.after (checkDrained_changes ..)
    | with_reducible apply Changes.after (cancelAll_changes ..)
    | with_reducible apply Changes.after (endReqs_changes ..)
    | dsimp only
    | split
    | simp only [id_eq]
    | (intro p hp; cases p <;> first | rfl | (exfalso; revert hp; decide))

/-! ### Aqueduct -/

theorem queueFrames_changes (l : LinkId) (c : Fin 9) (fs : List OutFrame) (s : State) :
    Changes [.link] s (queueFrames l c fs s) := by
  unfold queueFrames
  repeat' first
    | assumption
    | decide
    | with_reducible apply Changes.refl
    | with_reducible apply Changes.after (onChan_changes ..)
    | dsimp only
    | split
    | simp only [id_eq]
    | (intro p hp; cases p <;> first | rfl | (exfalso; revert hp; decide))

theorem sendSession_changes (l : LinkId) (s : State) :
    Changes [.link] s (sendSession l s) := by
  unfold sendSession
  repeat' first
    | assumption
    | decide
    | with_reducible apply Changes.refl
    | with_reducible apply Changes.after (State.onLink_changes ..)
    | with_reducible apply Changes.after (queueFrames_changes ..)
    | with_reducible apply Changes.after (onChan_changes ..)
    | dsimp only
    | split
    | simp only [id_eq]
    | (intro p hp; cases p <;> first | rfl | (exfalso; revert hp; decide))

theorem sendInit_changes (l : LinkId) (c : Fin 9) (s : State) :
    Changes [.eph, .link, .freeCtr] s (sendInit l c s) := by
  unfold sendInit
  repeat' first
    | assumption
    | decide
    | with_reducible apply Changes.refl
    | with_reducible apply Changes.after (draw_changes ..)
    | with_reducible apply Changes.after (queueFrames_changes ..)
    | with_reducible apply Changes.after (onChan_changes ..)
    | dsimp only
    | split
    | simp only [id_eq]
    | (intro p hp; cases p <;> first | rfl | (exfalso; revert hp; decide))

theorem beginHandshake_changes (l : LinkId) (c : Fin 9) (s : State) :
    Changes [.eph, .link, .freeCtr] s (beginHandshake l c s) := by
  unfold beginHandshake
  repeat' first
    | assumption
    | decide
    | with_reducible apply Changes.refl
    | with_reducible apply Changes.after (onChan_changes ..)
    | with_reducible apply Changes.after (sendInit_changes ..)
    | with_reducible apply Changes.after (sendSession_changes ..)
    | dsimp only
    | split
    | simp only [id_eq]
    | (intro p hp; cases p <;> first | rfl | (exfalso; revert hp; decide))

theorem linkRequests_changes (c : Fin 9) (s : State) :
    Changes [.reach, .barge, .basin, .port, .keeper, .ring, .sys, .eph, .twp, .slu, .link, .spdm, .eye, .col, .chr, .flight, .freeCtr] s (linkRequests c s) := by
  unfold linkRequests
  repeat' first
    | assumption
    | decide
    | with_reducible apply Changes.refl
    | with_reducible apply Changes.after (endStep_changes ..)
    | with_reducible apply Changes.after (checkDrained_changes ..)
    | with_reducible apply Changes.after (endReqs_changes ..)
    | dsimp only
    | split
    | simp only [id_eq]
    | (intro p hp; cases p <;> first | rfl | (exfalso; revert hp; decide))

theorem countFailure_changes (l : LinkId) (c : Fin 9) (cause : Nat) (s : State) :
    Changes [.link] s (countFailure l c cause s) := by
  unfold countFailure
  repeat' first
    | assumption
    | decide
    | with_reducible apply Changes.refl
    | with_reducible apply Changes.after (State.onLink_changes ..)
    | dsimp only
    | split
    | simp only [id_eq]
    | (intro p hp; cases p <;> first | rfl | (exfalso; revert hp; decide))

theorem channelFailure_changes (l : LinkId) (c : Fin 9) (cause : Nat) (s : State) :
    Changes [.alerts, .reach, .barge, .basin, .port, .keeper, .ring, .sys, .eph, .twp, .slu, .link, .spdm, .eye, .col, .chr, .flight, .freeCtr] s (channelFailure l c cause s) := by
  unfold channelFailure
  repeat' first
    | assumption
    | decide
    | with_reducible apply Changes.refl
    | with_reducible apply Changes.after (dropChan_changes ..)
    | with_reducible apply Changes.after (sendClose_changes ..)
    | with_reducible apply Changes.after (countFailure_changes ..)
    | with_reducible apply Changes.after (linkAlert_changes ..)
    | with_reducible apply Changes.after (linkRequests_changes ..)
    | dsimp only
    | split
    | simp only [id_eq]
    | (intro p hp; cases p <;> first | rfl | (exfalso; revert hp; decide))

theorem countWindows_changes (l : LinkId) (n : Nat) (s : State) :
    Changes [.link] s (countWindows l n s) := by
  unfold countWindows
  repeat' first
    | assumption
    | decide
    | with_reducible apply Changes.refl
    | with_reducible apply Changes.after (State.onLink_changes ..)
    | dsimp only
    | split
    | simp only [id_eq]
    | (intro p hp; cases p <;> first | rfl | (exfalso; revert hp; decide))

theorem countMessage_changes (l : LinkId) (m : Bytes) (s : State) :
    Changes [.link] s (countMessage l m s) := by
  unfold countMessage
  repeat' first
    | assumption
    | decide
    | with_reducible apply Changes.refl
    | with_reducible apply Changes.after (countWindows_changes ..)
    | dsimp only
    | split
    | simp only [id_eq]
    | (intro p hp; cases p <;> first | rfl | (exfalso; revert hp; decide))

theorem peerSigned_changes (l : LinkId) (chains : Bytes) (digest : Bytes) (sig : Bytes) (s : State) :
    Changes [.alerts, .mer, .sys, .eph, .ast, .spdm, .chr, .freeCtr] s (peerSigned l chains digest sig s).2 := by
  unfold peerSigned
  repeat' first
    | assumption
    | decide
    | with_reducible apply Changes.refl
    | with_reducible apply Changes.after (hybridVerify_changes ..)
    | dsimp only
    | split
    | simp only [id_eq]
    | (intro p hp; cases p <;> first | rfl | (exfalso; revert hp; decide))

theorem finOk_changes (l : LinkId) (c : Fin 9) (m : Bytes) (s : State) :
    Changes [.alerts, .mer, .sys, .eph, .ast, .spdm, .chr, .freeCtr] s (finOk l c m s).2 := by
  unfold finOk
  repeat' first
    | assumption
    | decide
    | with_reducible apply Changes.refl
    | with_reducible apply Changes.after (peerSigned_changes ..)
    | dsimp only
    | split
    | simp only [id_eq]
    | (intro p hp; cases p <;> first | rfl | (exfalso; revert hp; decide))

theorem openChan_changes (l : LinkId) (c : Fin 9) (s : State) :
    Changes [.link] s (openChan l c s) := by
  unfold openChan
  repeat' first
    | assumption
    | decide
    | with_reducible apply Changes.refl
    | with_reducible apply Changes.after (onChan_changes ..)
    | with_reducible apply Changes.after (State.onLink_changes ..)
    | dsimp only
    | split
    | simp only [id_eq]
    | (intro p hp; cases p <;> first | rfl | (exfalso; revert hp; decide))

theorem writeChanKey_changes (l : LinkId) (c : Fin 9) (recv : Bool) (key : Bytes) (s : State) :
    Changes [.port, .eph, .chr] s (writeChanKey l c recv key s) := by
  unfold writeChanKey
  repeat' first
    | assumption
    | decide
    | with_reducible apply Changes.refl
    | with_reducible apply Changes.after (writeSlot_changes ..)
    | with_reducible apply Changes.after (invalidateSlot_changes ..)
    | dsimp only
    | split
    | simp only [id_eq]
    | (intro p hp; cases p <;> first | rfl | (exfalso; revert hp; decide))

theorem openWithKeys_changes (l : LinkId) (c : Fin 9) (secret : Bytes) (transcript : Bytes) (initiator : Bool) (link : Nat) (ichan : Nat) (rchan : Nat) (s : State) :
    Changes [.port, .eph, .link, .chr] s (openWithKeys l c secret transcript initiator link ichan rchan s) := by
  unfold openWithKeys
  repeat' first
    | assumption
    | decide
    | with_reducible apply Changes.refl
    | with_reducible apply Changes.after (writeChanKey_changes ..)
    | with_reducible apply Changes.after (openChan_changes ..)
    | dsimp only
    | split
    | simp only [id_eq]
    | (intro p hp; cases p <;> first | rfl | (exfalso; revert hp; decide))

theorem initiatorOpens_changes (l : LinkId) (c : Fin 9) (f : OutFrame) (s : State) :
    Changes [.port, .eph, .link, .chr] s (initiatorOpens l c f s) := by
  unfold initiatorOpens
  repeat' first
    | assumption
    | decide
    | with_reducible apply Changes.refl
    | with_reducible apply Changes.after (openChan_changes ..)
    | with_reducible apply Changes.after (openWithKeys_changes ..)
    | dsimp only
    | split
    | simp only [id_eq]
    | (intro p hp; cases p <;> first | rfl | (exfalso; revert hp; decide))

theorem frameSent_changes (l : LinkId) (c : Fin 9) (f : OutFrame) (s : State) :
    Changes [.port, .eph, .link, .chr, .out] s (frameSent l c f s) := by
  unfold frameSent
  repeat' first
    | assumption
    | decide
    | with_reducible apply Changes.refl
    | with_reducible apply Changes.after (sendFrame_changes ..)
    | with_reducible apply Changes.after (chrEvent_changes ..)
    | with_reducible apply Changes.after (onChan_changes ..)
    | with_reducible apply Changes.after (State.onLink_changes ..)
    | with_reducible apply Changes.after (initiatorOpens_changes ..)
    | dsimp only
    | split
    | simp only [id_eq]
    | (intro p hp; cases p <;> first | rfl | (exfalso; revert hp; decide))

theorem gen1Init_changes (l : LinkId) (msg : Bytes) (s : State) :
    Changes [.link, .events] s (gen1Init l msg s) := by
  unfold gen1Init
  repeat' first
    | assumption
    | decide
    | with_reducible apply Changes.refl
    | with_reducible apply Changes.after (openChan_changes ..)
    | with_reducible apply Changes.after (onChan_changes ..)
    | with_reducible apply Changes.after (State.onLink_changes ..)
    | with_reducible apply Changes.after (refuse_changes ..)
    | dsimp only
    | split
    | simp only [id_eq]
    | (intro p hp; cases p <;> first | rfl | (exfalso; revert hp; decide))

theorem idleWindow_changes (l : LinkId) (c : Fin 9) (s : State) :
    Changes [.link, .chr, .out] s (idleWindow l c s) := by
  unfold idleWindow
  repeat' first
    | assumption
    | decide
    | with_reducible apply Changes.refl
    | with_reducible apply Changes.after (chrEvent_changes ..)
    | with_reducible apply Changes.after (sendFrame_changes ..)
    | with_reducible apply Changes.after (emit_changes ..)
    | dsimp only
    | split
    | simp only [id_eq]
    | (intro p hp; cases p <;> first | rfl | (exfalso; revert hp; decide))

theorem nextChanKey_changes (l : LinkId) (c : Fin 9) (recv : Bool) (ctr : Nat) (s : State) :
    Changes [.port, .eph, .link, .chr] s (nextChanKey l c recv ctr s) := by
  unfold nextChanKey
  repeat' first
    | assumption
    | decide
    | with_reducible apply Changes.refl
    | with_reducible apply Changes.after (onChan_changes ..)
    | with_reducible apply Changes.after (writeChanKey_changes ..)
    | dsimp only
    | split
    | simp only [id_eq]
    | (intro p hp; cases p <;> first | rfl | (exfalso; revert hp; decide))

theorem takeCredit_changes (l : LinkId) (c : Fin 9) (n : Nat) (s : State) :
    Changes [.link] s (takeCredit l c n s) := by
  unfold takeCredit
  repeat' first
    | assumption
    | decide
    | with_reducible apply Changes.refl
    | with_reducible apply Changes.after (onChan_changes ..)
    | dsimp only
    | split
    | simp only [id_eq]
    | (intro p hp; cases p <;> first | rfl | (exfalso; revert hp; decide))

theorem sendKeyOk_changes (l : LinkId) (c : Fin 9) (recv : Bool) (s : State) :
    Changes [.alerts, .sys, .eph] s (sendKeyOk l c recv s).2 := by
  unfold sendKeyOk
  repeat' first
    | assumption
    | decide
    | with_reducible apply Changes.refl
    | with_reducible apply Changes.after (useKey_changes ..)
    | dsimp only
    | split
    | simp only [id_eq]
    | (intro p hp; cases p <;> first | rfl | (exfalso; revert hp; decide))

theorem respOk_changes (l : LinkId) (c : Fin 9) (m : Bytes) (s : State) : Changes [.alerts, .mer, .sys, .eph, .ast, .spdm, .chr, .freeCtr] s (respOk l c m s).2 := by
  have h : ∀ (k : Chan) (p : Bool × State), Changes [.alerts, .mer, .sys, .eph, .ast, .spdm, .chr, .freeCtr] s p.2 →
      Changes [.alerts, .mer, .sys, .eph, .ast, .spdm, .chr, .freeCtr] s (p.1 && respFormed s c k.share m, p.2).2 := fun _ _ h => h
  exact h s.link[l].chan[c] (peerSigned l (respChains m) (sha384 (s.link[l].chan[c].msgInit ++ respSigned m)) (respSig m) s) (peerSigned_changes _ _ _ _ _)

theorem sendClosing_changes (l : LinkId) (c : Fin 9) (s : State) :
    Changes [.link, .chr, .out] s (sendClosing l c s) := by
  unfold sendClosing
  repeat' first
    | assumption
    | decide
    | with_reducible apply Changes.refl
    | with_reducible apply Changes.after (emit_changes ..)
    | with_reducible apply Changes.after (chrEvent_changes ..)
    | with_reducible apply Changes.after (onChan_changes ..)
    | dsimp only
    | split
    | simp only [id_eq]
    | (intro p hp; cases p <;> first | rfl | (exfalso; revert hp; decide))

theorem sendFin_changes (l : LinkId) (c : Fin 9) (m : Bytes) (s : State) :
    Changes [.alerts, .mer, .sys, .eph, .ast, .link, .spdm, .chr, .freeCtr, .events] s (sendFin l c m s) := by
  unfold sendFin
  repeat' first
    | assumption
    | decide
    | with_reducible apply Changes.refl
    | with_reducible apply Changes.after (hybridSign_changes ..)
    | with_reducible apply Changes.after (refuse_changes ..)
    | with_reducible apply Changes.after (queueFrames_changes ..)
    | with_reducible apply Changes.after (onChan_changes ..)
    | dsimp only
    | split
    | simp only [id_eq]
    | (intro p hp; cases p <;> first | rfl | (exfalso; revert hp; decide))

theorem sendHead_changes (l : LinkId) (c : Fin 9) (f : OutFrame) (s : State) :
    Changes [.alerts, .port, .sys, .eph, .link, .chr, .freeCtr, .out] s (sendHead l c f s) := by
  unfold sendHead
  repeat' first
    | assumption
    | decide
    | with_reducible apply Changes.refl
    | with_reducible apply Changes.after (onChan_changes ..)
    | with_reducible apply Changes.after (idleWindow_changes ..)
    | with_reducible apply Changes.after (sendKeyOk_changes ..)
    | with_reducible apply Changes.after (nextChanKey_changes ..)
    | with_reducible apply Changes.after (frameSent_changes ..)
    | with_reducible apply Changes.after (beginHandshake_changes ..)
    | with_reducible apply Changes.after (sendClosing_changes ..)
    | with_reducible apply Changes.after (sendClose_changes ..)
    | dsimp only
    | split
    | simp only [id_eq]
    | (intro p hp; cases p <;> first | rfl | (exfalso; revert hp; decide))

theorem sendResp_changes (l : LinkId) (c : Fin 9) (m : Bytes) (s : State) :
    Changes [.alerts, .mer, .sys, .eph, .ast, .link, .spdm, .chr, .freeCtr, .events] s (sendResp l c m s) := by
  unfold sendResp
  repeat' first
    | assumption
    | decide
    | with_reducible apply Changes.refl
    | with_reducible apply Changes.after (draw_changes ..)
    | with_reducible apply Changes.after (hybridSign_changes ..)
    | with_reducible apply Changes.after (refuse_changes ..)
    | with_reducible apply Changes.after (queueFrames_changes ..)
    | with_reducible apply Changes.after (onChan_changes ..)
    | dsimp only
    | split
    | simp only [id_eq]
    | (intro p hp; cases p <;> first | rfl | (exfalso; revert hp; decide))

theorem takeClose_changes (l : LinkId) (c : Fin 9) (s : State) :
    Changes [.reach, .barge, .basin, .port, .keeper, .ring, .sys, .eph, .twp, .slu, .link, .spdm, .eye, .col, .chr, .flight, .freeCtr] s (takeClose l c s) := by
  unfold takeClose
  repeat' first
    | assumption
    | decide
    | with_reducible apply Changes.refl
    | with_reducible apply Changes.after (linkRequests_changes ..)
    | with_reducible apply Changes.after (closeChan_changes ..)
    | with_reducible apply Changes.after (beginHandshake_changes ..)
    | with_reducible apply Changes.after (countFailure_changes ..)
    | dsimp only
    | split
    | with_reducible apply Changes.set_freeCtr
    | simp only [id_eq]
    | (intro p hp; cases p <;> first | rfl | (exfalso; revert hp; decide))

theorem takeContent_changes (l : LinkId) (win : Bytes) (d : Bytes) (s : State) :
    Changes [.alerts, .mer, .sys, .eph, .ast, .stc, .twp, .link, .spdm, .chr, .freeCtr, .events] s (takeContent l win d s) := by
  unfold takeContent
  repeat' first
    | assumption
    | decide
    | with_reducible apply Changes.refl
    | with_reducible apply Changes.after (relayAck_changes ..)
    | with_reducible apply Changes.after (refuse_changes ..)
    | with_reducible apply Changes.after (abortStream_changes ..)
    | with_reducible apply Changes.after (streamPiece_changes ..)
    | dsimp only
    | split
    | simp only [id_eq]
    | (intro p hp; cases p <;> first | rfl | (exfalso; revert hp; decide))

theorem takeData_changes (l : LinkId) (win : Bytes) (c : Fin 9) (d : Bytes) (s : State) :
    Changes [.basin, .link] s (takeData l win c d s) := by
  unfold takeData
  repeat' first
    | assumption
    | decide
    | with_reducible apply Changes.refl
    | with_reducible apply Changes.after (sharePut_changes ..)
    | with_reducible apply Changes.after (State.onLink_changes ..)
    | dsimp only
    | split
    | simp only [id_eq]
    | (intro p hp; cases p <;> first | rfl | (exfalso; revert hp; decide))

theorem takeInit_changes (l : LinkId) (m : Bytes) (s : State) :
    Changes [.alerts, .mer, .sys, .eph, .ast, .link, .spdm, .chr, .freeCtr, .events] s (takeInit l m s) := by
  unfold takeInit
  repeat' first
    | assumption
    | decide
    | with_reducible apply Changes.refl
    | with_reducible apply Changes.after (gen1Init_changes ..)
    | with_reducible apply Changes.after (refuse_changes ..)
    | with_reducible apply Changes.after (sendResp_changes ..)
    | with_reducible apply Changes.after (handshakeFailure_changes ..)
    | dsimp only
    | split
    | simp only [id_eq]
    | (intro p hp; cases p <;> first | rfl | (exfalso; revert hp; decide))

theorem takeXack_changes (l : LinkId) (win : Bytes) (c : Fin 9) (s : State) :
    Changes [.alerts, .reach, .barge, .basin, .port, .keeper, .ring, .sys, .eph, .twp, .slu, .link, .spdm, .eye, .col, .chr, .flight, .freeCtr] s (takeXack l win c s) := by
  unfold takeXack
  repeat' first
    | assumption
    | decide
    | with_reducible apply Changes.refl
    | with_reducible apply Changes.after (pumpExchange_changes ..)
    | with_reducible apply Changes.after (onChan_changes ..)
    | dsimp only
    | split
    | simp only [id_eq]
    | (intro p hp; cases p <;> first | rfl | (exfalso; revert hp; decide))

/-! ### Astrolabe -/

theorem astArg_changes (seedSrc : Bool) (label : Nat) (slot : SlotId) (s : State) :
    Changes [.ast] s (astArg seedSrc label slot s) := by
  unfold astArg
  repeat' first
    | assumption
    | decide
    | with_reducible apply Changes.refl
    | with_reducible apply Changes.after (State.onAst_changes ..)
    | dsimp only
    | split
    | simp only [id_eq]
    | (intro p hp; cases p <;> first | rfl | (exfalso; revert hp; decide))

theorem astRefuse_changes (what : String) (st : Nat) (s : State) :
    Changes [.ast, .events] s (astRefuse what st s) := by
  unfold astRefuse
  repeat' first
    | assumption
    | decide
    | with_reducible apply Changes.refl
    | with_reducible apply Changes.after (refuse_changes ..)
    | with_reducible apply Changes.after (State.onAst_changes ..)
    | dsimp only
    | split
    | simp only [id_eq]
    | (intro p hp; cases p <;> first | rfl | (exfalso; revert hp; decide))

theorem astCmd_changes (op : Nat) (owner : Nat) (keyline : Nat) (s : State) :
    Changes [.alerts, .sys, .eph, .ast, .spdm, .chr, .freeCtr, .events] s (astCmd op owner keyline s) := by
  unfold astCmd
  repeat' first
    | assumption
    | decide
    | with_reducible apply Changes.refl
    | with_reducible apply Changes.after (refuse_changes ..)
    | with_reducible apply Changes.after (astRefuse_changes ..)
    | with_reducible apply Changes.after (astAbort_changes ..)
    | with_reducible apply Changes.after (astBegin_changes ..)
    | dsimp only
    | split
    | simp only [id_eq]
    | (intro p hp; cases p <;> first | rfl | (exfalso; revert hp; decide))

theorem dmaRegs_changes (a : Nat) (dirOut : Bool) (bootStream : Bool) (line : Nat) (count : Nat) (owner : Nat) (s : State) :
    Changes [.ast] s (dmaRegs a dirOut bootStream line count owner s) := by
  unfold dmaRegs
  repeat' first
    | assumption
    | decide
    | with_reducible apply Changes.refl
    | with_reducible apply Changes.after (State.onAst_changes ..)
    | dsimp only
    | split
    | simp only [id_eq]
    | (intro p hp; cases p <;> first | rfl | (exfalso; revert hp; decide))

/-! ### BargeLife -/

theorem clearShare_changes (n : ReachId) (s : State) :
    Changes [.basin, .port, .chr] s (clearShare n s) := by
  unfold clearShare
  repeat' first
    | assumption
    | decide
    | with_reducible apply Changes.refl
    | with_reducible apply Changes.after (clearUnit_changes ..)
    | with_reducible apply Changes.after (discardPorts_changes ..)
    | with_reducible apply Changes.after (forAll_changes (fun _ _ => ?_) _ _) (fun _ h => h)
    | dsimp only
    | split
    | simp only [id_eq]
    | (intro p hp; cases p <;> first | rfl | (exfalso; revert hp; decide))

theorem copyCounters_changes (b : BargeId) (d : BargeId) (s : State) :
    Changes [.chr] s (copyCounters b d s) := by
  unfold copyCounters
  repeat' first
    | assumption
    | decide
    | with_reducible apply Changes.refl
    | with_reducible apply Changes.after (onUnit_changes ..)
    | dsimp only
    | split
    | simp only [id_eq]
    | (intro p hp; cases p <;> first | rfl | (exfalso; revert hp; decide))

theorem migrate_changes (b : BargeId) (d : BargeId) (s : State) :
    Changes [.isl, .barge, .port, .keeper, .slu, .eye, .col, .chr, .flight, .freeCtr, .out] s (migrate b d s) := by
  unfold migrate
  repeat' first
    | assumption
    | decide
    | with_reducible apply Changes.refl
    | with_reducible apply Changes.after (copyCounters_changes ..)
    | with_reducible apply Changes.after (State.onBarge_changes ..)
    | with_reducible apply Changes.after (beginTest_changes ..)
    | with_reducible apply Changes.after (State.onCol_changes ..)
    | with_reducible apply Changes.after (resumeBarge_changes ..)
    | with_reducible apply Changes.after (State.onKeeper_changes ..)
    | dsimp only
    | split
    | simp only [id_eq]
    | (intro p hp; cases p <;> first | rfl | (exfalso; revert hp; decide))

theorem restageReach_changes (n : ReachId) (s : State) :
    Changes [.reach, .barge, .basin, .port, .keeper, .ring, .sys, .eph, .twp, .slu, .link, .spdm, .eye, .col, .chr, .flight, .freeCtr] s (restageReach n s) := by
  unfold restageReach
  repeat' first
    | assumption
    | decide
    | with_reducible apply Changes.refl
    | with_reducible apply Changes.after (endStep_changes ..)
    | with_reducible apply Changes.after (dropInputRequests_changes ..)
    | with_reducible apply Changes.after (State.onKeeper_changes ..)
    | with_reducible apply Changes.after (endReqs_changes ..)
    | with_reducible apply Changes.after (checkDrained_changes ..)
    | with_reducible apply Changes.after (State.onReach_changes ..)
    | dsimp only
    | split
    | simp only [id_eq]
    | (intro p hp; cases p <;> first | rfl | (exfalso; revert hp; decide))

theorem startMigration_changes (b : BargeId) (d : BargeId) (s : State) :
    Changes [.isl, .barge, .keeper, .slu, .chr, .flight, .out] s (startMigration b d s) := by
  unfold startMigration
  repeat' first
    | assumption
    | decide
    | with_reducible apply Changes.refl
    | with_reducible apply Changes.after (State.onBarge_changes ..)
    | with_reducible apply Changes.after (clockBarge_changes ..)
    | dsimp only
    | split
    | simp only [id_eq]
    | (intro p hp; cases p <;> first | rfl | (exfalso; revert hp; decide))

/-! ### Boot -/

theorem afterAlmanac_changes (s : State) :
    Changes [.alerts, .mer, .meas, .sys, .eph, .ast, .stc, .twp, .spdm, .eye, .chr, .freeCtr] s (afterAlmanac s) := by
  unfold afterAlmanac
  repeat' first
    | assumption
    | decide
    | with_reducible apply Changes.refl
    | with_reducible apply Changes.after (State.onMer_changes ..)
    | with_reducible apply Changes.after (State.onEye_changes ..)
    | with_reducible apply Changes.after (selectSlot_changes ..)
    | dsimp only
    | split
    | simp only [id_eq]
    | (intro p hp; cases p <;> first | rfl | (exfalso; revert hp; decide))

theorem confirmRail_changes (r : Fin 6) (s : State) :
    Changes [.slu, .out] s (confirmRail r s) := by
  unfold confirmRail
  repeat' first
    | assumption
    | decide
    | with_reducible apply Changes.refl
    | with_reducible apply Changes.after (emit_changes ..)
    | with_reducible apply Changes.after (State.onSlu_changes ..)
    | dsimp only
    | split
    | simp only [id_eq]
    | (intro p hp; cases p <;> first | rfl | (exfalso; revert hp; decide))

theorem trialCommit_changes (s : State) :
    Changes [.stc] s (trialCommit s) := by
  unfold trialCommit
  repeat' first
    | assumption
    | decide
    | with_reducible apply Changes.refl
    | with_reducible apply Changes.after (State.onStc_changes ..)
    | with_reducible apply Changes.after (writeCtl_changes ..)
    | dsimp only
    | split
    | simp only [id_eq]
    | (intro p hp; cases p <;> first | rfl | (exfalso; revert hp; decide))

/-! ### Chronograph -/

theorem upset_changes (u : Upset) (s : State) :
    Changes [.barge, .basin, .ast, .stc] s (upset u s) := by
  unfold upset
  repeat' first
    | assumption
    | decide
    | with_reducible apply Changes.refl
    | with_reducible apply Changes.after (State.onBarge_changes ..)
    | with_reducible apply Changes.after (State.onBasin_changes ..)
    | with_reducible apply Changes.after (State.onAst_changes ..)
    | with_reducible apply Changes.after (State.onStc_changes ..)
    | dsimp only
    | split
    | simp only [id_eq]
    | (intro p hp; cases p <;> first | rfl | (exfalso; revert hp; decide))

theorem writeSnapSel_changes (mid : Nat) (m : Fin 4) (data : Word) (s : State) :
    Changes [.sys, .chr] s (writeSnapSel mid m data s) := by
  unfold writeSnapSel
  repeat' first
    | assumption
    | decide
    | with_reducible apply Changes.refl
    | with_reducible apply Changes.after (audit_changes ..)
    | dsimp only
    | split
    | with_reducible apply Changes.set_chr
    | simp only [id_eq]
    | (intro p hp; cases p <;> first | rfl | (exfalso; revert hp; decide))

theorem writeChrCfg_changes (mid : Nat) (u : Fin 71) (k : Fin 8) (data : Word) (s : State) :
    Changes [.sys, .chr, .freeCtr] s (writeChrCfg mid u k data s) := by
  unfold writeChrCfg
  repeat' first
    | assumption
    | decide
    | with_reducible apply Changes.refl
    | with_reducible apply Changes.after (onUnit_changes ..)
    | with_reducible apply Changes.after (audit_changes ..)
    | dsimp only
    | split
    | with_reducible apply Changes.set_freeCtr
    | simp only [id_eq]
    | (intro p hp; cases p <;> first | rfl | (exfalso; revert hp; decide))

/-! ### Collimator -/

theorem fullPass_changes (b : BargeId) (s : State) :
    Changes [.isl, .barge, .spareClock, .port, .keeper, .slu, .eye, .col, .chr, .flight, .freeCtr, .out] s (fullPass b s) := by
  unfold fullPass
  repeat' first
    | assumption
    | decide
    | with_reducible apply Changes.refl
    | with_reducible apply Changes.after (State.onCol_changes ..)
    | with_reducible apply Changes.after (endTest_changes ..)
    | with_reducible apply Changes.after (becomeSpare_changes ..)
    | with_reducible apply Changes.after (clearBarge_changes ..)
    | with_reducible apply Changes.after (startBargeDredge_changes ..)
    | with_reducible apply Changes.after (refill_changes ..)
    | dsimp only
    | split
    | simp only [id_eq]
    | (intro p hp; cases p <;> first | rfl | (exfalso; revert hp; decide))

theorem marchSave_changes (i : Fin 64) (slice : Nat) (s : State) :
    Changes [.alerts, .reach, .barge, .basin, .port, .keeper, .ring, .sys, .eph, .twp, .slu, .link, .spdm, .eye, .col, .chr, .flight, .freeCtr] s (marchSave i slice s) := by
  unfold marchSave
  repeat' first
    | assumption
    | decide
    | with_reducible apply Changes.refl
    | with_reducible apply Changes.after (basinError_changes ..)
    | with_reducible apply Changes.after (countCorrected_changes ..)
    | with_reducible apply Changes.after (State.onBasin_changes ..)
    | with_reducible apply Changes.after (forAll_changes (fun _ _ => ?_) _ _) (fun _ h => h)
    | dsimp only
    | split
    | simp only [id_eq]
    | (intro p hp; cases p <;> first | rfl | (exfalso; revert hp; decide))

theorem islandFailed_changes (i : Fin 64) (s : State) :
    Changes [.alerts, .reach, .barge, .basin, .port, .keeper, .ring, .sys, .eph, .twp, .slu, .link, .spdm, .eye, .col, .chr, .flight, .freeCtr] s (islandFailed i s) := by
  unfold islandFailed
  repeat' first
    | assumption
    | decide
    | with_reducible apply Changes.refl
    | with_reducible apply Changes.after (State.onCol_changes ..)
    | with_reducible apply Changes.after (alert_changes ..)
    | with_reducible apply Changes.after (marchSave_changes ..)
    | dsimp only
    | split
    | simp only [id_eq]
    | (intro p hp; cases p <;> first | rfl | (exfalso; revert hp; decide))

theorem islandPassed_changes (i : Fin 64) (s : State) :
    Changes [.col] s (islandPassed i s) := by
  unfold islandPassed
  repeat' first
    | assumption
    | decide
    | with_reducible apply Changes.refl
    | with_reducible apply Changes.after (State.onCol_changes ..)
    | dsimp only
    | split
    | simp only [id_eq]
    | (intro p hp; cases p <;> first | rfl | (exfalso; revert hp; decide))

theorem sliceFailed_changes (b : BargeId) (s : State) :
    Changes [.alerts, .isl, .mer, .reach, .barge, .spareClock, .basin, .port, .twPkg, .keeper, .ring, .sys, .eph, .twp, .slu, .link, .spdm, .eye, .col, .chr, .flight, .freeCtr, .out] s (sliceFailed b s) := by
  unfold sliceFailed
  repeat' first
    | assumption
    | decide
    | with_reducible apply Changes.refl
    | with_reducible apply Changes.after (State.onCol_changes ..)
    | with_reducible apply Changes.after (bargeLost_changes ..)
    | dsimp only
    | split
    | simp only [id_eq]
    | (intro p hp; cases p <;> first | rfl | (exfalso; revert hp; decide))

theorem slicePassed_changes (b : BargeId) (s : State) :
    Changes [.isl, .barge, .spareClock, .port, .keeper, .slu, .eye, .col, .chr, .flight, .freeCtr, .out] s (slicePassed b s) := by
  unfold slicePassed
  repeat' first
    | assumption
    | decide
    | with_reducible apply Changes.refl
    | with_reducible apply Changes.after (refill_changes ..)
    | with_reducible apply Changes.after (clearBarge_changes ..)
    | with_reducible apply Changes.after (endTest_changes ..)
    | with_reducible apply Changes.after (State.onCol_changes ..)
    | with_reducible apply Changes.after (fullPass_changes ..)
    | dsimp only
    | split
    | simp only [id_eq]
    | (intro p hp; cases p <;> first | rfl | (exfalso; revert hp; decide))

/-! ### Rings -/

theorem rejectDesc_changes (what : String) (r : SvcId) (q : Fin 2) (tag : Nat) (status : Nat) (reply : Bool) (s : State) :
    Changes [.ring, .sys, .events] s (rejectDesc what r q tag status reply s) := by
  unfold rejectDesc
  repeat' first
    | assumption
    | decide
    | with_reducible apply Changes.refl
    | with_reducible apply Changes.after (postGroup_changes ..)
    | with_reducible apply Changes.after (refuse_changes ..)
    | dsimp only
    | split
    | simp only [id_eq]
    | (intro p hp; cases p <;> first | rfl | (exfalso; revert hp; decide))

theorem acceptSubmit_changes (r : SvcId) (q : Fin 2) (gen2 : Bool) (x : Req) (s : State) :
    Changes [.isl, .barge, .basin, .keeper, .ring, .sys, .slu, .chr, .flight, .out, .events] s (acceptSubmit r q gen2 x s) := by
  unfold acceptSubmit
  repeat' first
    | assumption
    | decide
    | with_reducible apply Changes.refl
    | with_reducible apply Changes.after (rejectDesc_changes ..)
    | with_reducible apply Changes.after (State.onKeeper_changes ..)
    | with_reducible apply Changes.after (syncContexts_changes ..)
    | with_reducible apply Changes.after (wakeReach_changes ..)
    | with_reducible apply Changes.after (cancelAll_changes ..)
    | dsimp only
    | split
    | simp only [id_eq]
    | (intro p hp; cases p <;> first | rfl | (exfalso; revert hp; decide))

theorem dropFetch_changes (r : SvcId) (q : Fin 2) (s : State) :
    Changes [.sys] s (dropFetch r q s) := by
  unfold dropFetch
  repeat' first
    | assumption
    | decide
    | with_reducible apply Changes.refl
    | with_reducible apply Changes.after (dropTransfer_changes ..)
    | dsimp only
    | split
    | simp only [id_eq]
    | (intro p hp; cases p <;> first | rfl | (exfalso; revert hp; decide))

theorem freeContext_changes (r : SvcId) (ctx : Nat) (tag : Nat) (s : State) :
    Changes [.keeper] s (freeContext r ctx tag s) := by
  unfold freeContext
  repeat' first
    | assumption
    | decide
    | with_reducible apply Changes.refl
    | with_reducible apply Changes.after (State.onKeeper_changes ..)
    | dsimp only
    | split
    | simp only [id_eq]
    | (intro p hp; cases p <;> first | rfl | (exfalso; revert hp; decide))

theorem pumpSqs_changes (r : SvcId) (s : State) :
    Changes [.ring, .sys] s (pumpSqs r s) := by
  unfold pumpSqs
  repeat' first
    | assumption
    | decide
    | with_reducible apply Changes.refl
    | with_reducible apply Changes.after (pumpSq_changes ..)
    | dsimp only
    | split
    | simp only [id_eq]
    | (intro p hp; cases p <;> first | rfl | (exfalso; revert hp; decide))

theorem ringAudit_changes (r : SvcId) (off : Nat) (lsb : Nat) (width : Nat) (written : Nat) (applied : Nat) (rule : Nat) (mid : Nat) (s : State) :
    Changes [.sys] s (ringAudit r off lsb width written applied rule mid s) := by
  unfold ringAudit
  repeat' first
    | assumption
    | decide
    | with_reducible apply Changes.refl
    | with_reducible apply Changes.after (audit_changes ..)
    | dsimp only
    | split
    | simp only [id_eq]
    | (intro p hp; cases p <;> first | rfl | (exfalso; revert hp; decide))

theorem sizeAudit_changes (r : SvcId) (sel : RingSel) (locked : Bool) (d : Nat) (mid : Nat) (s : State) :
    Changes [.sys] s (sizeAudit r sel locked d mid s) := by
  unfold sizeAudit
  repeat' first
    | assumption
    | decide
    | with_reducible apply Changes.refl
    | with_reducible apply Changes.after (ringAudit_changes ..)
    | dsimp only
    | split
    | simp only [id_eq]
    | (intro p hp; cases p <;> first | rfl | (exfalso; revert hp; decide))

theorem takeDesc_changes (r : SvcId) (q : Fin 2) (kc : Nat) (s : State) :
    Changes [.keeper, .ring, .sys, .chr] s (takeDesc r q kc s) := by
  unfold takeDesc
  repeat' first
    | assumption
    | decide
    | with_reducible apply Changes.refl
    | with_reducible apply Changes.after (State.onRing_changes ..)
    | with_reducible apply Changes.after (pumpSq_changes ..)
    | with_reducible apply Changes.after (tick_changes ..)
    | with_reducible apply Changes.after (State.onKeeper_changes ..)
    | with_reducible apply Changes.after (chrEvent_changes ..)
    | dsimp only
    | split
    | simp only [id_eq]
    | (intro p hp; cases p <;> first | rfl | (exfalso; revert hp; decide))

theorem writeCqHead_changes (r : SvcId) (mid : Nat) (data : Word) (s : State) :
    Changes [.ring, .sys] s (writeCqHead r mid data s) := by
  unfold writeCqHead
  repeat' first
    | assumption
    | decide
    | with_reducible apply Changes.refl
    | with_reducible apply Changes.after (ringAudit_changes ..)
    | with_reducible apply Changes.after (pumpCq_changes ..)
    | with_reducible apply Changes.after (State.onRing_changes ..)
    | dsimp only
    | split
    | simp only [id_eq]
    | (intro p hp; cases p <;> first | rfl | (exfalso; revert hp; decide))

theorem writeDoorbell_changes (r : SvcId) (q : Fin 2) (mid : Nat) (data : Word) (s : State) :
    Changes [.ring, .sys] s (writeDoorbell r q mid data s) := by
  unfold writeDoorbell
  repeat' first
    | assumption
    | decide
    | with_reducible apply Changes.refl
    | with_reducible apply Changes.after (ringAudit_changes ..)
    | with_reducible apply Changes.after (pumpSq_changes ..)
    | with_reducible apply Changes.after (State.onRing_changes ..)
    | dsimp only
    | split
    | simp only [id_eq]
    | (intro p hp; cases p <;> first | rfl | (exfalso; revert hp; decide))

theorem writeCqCtl_changes (r : SvcId) (mid : Nat) (data : Word) (s : State) :
    Changes [.ring, .sys] s (writeCqCtl r mid data s) := by
  unfold writeCqCtl
  repeat' first
    | assumption
    | decide
    | with_reducible apply Changes.refl
    | with_reducible apply Changes.after (sizeAudit_changes ..)
    | with_reducible apply Changes.after (State.onRing_changes ..)
    | with_reducible apply Changes.after (pumpSqs_changes ..)
    | with_reducible apply Changes.after (pumpCq_changes ..)
    | with_reducible apply Changes.after (ringAudit_changes ..)
    | with_reducible apply Changes.after (holdFetches_changes ..)
    | dsimp only
    | split
    | simp only [id_eq]
    | (intro p hp; cases p <;> first | rfl | (exfalso; revert hp; decide))

theorem writeSqCtl_changes (r : SvcId) (q : Fin 2) (mid : Nat) (data : Word) (s : State) :
    Changes [.ring, .sys] s (writeSqCtl r q mid data s) := by
  unfold writeSqCtl
  repeat' first
    | assumption
    | decide
    | with_reducible apply Changes.refl
    | with_reducible apply Changes.after (sizeAudit_changes ..)
    | with_reducible apply Changes.after (State.onRing_changes ..)
    | with_reducible apply Changes.after (pumpSq_changes ..)
    | with_reducible apply Changes.after (ringAudit_changes ..)
    | with_reducible apply Changes.after (dropFetch_changes ..)
    | dsimp only
    | split
    | simp only [id_eq]
    | (intro p hp; cases p <;> first | rfl | (exfalso; revert hp; decide))

theorem writeRingCtl_changes (r : SvcId) (sel : RingSel) (mid : Nat) (data : Word) (s : State) :
    Changes [.isl, .mer, .barge, .spareClock, .basin, .port, .twPkg, .keeper, .ring, .sys, .eph, .slu, .eye, .col, .chr, .flight, .freeCtr, .out] s (writeRingCtl r sel mid data s) := by
  unfold writeRingCtl
  repeat' first
    | assumption
    | decide
    | with_reducible apply Changes.refl
    | with_reducible apply Changes.after (writeSqCtl_changes ..)
    | with_reducible apply Changes.after (settleTwilight_changes ..)
    | with_reducible apply Changes.after (writeCqCtl_changes ..)
    | dsimp only
    | split
    | simp only [id_eq]
    | (intro p hp; cases p <;> first | rfl | (exfalso; revert hp; decide))

theorem writeRingBase_changes (r : SvcId) (sel : RingSel) (hi : Bool) (data : Word) (s : State) :
    Changes [.ring] s (writeRingBase r sel hi data s) := by
  unfold writeRingBase
  repeat' first
    | assumption
    | decide
    | with_reducible apply Changes.refl
    | with_reducible apply Changes.after (State.onRing_changes ..)
    | dsimp only
    | split
    | simp only [id_eq]
    | (intro p hp; cases p <;> first | rfl | (exfalso; revert hp; decide))

/-! ### RegOps -/

theorem setHalt_changes (t : Nat) (on : Bool) (s : State) :
    Changes [.mer, .keeper] s (setHalt t on s) := by
  unfold setHalt
  repeat' first
    | assumption
    | decide
    | with_reducible apply Changes.refl
    | with_reducible apply Changes.after (State.onMer_changes ..)
    | with_reducible apply Changes.after (State.onKeeper_changes ..)
    | dsimp only
    | split
    | simp only [id_eq]
    | (intro p hp; cases p <;> first | rfl | (exfalso; revert hp; decide))

theorem setErr_changes (refused : Bool) (s : State) :
    Changes [.eye] s (setErr refused s) := by
  unfold setErr
  repeat' first
    | assumption
    | decide
    | with_reducible apply Changes.refl
    | with_reducible apply Changes.after (State.onEye_changes ..)
    | dsimp only
    | split
    | simp only [id_eq]
    | (intro p hp; cases p <;> first | rfl | (exfalso; revert hp; decide))

theorem encodingAudit_changes (offset : Nat) (lsb : Nat) (width : Nat) (written : Nat) (applied : Nat) (mid : Nat) (s : State) :
    Changes [.sys] s (encodingAudit offset lsb width written applied mid s) := by
  unfold encodingAudit
  repeat' first
    | assumption
    | decide
    | with_reducible apply Changes.refl
    | with_reducible apply Changes.after (audit_changes ..)
    | dsimp only
    | split
    | simp only [id_eq]
    | (intro p hp; cases p <;> first | rfl | (exfalso; revert hp; decide))

theorem coreCtl_changes (mid : Nat) (t : Nat) (halt : Bool) (step : Bool) (s : State) :
    Changes [.mer, .keeper, .sys, .eye] s (coreCtl mid t halt step s).2 := by
  unfold coreCtl
  repeat' first
    | assumption
    | decide
    | with_reducible apply Changes.refl
    | with_reducible apply Changes.after (State.onEye_changes ..)
    | with_reducible apply Changes.after (encodingAudit_changes ..)
    | with_reducible apply Changes.after (setErr_changes ..)
    | with_reducible apply Changes.after (setHalt_changes ..)
    | dsimp only
    | split
    | simp only [id_eq]
    | (intro p hp; cases p <;> first | rfl | (exfalso; revert hp; decide))

theorem eyeMemRead_changes (s : State) :
    Changes [.alerts, .isl, .mer, .reach, .barge, .spareClock, .basin, .port, .twPkg, .keeper, .ring, .sys, .eph, .twp, .slu, .link, .spdm, .eye, .col, .chr, .flight, .freeCtr, .out] s (eyeMemRead s).2 := by
  unfold eyeMemRead
  repeat' first
    | assumption
    | decide
    | with_reducible apply Changes.refl
    | with_reducible apply Changes.after (readSpad_changes ..)
    | with_reducible apply Changes.after (readShare_changes ..)
    | dsimp only
    | split
    | simp only [id_eq]
    | (intro p hp; cases p <;> first | rfl | (exfalso; revert hp; decide))

theorem eyeMemWrite_changes (data : Word) (s : State) :
    Changes [.alerts, .isl, .mer, .reach, .barge, .spareClock, .basin, .port, .twPkg, .keeper, .ring, .sys, .eph, .twp, .slu, .link, .spdm, .eye, .col, .chr, .flight, .freeCtr, .out] s (eyeMemWrite data s).2 := by
  unfold eyeMemWrite
  repeat' first
    | assumption
    | decide
    | with_reducible apply Changes.refl
    | with_reducible apply Changes.after (eyeMemRead_changes ..)
    | with_reducible apply Changes.after (State.onBarge_changes ..)
    | with_reducible apply Changes.after (sharePut_changes ..)
    | with_reducible apply Changes.after (State.onKeeper_changes ..)
    | dsimp only
    | split
    | simp only [id_eq]
    | (intro p hp; cases p <;> first | rfl | (exfalso; revert hp; decide))

theorem eyeMemAccess_changes (write : Bool) (data : Word) (s : State) :
    Changes [.alerts, .isl, .mer, .reach, .barge, .spareClock, .basin, .port, .twPkg, .keeper, .ring, .sys, .eph, .twp, .slu, .link, .spdm, .eye, .col, .chr, .flight, .freeCtr, .out] s (eyeMemAccess write data s).2.2 := by
  unfold eyeMemAccess
  repeat' first
    | assumption
    | decide
    | with_reducible apply Changes.refl
    | with_reducible apply Changes.after (eyeMemWrite_changes ..)
    | with_reducible apply Changes.after (eyeMemRead_changes ..)
    | with_reducible apply Changes.after (setErr_changes ..)
    | with_reducible apply Changes.after (State.onEye_changes ..)
    | dsimp only
    | split
    | simp only [id_eq]
    | (intro p hp; cases p <;> first | rfl | (exfalso; revert hp; decide))

theorem writeXchgArea_changes (l : LinkId) (r : Fin 8) (rx : Bool) (data : Word) (s : State) :
    Changes [.link] s (writeXchgArea l r rx data s) := by
  unfold writeXchgArea
  repeat' first
    | assumption
    | decide
    | with_reducible apply Changes.refl
    | with_reducible apply Changes.after (State.onLink_changes ..)
    | dsimp only
    | split
    | simp only [id_eq]
    | (intro p hp; cases p <;> first | rfl | (exfalso; revert hp; decide))

theorem writeXchgCtl_changes (l : LinkId) (r : Fin 8) (mid : Nat) (data : Word) (s : State) :
    Changes [.sys, .link] s (writeXchgCtl l r mid data s) := by
  unfold writeXchgCtl
  repeat' first
    | assumption
    | decide
    | with_reducible apply Changes.refl
    | with_reducible apply Changes.after (audit_changes ..)
    | with_reducible apply Changes.after (State.onLink_changes ..)
    | dsimp only
    | split
    | simp only [id_eq]
    | (intro p hp; cases p <;> first | rfl | (exfalso; revert hp; decide))

theorem writeHrg_changes (r : SvcId) (o : Nat) (mid : Nat) (data : Word) (s : State) :
    Changes [.isl, .mer, .barge, .spareClock, .basin, .port, .twPkg, .keeper, .ring, .sys, .eph, .slu, .eye, .col, .chr, .flight, .freeCtr, .out] s (writeHrg r o mid data s) := by
  unfold writeHrg
  repeat' first
    | assumption
    | decide
    | with_reducible apply Changes.refl
    | with_reducible apply Changes.after (writeRingBase_changes ..)
    | with_reducible apply Changes.after (writeRingCtl_changes ..)
    | with_reducible apply Changes.after (writeDoorbell_changes ..)
    | with_reducible apply Changes.after (writeCqHead_changes ..)
    | dsimp only
    | split
    | simp only [id_eq]
    | (intro p hp; cases p <;> first | rfl | (exfalso; revert hp; decide))

theorem writeMsg_changes (i : Fin 16) (k : Nat) (data : Word) (s : State) :
    Changes [.sys] s (writeMsg i k data s) := by
  unfold writeMsg
  repeat' first
    | assumption
    | decide
    | with_reducible apply Changes.refl
    | with_reducible apply Changes.after (State.onSys_changes ..)
    | dsimp only
    | split
    | simp only [id_eq]
    | (intro p hp; cases p <;> first | rfl | (exfalso; revert hp; decide))

theorem writeRoute_changes (i : Fin 16) (mid : Nat) (data : Word) (s : State) :
    Changes [.sys] s (writeRoute i mid data s) := by
  unfold writeRoute
  repeat' first
    | assumption
    | decide
    | with_reducible apply Changes.refl
    | with_reducible apply Changes.after (State.onSys_changes ..)
    | with_reducible apply Changes.after (encodingAudit_changes ..)
    | dsimp only
    | split
    | simp only [id_eq]
    | (intro p hp; cases p <;> first | rfl | (exfalso; revert hp; decide))

theorem writeEye_changes (o : Nat) (mid : Nat) (data : Word) (s : State) :
    Changes [.alerts, .isl, .mer, .reach, .barge, .spareClock, .basin, .port, .twPkg, .keeper, .ring, .sys, .eph, .twp, .slu, .link, .spdm, .eye, .col, .chr, .flight, .freeCtr, .out] s (writeEye o mid data s).2 := by
  unfold writeEye
  repeat' first
    | assumption
    | decide
    | with_reducible apply Changes.refl
    | with_reducible apply Changes.after (State.onEye_changes ..)
    | with_reducible apply Changes.after (encodingAudit_changes ..)
    | with_reducible apply Changes.after (eyeMemAccess_changes ..)
    | with_reducible apply Changes.after (coreCtl_changes ..)
    | dsimp only
    | split
    | simp only [id_eq]
    | (intro p hp; cases p <;> first | rfl | (exfalso; revert hp; decide))

/-! ### Package -/

theorem noTwilight_changes (s : State) :
    Changes [.mer, .meas] s (noTwilight s) := by
  unfold noTwilight
  repeat' first
    | assumption
    | decide
    | with_reducible apply Changes.refl
    | with_reducible apply Changes.after (extend_changes ..)
    | with_reducible apply Changes.after (State.onMer_changes ..)
    | dsimp only
    | split
    | simp only [id_eq]
    | (intro p hp; cases p <;> first | rfl | (exfalso; revert hp; decide))

theorem releaseChunk_changes (j : LoadJob) (m : Bytes) (last : Bool) (s : State) :
    Changes [.reach, .barge, .port, .loader, .keeper, .ring, .sys, .eph, .twp, .slu, .link, .spdm, .eye, .col, .chr, .flight, .freeCtr] s (releaseChunk j m last s) := by
  unfold releaseChunk
  repeat' first
    | assumption
    | decide
    | with_reducible apply Changes.refl
    | with_reducible apply Changes.after (failLoad_changes ..)
    | with_reducible apply Changes.after (memEnqueue_changes ..)
    | with_reducible apply Changes.after (finishLoad_changes ..)
    | with_reducible apply Changes.after (State.onReach_changes ..)
    | with_reducible apply Changes.after (fetchChunk_changes (by assumption))
    | with_reducible apply Changes.after (forAll_changes (fun _ _ => ?_) _ _) (fun _ h => h)
    | dsimp only
    | split
    | with_reducible apply Changes.set_loader
    | simp only [id_eq]
    | (intro p hp; cases p <;> first | rfl | (exfalso; revert hp; decide))

theorem twilightKey_changes (i : SlotId) (e : Engine) (s : State) :
    Changes [.eph, .chr, .freeCtr] s (twilightKey i e s) := by
  unfold twilightKey
  repeat' first
    | assumption
    | decide
    | with_reducible apply Changes.refl
    | with_reducible apply Changes.after (draw_changes ..)
    | with_reducible apply Changes.after (writeSlot_changes ..)
    | dsimp only
    | split
    | simp only [id_eq]
    | (intro p hp; cases p <;> first | rfl | (exfalso; revert hp; decide))

theorem takeTwilight_changes (s : State) :
    Changes [.isl, .barge, .basin, .port, .keeper, .sys, .eph, .slu, .chr, .flight, .freeCtr, .out] s (takeTwilight s) := by
  unfold takeTwilight
  repeat' first
    | assumption
    | decide
    | with_reducible apply Changes.refl
    | with_reducible apply Changes.after (clockBarge_changes ..)
    | with_reducible apply Changes.after (State.onBarge_changes ..)
    | with_reducible apply Changes.after (setUnitEpoch_changes ..)
    | with_reducible apply Changes.after (setUnitOwner_changes ..)
    | with_reducible apply Changes.after (twilightKey_changes ..)
    | with_reducible apply Changes.after (Changes.foldl (fun _ _ => ?_) _ _) (fun _ h => h)
    | dsimp only
    | split
    | with_reducible apply Changes.set_port_sys
    | simp only [id_eq]
    | (intro p hp; cases p <;> first | rfl | (exfalso; revert hp; decide))

theorem startTwilight_changes (img : Bytes) (s : State) :
    Changes [.isl, .mer, .meas, .barge, .basin, .port, .twPkg, .keeper, .sys, .eph, .slu, .eye, .chr, .flight, .freeCtr, .out] s (startTwilight img s) := by
  unfold startTwilight
  repeat' first
    | assumption
    | decide
    | with_reducible apply Changes.refl
    | with_reducible apply Changes.after (takeTwilight_changes ..)
    | with_reducible apply Changes.after (memEnqueue_changes ..)
    | with_reducible apply Changes.after (extend_changes ..)
    | with_reducible apply Changes.after (State.onMer_changes ..)
    | with_reducible apply Changes.after (runOnAll_changes ..)
    | with_reducible apply Changes.after (State.onKeeper_changes ..)
    | with_reducible apply Changes.after (forAll_changes (fun _ _ => ?_) _ _) (fun _ h => h)
    | dsimp only
    | split
    | with_reducible apply Changes.set_twPkg
    | simp only [id_eq]
    | (intro p hp; cases p <;> first | rfl | (exfalso; revert hp; decide))

theorem twilightRefused_changes (status : Nat) (s : State) :
    Changes [.alerts, .mer, .meas, .sys] s (twilightRefused status s) := by
  unfold twilightRefused
  repeat' first
    | assumption
    | decide
    | with_reducible apply Changes.refl
    | with_reducible apply Changes.after (noTwilight_changes ..)
    | with_reducible apply Changes.after (alert_changes ..)
    | dsimp only
    | split
    | simp only [id_eq]
    | (intro p hp; cases p <;> first | rfl | (exfalso; revert hp; decide))

/-! ### ReachCmd -/

theorem levelAudit_changes (offset : Nat) (v : Nat) (applied : Nat) (width : Nat) (s : State) :
    Changes [.sys] s (levelAudit offset v applied width s) := by
  unfold levelAudit
  repeat' first
    | assumption
    | decide
    | with_reducible apply Changes.refl
    | with_reducible apply Changes.after (audit_changes ..)
    | dsimp only
    | split
    | simp only [id_eq]
    | (intro p hp; cases p <;> first | rfl | (exfalso; revert hp; decide))

theorem openReach_changes (n : ReachId) (s : State) :
    Changes [.reach, .barge, .basin, .port, .loader, .keeper, .ring, .sys, .eph, .twp, .slu, .link, .spdm, .eye, .col, .chr, .flight, .freeCtr] s (openReach n s) := by
  unfold openReach
  repeat' first
    | assumption
    | decide
    | with_reducible apply Changes.refl
    | with_reducible apply Changes.after (State.onReach_changes ..)
    | with_reducible apply Changes.after (answerFailed_changes ..)
    | with_reducible apply Changes.after (stopLoad_changes ..)
    | with_reducible apply Changes.after (endReqs_changes ..)
    | with_reducible apply Changes.after (endStep_changes ..)
    | with_reducible apply Changes.after (beginDredge_changes ..)
    | dsimp only
    | split
    | simp only [id_eq]
    | (intro p hp; cases p <;> first | rfl | (exfalso; revert hp; decide))

theorem reachHandled_changes (s : State) :
    Changes [.chr] s (reachHandled s) := by
  unfold reachHandled
  repeat' first
    | assumption
    | decide
    | with_reducible apply Changes.refl
    | with_reducible apply Changes.after (chrAlways_changes ..)
    | dsimp only
    | split
    | simp only [id_eq]
    | (intro p hp; cases p <;> first | rfl | (exfalso; revert hp; decide))

theorem setDebug_changes (n : ReachId) (d : Debug) (s : State) :
    Changes [.reach, .barge, .basin, .port, .loader, .keeper, .ring, .sys, .eph, .twp, .slu, .link, .spdm, .eye, .col, .chr, .flight, .freeCtr] s (setDebug n d s) := by
  unfold setDebug
  repeat' first
    | assumption
    | decide
    | with_reducible apply Changes.refl
    | with_reducible apply Changes.after (State.onReach_changes ..)
    | with_reducible apply Changes.after (openReach_changes ..)
    | with_reducible apply Changes.after (State.onKeeper_changes ..)
    | dsimp only
    | split
    | simp only [id_eq]
    | (intro p hp; cases p <;> first | rfl | (exfalso; revert hp; decide))

theorem setSpill_changes (n : ReachId) (en : Bool) (s : State) :
    Changes [.iso, .port] s (setSpill n en s) := by
  unfold setSpill
  repeat' first
    | assumption
    | decide
    | with_reducible apply Changes.refl
    | with_reducible apply Changes.after (settleSpill_changes ..)
    | dsimp only
    | split
    | with_reducible apply Changes.set_iso
    | with_reducible apply Changes.set_port
    | with_reducible apply Changes.set_iso_port
    | simp only [id_eq]
    | (intro p hp; cases p <;> first | rfl | (exfalso; revert hp; decide))

/-! ### Sluice -/

theorem decidePlatform_changes (s : State) :
    Changes [.alerts, .iso, .sys, .slu] s (decidePlatform s) := by
  unfold decidePlatform
  repeat' first
    | assumption
    | decide
    | with_reducible apply Changes.refl
    | with_reducible apply Changes.after (State.onSlu_changes ..)
    | with_reducible apply Changes.after (alert_changes ..)
    | with_reducible apply Changes.after (setThermal_changes ..)
    | dsimp only
    | split
    | simp only [id_eq]
    | (intro p hp; cases p <;> first | rfl | (exfalso; revert hp; decide))

theorem doDwell_changes (reach : Nat) (ms : Nat) (s : State) :
    Changes [.slu] s (doDwell reach ms s) := by
  unfold doDwell
  repeat' first
    | assumption
    | decide
    | with_reducible apply Changes.refl
    | with_reducible apply Changes.after (State.onSlu_changes ..)
    | dsimp only
    | split
    | simp only [id_eq]
    | (intro p hp; cases p <;> first | rfl | (exfalso; revert hp; decide))

theorem doKeep_changes (s : State) :
    Changes [.isl, .barge, .port, .keeper, .slu, .chr, .flight, .out] s (doKeep s) := by
  unfold doKeep
  repeat' first
    | assumption
    | decide
    | with_reducible apply Changes.refl
    | with_reducible apply Changes.after (settleKeep_changes ..)
    | with_reducible apply Changes.after (State.onSlu_changes ..)
    | dsimp only
    | split
    | simp only [id_eq]
    | (intro p hp; cases p <;> first | rfl | (exfalso; revert hp; decide))

theorem doTrim_changes (t : Nat) (s : State) :
    Changes [.slu] s (doTrim t s) := by
  unfold doTrim withNotice
  repeat' first
    | assumption
    | decide
    | with_reducible apply Changes.refl
    | with_reducible apply Changes.after (State.onSlu_changes ..)
    | dsimp only
    | split
    | simp only [id_eq]
    | (intro p hp; cases p <;> first | rfl | (exfalso; revert hp; decide))

theorem enterOff_changes (s : State) :
    Changes [.pins, .alerts, .isl, .iso, .mer, .meas, .epochCtr, .reach, .barge, .spareClock, .basin, .port, .twPkg, .loader, .keeper, .ring, .sys, .eph, .ast, .alm, .stc, .twp, .slu, .link, .spdm, .eye, .col, .chr, .flight, .freeCtr, .out] s (enterOff s) := by
  unfold enterOff
  repeat' first
    | assumption
    | decide
    | with_reducible apply Changes.refl
    | with_reducible apply Changes.after (enterReset_changes ..)
    | with_reducible apply Changes.after (syncRails_changes ..)
    | dsimp only
    | split
    | with_reducible apply Changes.set_isl_slu
    | simp only [id_eq]
    | (intro p hp; cases p <;> first | rfl | (exfalso; revert hp; decide))

theorem formEstimates_changes (v : Vector Activity 8) (s : State) :
    Changes [.slu] s (formEstimates v s) := by
  unfold formEstimates
  repeat' first
    | assumption
    | decide
    | with_reducible apply Changes.refl
    | with_reducible apply Changes.after (State.onSlu_changes ..)
    | dsimp only
    | split
    | simp only [id_eq]
    | (intro p hp; cases p <;> first | rfl | (exfalso; revert hp; decide))

theorem railFault_changes (rail : Fin 6) (cause : Nat) (s : State) :
    Changes [.alerts, .sys, .slu] s (railFault rail cause s) := by
  unfold railFault
  repeat' first
    | assumption
    | decide
    | with_reducible apply Changes.refl
    | with_reducible apply Changes.after (alert_changes ..)
    | with_reducible apply Changes.after (State.onSlu_changes ..)
    | dsimp only
    | split
    | simp only [id_eq]
    | (intro p hp; cases p <;> first | rfl | (exfalso; revert hp; decide))

/-! ### SpdmOps -/

theorem spdmError_changes (what : String) (code : SpdmCode) (s : State) :
    Changes [.out, .events] s (spdmError what code s) := by
  unfold spdmError
  repeat' first
    | assumption
    | decide
    | with_reducible apply Changes.refl
    | with_reducible apply Changes.after (answerSpdm_changes ..)
    | with_reducible apply Changes.after (refuse_changes ..)
    | dsimp only
    | split
    | simp only [id_eq]
    | (intro p hp; cases p <;> first | rfl | (exfalso; revert hp; decide))

theorem deliverKey_changes (n : ReachId) (chainDigest : Bytes) (body : Bytes) (s : State) :
    Changes [.reach, .port, .eph, .chr] s (deliverKey n chainDigest body s) := by
  unfold deliverKey
  repeat' first
    | assumption
    | decide
    | with_reducible apply Changes.refl
    | with_reducible apply Changes.after (chrAlways_changes ..)
    | with_reducible apply Changes.after (invalidateSlot_changes ..)
    | with_reducible apply Changes.after (writeSlot_changes ..)
    | with_reducible apply Changes.after (State.onReach_changes ..)
    | with_reducible apply Changes.after (forAll_changes (fun _ _ => ?_) _ _) (fun _ h => h)
    | dsimp only
    | split
    | simp only [id_eq]
    | (intro p hp; cases p <;> first | rfl | (exfalso; revert hp; decide))

theorem onSession_changes (i : Fin 8) (f : Session → Session) (s : State) :
    Changes [.spdm] s (onSession i f s) := by
  unfold onSession
  repeat' first
    | assumption
    | decide
    | with_reducible apply Changes.refl
    | with_reducible apply Changes.after (State.onSpdm_changes ..)
    | dsimp only
    | split
    | simp only [id_eq]
    | (intro p hp; cases p <;> first | rfl | (exfalso; revert hp; decide))

theorem sessionKeys_changes (i : Fin 8) (phase : Nat) (y : Session) (s : State) :
    Changes [.port, .eph, .chr] s (sessionKeys i phase y s) := by
  unfold sessionKeys
  repeat' first
    | assumption
    | decide
    | with_reducible apply Changes.refl
    | with_reducible apply Changes.after (writeSlot_changes ..)
    | with_reducible apply Changes.after (invalidateSlot_changes ..)
    | dsimp only
    | split
    | simp only [id_eq]
    | (intro p hp; cases p <;> first | rfl | (exfalso; revert hp; decide))

theorem replyPart_changes (b : Bytes) (offset : Nat) (s : State) :
    Changes [.out] s (replyPart b offset s) := by
  unfold replyPart
  repeat' first
    | assumption
    | decide
    | with_reducible apply Changes.refl
    | with_reducible apply Changes.after (answer_changes ..)
    | dsimp only
    | split
    | simp only [id_eq]
    | (intro p hp; cases p <;> first | rfl | (exfalso; revert hp; decide))

theorem spdmReply_changes (ep : Nat) (data : Bytes) (s : State) :
    Changes [.spdm, .out] s (spdmReply ep data s) := by
  unfold spdmReply
  repeat' first
    | assumption
    | decide
    | with_reducible apply Changes.refl
    | with_reducible apply Changes.after (answerSpdm_changes ..)
    | with_reducible apply Changes.after (State.onSpdm_changes ..)
    | dsimp only
    | split
    | simp only [id_eq]
    | (intro p hp; cases p <;> first | rfl | (exfalso; revert hp; decide))

theorem signDigest_changes (d : Bytes) (s : State) :
    Changes [.alerts, .mer, .sys, .eph, .ast, .spdm, .chr, .freeCtr] s (signDigest d s).2 := by
  unfold signDigest
  repeat' first
    | assumption
    | decide
    | with_reducible apply Changes.refl
    | with_reducible apply Changes.after (evalKey_changes ..)
    | with_reducible apply Changes.after (astRun_changes ..)
    | dsimp only
    | split
    | simp only [id_eq]
    | (intro p hp; cases p <;> first | rfl | (exfalso; revert hp; decide))

theorem signedReply_changes (what : String) (ep : Nat) (data : Bytes) (s : State) :
    Changes [.spdm, .out, .events] s (signedReply what ep data s) := by
  unfold signedReply
  repeat' first
    | assumption
    | decide
    | with_reducible apply Changes.refl
    | with_reducible apply Changes.after (spdmReply_changes ..)
    | with_reducible apply Changes.after (spdmError_changes ..)
    | dsimp only
    | split
    | simp only [id_eq]
    | (intro p hp; cases p <;> first | rfl | (exfalso; revert hp; decide))

/-! ### Spdm -/

theorem finishExchange_changes (i : Fin 8) (y : Session) (chain : List Bytes) (signature : Bytes) (s : State) :
    Changes [.alerts, .mer, .port, .sys, .eph, .ast, .spdm, .chr, .freeCtr, .out, .events] s (finishExchange i y chain signature s) := by
  unfold finishExchange
  repeat' first
    | assumption
    | decide
    | with_reducible apply Changes.refl
    | with_reducible apply Changes.after (chrAlways_changes ..)
    | with_reducible apply Changes.after (astRun_changes ..)
    | with_reducible apply Changes.after (answerSpdm_changes ..)
    | with_reducible apply Changes.after (sessionKeys_changes ..)
    | with_reducible apply Changes.after (onSession_changes ..)
    | with_reducible apply Changes.after (spdmError_changes ..)
    | with_reducible apply Changes.after (endSession_changes ..)
    | dsimp only
    | split
    | simp only [id_eq]
    | (intro p hp; cases p <;> first | rfl | (exfalso; revert hp; decide))

theorem lateDelivery_changes (i : Fin 8) (s : State) :
    Changes [.isl, .barge, .port, .keeper, .sys, .slu, .spdm, .col, .chr, .flight, .out, .events] s (lateDelivery i s) := by
  unfold lateDelivery onMessage
  repeat' first
    | assumption
    | decide
    | with_reducible apply Changes.refl
    | with_reducible apply Changes.after (refuse_changes ..)
    | with_reducible apply Changes.after (mctpMessage_changes ..)
    | with_reducible apply Changes.after (keepWake_changes ..)
    | with_reducible apply Changes.after (chrAlways_changes ..)
    | with_reducible apply Changes.after (handled_changes ..)
    | with_reducible apply Changes.after (refuseMgmt_changes ..)
    | with_reducible apply Changes.after (asType_changes ..)
    | with_reducible apply Changes.after (State.onSpdm_changes ..)
    | dsimp only
    | split
    | simp only [id_eq]
    | (intro p hp; cases p <;> first | rfl | (exfalso; revert hp; decide))

theorem recordOffer_changes (i : Fin 8) (n : ReachId) (line : Nat) (s : State) :
    Changes [.spdm] s (recordOffer i n line s) := by
  unfold recordOffer
  repeat' first
    | assumption
    | decide
    | with_reducible apply Changes.refl
    | with_reducible apply Changes.after (State.onSpdm_changes ..)
    | dsimp only
    | split
    | simp only [id_eq]
    | (intro p hp; cases p <;> first | rfl | (exfalso; revert hp; decide))

theorem newOffer_changes (i : Fin 8) (n : ReachId) (s : State) :
    Changes [.alerts, .mer, .sys, .eph, .ast, .spdm, .chr, .freeCtr, .out, .events] s (newOffer i n s) := by
  unfold newOffer
  repeat' first
    | assumption
    | decide
    | with_reducible apply Changes.refl
    | with_reducible apply Changes.after (astRun_changes ..)
    | with_reducible apply Changes.after (answer_changes ..)
    | with_reducible apply Changes.after (recordOffer_changes ..)
    | with_reducible apply Changes.after (refuseMgmt_changes ..)
    | dsimp only
    | split
    | simp only [id_eq]
    | (intro p hp; cases p <;> first | rfl | (exfalso; revert hp; decide))

theorem newReport_changes (ep : Nat) (reach : Option ReachId) (fmt : Nat) (nonce : Bytes) (s : State) :
    Changes [.alerts, .mer, .sys, .eph, .ast, .spdm, .chr, .freeCtr, .out, .events] s (newReport ep reach fmt nonce s) := by
  unfold newReport
  repeat' first
    | assumption
    | decide
    | with_reducible apply Changes.refl
    | with_reducible apply Changes.after (nativeReport_changes ..)
    | with_reducible apply Changes.after (token_changes ..)
    | with_reducible apply Changes.after (refuseMgmt_changes ..)
    | with_reducible apply Changes.after (chrAlways_changes ..)
    | with_reducible apply Changes.after (replyPart_changes ..)
    | with_reducible apply Changes.after (State.onSpdm_changes ..)
    | dsimp only
    | split
    | simp only [id_eq]
    | (intro p hp; cases p <;> first | rfl | (exfalso; revert hp; decide))

theorem openExchange_changes (i : Fin 8) (ep : Nat) (target : Nat) (exchange : Bytes) (s : State) :
    Changes [.alerts, .mer, .port, .sys, .eph, .ast, .spdm, .chr, .freeCtr, .out, .events] s (openExchange i ep target exchange s) := by
  unfold openExchange
  repeat' first
    | assumption
    | decide
    | with_reducible apply Changes.refl
    | with_reducible apply Changes.after (astRun_changes ..)
    | with_reducible apply Changes.after (spdmError_changes ..)
    | with_reducible apply Changes.after (draw_changes ..)
    | with_reducible apply Changes.after (signDigest_changes ..)
    | with_reducible apply Changes.after (sessionKeys_changes ..)
    | with_reducible apply Changes.after (State.onSpdm_changes ..)
    | with_reducible apply Changes.after (spdmReply_changes ..)
    | with_reducible apply Changes.after (emit_changes ..)
    | dsimp only
    | split
    | simp only [id_eq]
    | (intro p hp; cases p <;> first | rfl | (exfalso; revert hp; decide))

theorem serveChallenge_changes (ep : Nat) (slot : Nat) (nonce : Vector Byte 32) (s : State) :
    Changes [.alerts, .isl, .mer, .barge, .port, .keeper, .sys, .eph, .ast, .slu, .spdm, .col, .chr, .flight, .freeCtr, .out, .events] s (serveChallenge ep slot nonce s) := by
  unfold serveChallenge withAst spdmRequest onMessage
  repeat' first
    | assumption
    | decide
    | with_reducible apply Changes.refl
    | with_reducible apply Changes.after (refuse_changes ..)
    | with_reducible apply Changes.after (mctpMessage_changes ..)
    | with_reducible apply Changes.after (keepWake_changes ..)
    | with_reducible apply Changes.after (chrAlways_changes ..)
    | with_reducible apply Changes.after (handled_changes ..)
    | with_reducible apply Changes.after (spdmError_changes ..)
    | with_reducible apply Changes.after (answerSpdm_changes ..)
    | with_reducible apply Changes.after (State.onSpdm_changes ..)
    | with_reducible apply Changes.after (draw_changes ..)
    | with_reducible apply Changes.after (signDigest_changes ..)
    | with_reducible apply Changes.after (signedReply_changes ..)
    | dsimp only
    | split
    | simp only [id_eq]
    | (intro p hp; cases p <;> first | rfl | (exfalso; revert hp; decide))

theorem serveFinish_changes (sess : Fin 8) (chain : List Bytes) (signature : Bytes) (s : State) :
    Changes [.alerts, .isl, .mer, .barge, .port, .keeper, .sys, .eph, .ast, .slu, .spdm, .col, .chr, .flight, .freeCtr, .out, .events] s (serveFinish sess chain signature s) := by
  unfold serveFinish withAst securedSpdm secured onMessage
  repeat' first
    | assumption
    | decide
    | with_reducible apply Changes.refl
    | with_reducible apply Changes.after (refuse_changes ..)
    | with_reducible apply Changes.after (mctpMessage_changes ..)
    | with_reducible apply Changes.after (keepWake_changes ..)
    | with_reducible apply Changes.after (chrAlways_changes ..)
    | with_reducible apply Changes.after (handled_changes ..)
    | with_reducible apply Changes.after (inSession_changes (l := [.alerts, .isl, .mer, .barge, .port, .keeper, .sys, .eph, .ast, .slu, .spdm, .col, .chr, .flight, .freeCtr, .out, .events]) (by decide) fun _ => ?_) (fun _ h => h)
    | with_reducible apply Changes.after (spdmError_changes ..)
    | with_reducible apply Changes.after (answerSpdm_changes ..)
    | with_reducible apply Changes.after (State.onSpdm_changes ..)
    | with_reducible apply Changes.after (finishExchange_changes ..)
    | dsimp only
    | split
    | simp only [id_eq]
    | (intro p hp; cases p <;> first | rfl | (exfalso; revert hp; decide))

theorem spendOffer_changes (i : Fin 8) (s : State) :
    Changes [.spdm] s (spendOffer i s) := by
  unfold spendOffer
  repeat' first
    | assumption
    | decide
    | with_reducible apply Changes.refl
    | with_reducible apply Changes.after (State.onSpdm_changes ..)
    | with_reducible apply Changes.after (onSession_changes ..)
    | dsimp only
    | split
    | simp only [id_eq]
    | (intro p hp; cases p <;> first | rfl | (exfalso; revert hp; decide))

theorem zeroMoved_changes (s : State) :
    Changes [.mer] s (zeroMoved s) := by
  unfold zeroMoved
  repeat' first
    | assumption
    | decide
    | with_reducible apply Changes.refl
    | with_reducible apply Changes.after (State.onMer_changes ..)
    | dsimp only
    | split
    | simp only [id_eq]
    | (intro p hp; cases p <;> first | rfl | (exfalso; revert hp; decide))

theorem takeDelivery_changes (i : Fin 8) (y : Session) (n : ReachId) (c : Bytes) (iv : Bytes) (wrapped : Bytes) (tag : Bytes) (s : State) :
    Changes [.alerts, .mer, .reach, .port, .sys, .eph, .ast, .spdm, .chr, .freeCtr, .out, .events] s (takeDelivery i y n c iv wrapped tag s) := by
  unfold takeDelivery
  repeat' first
    | assumption
    | decide
    | with_reducible apply Changes.refl
    | with_reducible apply Changes.after (astRun_changes ..)
    | with_reducible apply Changes.after (zeroMoved_changes ..)
    | with_reducible apply Changes.after (spendOffer_changes ..)
    | with_reducible apply Changes.after (refuseMgmt_changes ..)
    | with_reducible apply Changes.after (answer_changes ..)
    | with_reducible apply Changes.after (deliverKey_changes ..)
    | dsimp only
    | split
    | simp only [id_eq]
    | (intro p hp; cases p <;> first | rfl | (exfalso; revert hp; decide))

theorem serveKeyExchange_changes (ep : Nat) (vendor : Word) (target : Nat) (exchange : Bytes) (s : State) :
    Changes [.alerts, .isl, .mer, .barge, .port, .keeper, .sys, .eph, .ast, .slu, .spdm, .col, .chr, .flight, .freeCtr, .out, .events] s (serveKeyExchange ep vendor target exchange s) := by
  unfold serveKeyExchange withAst spdmRequest onMessage
  repeat' first
    | assumption
    | decide
    | with_reducible apply Changes.refl
    | with_reducible apply Changes.after (refuse_changes ..)
    | with_reducible apply Changes.after (mctpMessage_changes ..)
    | with_reducible apply Changes.after (keepWake_changes ..)
    | with_reducible apply Changes.after (chrAlways_changes ..)
    | with_reducible apply Changes.after (handled_changes ..)
    | with_reducible apply Changes.after (spdmError_changes ..)
    | with_reducible apply Changes.after (answerSpdm_changes ..)
    | with_reducible apply Changes.after (State.onSpdm_changes ..)
    | with_reducible apply Changes.after (openExchange_changes ..)
    | dsimp only
    | split
    | simp only [id_eq]
    | (intro p hp; cases p <;> first | rfl | (exfalso; revert hp; decide))

theorem serveKeyOffer_changes (sess : Fin 8) (s : State) :
    Changes [.alerts, .isl, .mer, .barge, .port, .keeper, .sys, .eph, .ast, .slu, .spdm, .col, .chr, .flight, .freeCtr, .out, .events] s (serveKeyOffer sess s) := by
  unfold serveKeyOffer tenantGx withAst gxRequest secured onMessage
  repeat' first
    | assumption
    | decide
    | with_reducible apply Changes.refl
    | with_reducible apply Changes.after (refuseMgmt_changes ..)
    | with_reducible apply Changes.after (refuse_changes ..)
    | with_reducible apply Changes.after (mctpMessage_changes ..)
    | with_reducible apply Changes.after (keepWake_changes ..)
    | with_reducible apply Changes.after (chrAlways_changes ..)
    | with_reducible apply Changes.after (handled_changes ..)
    | with_reducible apply Changes.after (inSession_changes (l := [.alerts, .isl, .mer, .barge, .port, .keeper, .sys, .eph, .ast, .slu, .spdm, .col, .chr, .flight, .freeCtr, .out, .events]) (by decide) fun _ => ?_) (fun _ h => h)
    | with_reducible apply Changes.after (spdmError_changes ..)
    | with_reducible apply Changes.after (answerSpdm_changes ..)
    | with_reducible apply Changes.after (State.onSpdm_changes ..)
    | with_reducible apply Changes.after (newOffer_changes ..)
    | dsimp only
    | split
    | simp only [id_eq]
    | (intro p hp; cases p <;> first | rfl | (exfalso; revert hp; decide))

theorem serveMeasurements_changes (ep : Nat) (index : Nat) (nonce : Vector Byte 32) (s : State) :
    Changes [.alerts, .isl, .mer, .barge, .port, .keeper, .sys, .eph, .ast, .slu, .spdm, .col, .chr, .flight, .freeCtr, .out, .events] s (serveMeasurements ep index nonce s) := by
  unfold serveMeasurements withAst spdmRequest onMessage
  repeat' first
    | assumption
    | decide
    | with_reducible apply Changes.refl
    | with_reducible apply Changes.after (refuse_changes ..)
    | with_reducible apply Changes.after (mctpMessage_changes ..)
    | with_reducible apply Changes.after (keepWake_changes ..)
    | with_reducible apply Changes.after (chrAlways_changes ..)
    | with_reducible apply Changes.after (handled_changes ..)
    | with_reducible apply Changes.after (spdmError_changes ..)
    | with_reducible apply Changes.after (answerSpdm_changes ..)
    | with_reducible apply Changes.after (State.onSpdm_changes ..)
    | with_reducible apply Changes.after (draw_changes ..)
    | with_reducible apply Changes.after (signDigest_changes ..)
    | with_reducible apply Changes.after (signedReply_changes ..)
    | dsimp only
    | split
    | simp only [id_eq]
    | (intro p hp; cases p <;> first | rfl | (exfalso; revert hp; decide))

theorem serveReport_changes (sess : Option (Fin 8)) (ep : Nat) (reach : Nat) (fmt : Nat) (nonce : Vector Byte 32) (offset : Nat) (s : State) :
    Changes [.alerts, .isl, .mer, .barge, .port, .keeper, .sys, .eph, .ast, .slu, .spdm, .col, .chr, .flight, .freeCtr, .out, .events] s (serveReport sess ep reach fmt nonce offset s) := by
  unfold serveReport withAst gxRequest secured onMessage
  repeat' first
    | assumption
    | decide
    | with_reducible apply Changes.refl
    | with_reducible apply Changes.after (refuseMgmt_changes ..)
    | with_reducible apply Changes.after (refuse_changes ..)
    | with_reducible apply Changes.after (mctpMessage_changes ..)
    | with_reducible apply Changes.after (keepWake_changes ..)
    | with_reducible apply Changes.after (chrAlways_changes ..)
    | with_reducible apply Changes.after (handled_changes ..)
    | with_reducible apply Changes.after (inSession_changes (l := [.alerts, .isl, .mer, .barge, .port, .keeper, .sys, .eph, .ast, .slu, .spdm, .col, .chr, .flight, .freeCtr, .out, .events]) (by decide) fun _ => ?_) (fun _ h => h)
    | with_reducible apply Changes.after (spdmError_changes ..)
    | with_reducible apply Changes.after (replyPart_changes ..)
    | with_reducible apply Changes.after (answerSpdm_changes ..)
    | with_reducible apply Changes.after (State.onSpdm_changes ..)
    | with_reducible apply Changes.after (newReport_changes ..)
    | dsimp only
    | split
    | simp only [id_eq]
    | (intro p hp; cases p <;> first | rfl | (exfalso; revert hp; decide))

end Sys2Proof.Machine
end

