-- ==== Sys2Proof/Laws/Memory.lean ====
section
/-! SUPPORT. Byte memories: every operation keeps the canonical form, a read after a write gives the byte written, and a write
leaves every other address alone. -/

namespace Sys2Proof.Machine

set_option Elab.async false

/-! ### The canonical form -/

theorem Mem.wfFrom_mono {m : Mem} {lo hi : Nat} (hl : lo ≤ hi) (h : Mem.wfFrom hi m = true) : Mem.wfFrom lo m = true := by
  cases m with
  | nil => rfl
  | cons c m =>
    obtain ⟨k, w⟩ := c
    simp only [Mem.wfFrom, Bool.and_eq_true, decide_eq_true_eq] at h ⊢
    exact ⟨⟨by omega, h.1.2⟩, h.2⟩

theorem memIns_wfFrom {m : Mem} {lo a : Nat} {v : Byte} (hv : v ≠ 0) (ha : lo ≤ a) (h : Mem.wfFrom lo m = true) :
    Mem.wfFrom lo (memIns m a v) = true := by
  induction m generalizing lo with
  | nil =>
    simp only [memIns, Mem.wfFrom, Bool.and_true, Bool.and_eq_true, decide_eq_true_eq]
    exact ⟨ha, hv⟩
  | cons c m ih =>
    obtain ⟨k, w⟩ := c
    simp only [Mem.wfFrom, Bool.and_eq_true, decide_eq_true_eq] at h
    unfold memIns
    split
    · simp only [Mem.wfFrom, Bool.and_eq_true, decide_eq_true_eq]
      exact ⟨⟨ha, hv⟩, ⟨by omega, h.1.2⟩, h.2⟩
    · split
      · next e =>
        subst e
        simp only [Mem.wfFrom, Bool.and_eq_true, decide_eq_true_eq]
        exact ⟨⟨ha, hv⟩, h.2⟩
      · simp only [Mem.wfFrom, Bool.and_eq_true, decide_eq_true_eq]
        exact ⟨h.1, ih (by omega) h.2⟩

theorem filter_wfFrom {m : Mem} {lo : Nat} {p : Host.Cell → Bool} (h : Mem.wfFrom lo m = true) :
    Mem.wfFrom lo (m.filter p) = true := by
  induction m generalizing lo with
  | nil => rfl
  | cons c m ih =>
    obtain ⟨k, w⟩ := c
    simp only [Mem.wfFrom, Bool.and_eq_true, decide_eq_true_eq] at h
    rw [List.filter_cons]
    split
    · simp only [Mem.wfFrom, Bool.and_eq_true, decide_eq_true_eq]
      exact ⟨h.1, ih h.2⟩
    · exact Mem.wfFrom_mono (by omega) (ih h.2)

theorem memSet_wf {m : Mem} (a : Nat) (v : Byte) (h : m.wf = true) : (memSet m a v).wf = true := by
  unfold memSet
  split
  · exact filter_wfFrom h
  · next hv => exact memIns_wfFrom hv (Nat.zero_le _) h

theorem memPut_wf {m : Mem} (a : Nat) (vs : Bytes) (h : m.wf = true) : (memPut m a vs).wf = true := by
  induction vs generalizing m a with
  | nil => exact h
  | cons v vs ih => exact ih _ (memSet_wf a v h)

theorem memClear_wf {m : Mem} (lo n : Nat) (h : m.wf = true) : (memClear m lo n).wf = true := filter_wfFrom h

theorem empty_wf : Mem.wf [] = true := rfl

/-- Every byte memory is canonical after reset. -/
theorem reset_memWf : State.reset.memWf = true := by decide +kernel

/-! ### Reading after writing -/

theorem memGet_below {m : Mem} {lo a : Nat} (h : Mem.wfFrom lo m = true) (ha : a < lo) : memGet m a = 0 := by
  induction m generalizing lo with
  | nil => rfl
  | cons c m ih =>
    obtain ⟨k, w⟩ := c
    simp only [Mem.wfFrom, Bool.and_eq_true, decide_eq_true_eq] at h
    rw [memGet, if_neg (by omega)]
    exact ih h.2 (by omega)

theorem memGet_memIns (m : Mem) (a b : Nat) (v : Byte) : memGet (memIns m a v) b = if b = a then v else memGet m b := by
  induction m with
  | nil => simp [memIns, memGet]
  | cons c m ih =>
    obtain ⟨k, w⟩ := c
    unfold memIns
    split
    · simp only [memGet]
    · split
      · next e =>
        subst e
        simp only [memGet]
        split <;> rfl
      · simp only [memGet, ih]
        split
        · next h1 h2 h3 => rw [if_neg (by omega)]
        · rfl

theorem memGet_filter (m : Mem) (b : Nat) (p : Nat → Bool) :
    memGet (m.filter fun c => p c.1) b = if p b then memGet m b else 0 := by
  induction m with
  | nil => simp [memGet]
  | cons c m ih =>
    obtain ⟨k, w⟩ := c
    rw [List.filter_cons]
    by_cases hb : b = k
    · subst hb
      by_cases hp : p b
      · simp [hp, memGet]
      · simp only [hp, Bool.false_eq_true, if_false, ih]
    · split
      · simp only [memGet, if_neg hb, ih]
      · rw [ih]; simp only [memGet, if_neg hb]

/-- Reading a byte after writing one: the byte written at its address, the old byte elsewhere. -/
theorem memGet_memSet (m : Mem) (a b : Nat) (v : Byte) :
    memGet (memSet m a v) b = if b = a then v else memGet m b := by
  unfold memSet
  split
  · next hv =>
    rw [memGet_filter m b fun k => k != a]
    by_cases hb : b = a <;> simp [hb, hv]
  · exact memGet_memIns m a b v

/-- Reading a byte after writing a byte string: inside it the byte of the string, outside it the old byte. -/
theorem memGet_memPut (m : Mem) (a b : Nat) (vs : Bytes) :
    memGet (memPut m a vs) b = if a ≤ b ∧ b < a + vs.length then vs.getD (b - a) 0 else memGet m b := by
  induction vs generalizing m a with
  | nil =>
    rw [memPut, if_neg]
    simp only [List.length_nil]
    omega
  | cons v vs ih =>
    rw [memPut, ih, memGet_memSet]
    rw [List.length_cons]
    by_cases hb : b = a
    · subst hb
      rw [if_neg (by omega), if_pos rfl, if_pos (by omega), Nat.sub_self]; rfl
    · by_cases hi : a ≤ b ∧ b < a + (vs.length + 1)
      · rw [if_pos (by omega), if_pos hi]
        obtain ⟨d, rfl⟩ : ∃ d, b = a + 1 + d := ⟨b - a - 1, by omega⟩
        rw [show a + 1 + d - (a + 1) = d by omega, show a + 1 + d - a = d + 1 by omega]; rfl
      · rw [if_neg (by omega), if_neg hb, if_neg hi]

theorem memGet_memPut_outside (m : Mem) {a b : Nat} {vs : Bytes} (hb : b < a ∨ a + vs.length ≤ b) :
    memGet (memPut m a vs) b = memGet m b := by
  rw [memGet_memPut, if_neg (by omega)]

/-- Reading back a byte string just written. -/
theorem memBytes_memPut (m : Mem) (a : Nat) (vs : Bytes) : memBytes (memPut m a vs) a vs.length = vs := by
  induction vs generalizing m a with
  | nil => rfl
  | cons v vs ih =>
    rw [memPut, List.length_cons, memBytes, ih]
    congr 1
    rw [memGet_memPut_outside _ (by omega), memGet_memSet, if_pos rfl]

/-- Reading a byte after clearing a range: zero inside it, the old byte outside it. -/
theorem memGet_memClear (m : Mem) (lo n b : Nat) :
    memGet (memClear m lo n) b = if lo ≤ b ∧ b < lo + n then 0 else memGet m b := by
  unfold memClear
  rw [memGet_filter m b fun k => decide (k < lo) || decide (lo + n ≤ k)]
  by_cases hb : lo ≤ b ∧ b < lo + n
  · rw [if_pos hb, if_neg]; simp; omega
  · rw [if_neg hb, if_pos]; simp; omega

/-! ### Byte strings -/

@[simp] theorem leBytes_length (n v : Nat) : (leBytes n v).length = n := by
  induction n generalizing v with
  | zero => rfl
  | succ n ih => simp [leBytes, ih]

theorem leNat_leBytes (n v : Nat) : leNat (leBytes n v) = v % 256 ^ n := by
  induction n generalizing v with
  | zero => simp [leBytes, leNat, Nat.mod_one]
  | succ n ih =>
    have := ih (v / 256)
    simp only [leNat] at this
    rw [leBytes, leNat, List.foldr_cons, this, BitVec.toNat_ofNat]
    exact (Nat.pow_succ' ▸ Nat.mod_mul (x := v) (a := 256) (b := 256 ^ n)).symm

@[simp] theorem memBytes_length (m : Mem) (a n : Nat) : (memBytes m a n).length = n := by
  induction n generalizing a with
  | zero => rfl
  | succ n ih => simp [memBytes, ih]

@[simp] theorem padTo_length {α : Type} (d : α) (n : Nat) (l : List α) : (padTo d n l).length = n := by
  simp [padTo]; omega

@[simp] theorem slice_length (b : Bytes) (off n : Nat) : (slice b off n).length = n := by
  simp [slice]

end Sys2Proof.Machine
end

