-- ==== Sys2Proof/Laws/State.lean ====
section
/-! SUPPORT. Every field of the state after each update of one unit: a reading of a field never unfolds an update. -/

namespace Sys2Proof.Machine

set_option Elab.async false

/-! ### State.onIsl -/

@[simp] theorem State.onIsl_params (s : State) (i : Fin 64) (f : Island → Island) : (s.onIsl i f).params = s.params := rfl
@[simp] theorem State.onIsl_pins (s : State) (i : Fin 64) (f : Island → Island) : (s.onIsl i f).pins = s.pins := rfl
@[simp] theorem State.onIsl_alerts (s : State) (i : Fin 64) (f : Island → Island) : (s.onIsl i f).alerts = s.alerts := rfl
@[simp] theorem State.onIsl_windows (s : State) (i : Fin 64) (f : Island → Island) : (s.onIsl i f).windows = s.windows := rfl
@[simp] theorem State.onIsl_isl (s : State) (i : Fin 64) (f : Island → Island) : (s.onIsl i f).isl = upd s.isl i f := rfl
@[simp] theorem State.onIsl_iso (s : State) (i : Fin 64) (f : Island → Island) : (s.onIsl i f).iso = s.iso := rfl
@[simp] theorem State.onIsl_mer (s : State) (i : Fin 64) (f : Island → Island) : (s.onIsl i f).mer = s.mer := rfl
@[simp] theorem State.onIsl_meas (s : State) (i : Fin 64) (f : Island → Island) : (s.onIsl i f).meas = s.meas := rfl
@[simp] theorem State.onIsl_epochCtr (s : State) (i : Fin 64) (f : Island → Island) : (s.onIsl i f).epochCtr = s.epochCtr := rfl
@[simp] theorem State.onIsl_reach (s : State) (i : Fin 64) (f : Island → Island) : (s.onIsl i f).reach = s.reach := rfl
@[simp] theorem State.onIsl_barge (s : State) (i : Fin 64) (f : Island → Island) : (s.onIsl i f).barge = s.barge := rfl
@[simp] theorem State.onIsl_spareClock (s : State) (i : Fin 64) (f : Island → Island) : (s.onIsl i f).spareClock = s.spareClock := rfl
@[simp] theorem State.onIsl_basin (s : State) (i : Fin 64) (f : Island → Island) : (s.onIsl i f).basin = s.basin := rfl
@[simp] theorem State.onIsl_port (s : State) (i : Fin 64) (f : Island → Island) : (s.onIsl i f).port = s.port := rfl
@[simp] theorem State.onIsl_twPkg (s : State) (i : Fin 64) (f : Island → Island) : (s.onIsl i f).twPkg = s.twPkg := rfl
@[simp] theorem State.onIsl_loader (s : State) (i : Fin 64) (f : Island → Island) : (s.onIsl i f).loader = s.loader := rfl
@[simp] theorem State.onIsl_keeper (s : State) (i : Fin 64) (f : Island → Island) : (s.onIsl i f).keeper = s.keeper := rfl
@[simp] theorem State.onIsl_ring (s : State) (i : Fin 64) (f : Island → Island) : (s.onIsl i f).ring = s.ring := rfl
@[simp] theorem State.onIsl_sys (s : State) (i : Fin 64) (f : Island → Island) : (s.onIsl i f).sys = s.sys := rfl
@[simp] theorem State.onIsl_eph (s : State) (i : Fin 64) (f : Island → Island) : (s.onIsl i f).eph = s.eph := rfl
@[simp] theorem State.onIsl_ast (s : State) (i : Fin 64) (f : Island → Island) : (s.onIsl i f).ast = s.ast := rfl
@[simp] theorem State.onIsl_alm (s : State) (i : Fin 64) (f : Island → Island) : (s.onIsl i f).alm = s.alm := rfl
@[simp] theorem State.onIsl_stc (s : State) (i : Fin 64) (f : Island → Island) : (s.onIsl i f).stc = s.stc := rfl
@[simp] theorem State.onIsl_twp (s : State) (i : Fin 64) (f : Island → Island) : (s.onIsl i f).twp = s.twp := rfl
@[simp] theorem State.onIsl_slu (s : State) (i : Fin 64) (f : Island → Island) : (s.onIsl i f).slu = s.slu := rfl
@[simp] theorem State.onIsl_link (s : State) (i : Fin 64) (f : Island → Island) : (s.onIsl i f).link = s.link := rfl
@[simp] theorem State.onIsl_spdm (s : State) (i : Fin 64) (f : Island → Island) : (s.onIsl i f).spdm = s.spdm := rfl
@[simp] theorem State.onIsl_eye (s : State) (i : Fin 64) (f : Island → Island) : (s.onIsl i f).eye = s.eye := rfl
@[simp] theorem State.onIsl_col (s : State) (i : Fin 64) (f : Island → Island) : (s.onIsl i f).col = s.col := rfl
@[simp] theorem State.onIsl_chr (s : State) (i : Fin 64) (f : Island → Island) : (s.onIsl i f).chr = s.chr := rfl
@[simp] theorem State.onIsl_flight (s : State) (i : Fin 64) (f : Island → Island) : (s.onIsl i f).flight = s.flight := rfl
@[simp] theorem State.onIsl_freeCtr (s : State) (i : Fin 64) (f : Island → Island) : (s.onIsl i f).freeCtr = s.freeCtr := rfl
@[simp] theorem State.onIsl_out (s : State) (i : Fin 64) (f : Island → Island) : (s.onIsl i f).out = s.out := rfl
@[simp] theorem State.onIsl_events (s : State) (i : Fin 64) (f : Island → Island) : (s.onIsl i f).events = s.events := rfl
@[simp] theorem State.onIsl_pending (s : State) (i : Fin 64) (f : Island → Island) : (s.onIsl i f).pending = s.pending := rfl

/-! ### State.onReach -/

@[simp] theorem State.onReach_params (s : State) (r : ReachId) (f : Reach → Reach) : (s.onReach r f).params = s.params := rfl
@[simp] theorem State.onReach_pins (s : State) (r : ReachId) (f : Reach → Reach) : (s.onReach r f).pins = s.pins := rfl
@[simp] theorem State.onReach_alerts (s : State) (r : ReachId) (f : Reach → Reach) : (s.onReach r f).alerts = s.alerts := rfl
@[simp] theorem State.onReach_windows (s : State) (r : ReachId) (f : Reach → Reach) : (s.onReach r f).windows = s.windows := rfl
@[simp] theorem State.onReach_isl (s : State) (r : ReachId) (f : Reach → Reach) : (s.onReach r f).isl = s.isl := rfl
@[simp] theorem State.onReach_iso (s : State) (r : ReachId) (f : Reach → Reach) : (s.onReach r f).iso = s.iso := rfl
@[simp] theorem State.onReach_mer (s : State) (r : ReachId) (f : Reach → Reach) : (s.onReach r f).mer = s.mer := rfl
@[simp] theorem State.onReach_meas (s : State) (r : ReachId) (f : Reach → Reach) : (s.onReach r f).meas = s.meas := rfl
@[simp] theorem State.onReach_epochCtr (s : State) (r : ReachId) (f : Reach → Reach) : (s.onReach r f).epochCtr = s.epochCtr := rfl
@[simp] theorem State.onReach_reach (s : State) (r : ReachId) (f : Reach → Reach) : (s.onReach r f).reach = upd s.reach r f := rfl
@[simp] theorem State.onReach_barge (s : State) (r : ReachId) (f : Reach → Reach) : (s.onReach r f).barge = s.barge := rfl
@[simp] theorem State.onReach_spareClock (s : State) (r : ReachId) (f : Reach → Reach) : (s.onReach r f).spareClock = s.spareClock := rfl
@[simp] theorem State.onReach_basin (s : State) (r : ReachId) (f : Reach → Reach) : (s.onReach r f).basin = s.basin := rfl
@[simp] theorem State.onReach_port (s : State) (r : ReachId) (f : Reach → Reach) : (s.onReach r f).port = s.port := rfl
@[simp] theorem State.onReach_twPkg (s : State) (r : ReachId) (f : Reach → Reach) : (s.onReach r f).twPkg = s.twPkg := rfl
@[simp] theorem State.onReach_loader (s : State) (r : ReachId) (f : Reach → Reach) : (s.onReach r f).loader = s.loader := rfl
@[simp] theorem State.onReach_keeper (s : State) (r : ReachId) (f : Reach → Reach) : (s.onReach r f).keeper = s.keeper := rfl
@[simp] theorem State.onReach_ring (s : State) (r : ReachId) (f : Reach → Reach) : (s.onReach r f).ring = s.ring := rfl
@[simp] theorem State.onReach_sys (s : State) (r : ReachId) (f : Reach → Reach) : (s.onReach r f).sys = s.sys := rfl
@[simp] theorem State.onReach_eph (s : State) (r : ReachId) (f : Reach → Reach) : (s.onReach r f).eph = s.eph := rfl
@[simp] theorem State.onReach_ast (s : State) (r : ReachId) (f : Reach → Reach) : (s.onReach r f).ast = s.ast := rfl
@[simp] theorem State.onReach_alm (s : State) (r : ReachId) (f : Reach → Reach) : (s.onReach r f).alm = s.alm := rfl
@[simp] theorem State.onReach_stc (s : State) (r : ReachId) (f : Reach → Reach) : (s.onReach r f).stc = s.stc := rfl
@[simp] theorem State.onReach_twp (s : State) (r : ReachId) (f : Reach → Reach) : (s.onReach r f).twp = s.twp := rfl
@[simp] theorem State.onReach_slu (s : State) (r : ReachId) (f : Reach → Reach) : (s.onReach r f).slu = s.slu := rfl
@[simp] theorem State.onReach_link (s : State) (r : ReachId) (f : Reach → Reach) : (s.onReach r f).link = s.link := rfl
@[simp] theorem State.onReach_spdm (s : State) (r : ReachId) (f : Reach → Reach) : (s.onReach r f).spdm = s.spdm := rfl
@[simp] theorem State.onReach_eye (s : State) (r : ReachId) (f : Reach → Reach) : (s.onReach r f).eye = s.eye := rfl
@[simp] theorem State.onReach_col (s : State) (r : ReachId) (f : Reach → Reach) : (s.onReach r f).col = s.col := rfl
@[simp] theorem State.onReach_chr (s : State) (r : ReachId) (f : Reach → Reach) : (s.onReach r f).chr = s.chr := rfl
@[simp] theorem State.onReach_flight (s : State) (r : ReachId) (f : Reach → Reach) : (s.onReach r f).flight = s.flight := rfl
@[simp] theorem State.onReach_freeCtr (s : State) (r : ReachId) (f : Reach → Reach) : (s.onReach r f).freeCtr = s.freeCtr := rfl
@[simp] theorem State.onReach_out (s : State) (r : ReachId) (f : Reach → Reach) : (s.onReach r f).out = s.out := rfl
@[simp] theorem State.onReach_events (s : State) (r : ReachId) (f : Reach → Reach) : (s.onReach r f).events = s.events := rfl
@[simp] theorem State.onReach_pending (s : State) (r : ReachId) (f : Reach → Reach) : (s.onReach r f).pending = s.pending := rfl

/-! ### State.onBarge -/

@[simp] theorem State.onBarge_params (s : State) (b : BargeId) (f : Barge → Barge) : (s.onBarge b f).params = s.params := rfl
@[simp] theorem State.onBarge_pins (s : State) (b : BargeId) (f : Barge → Barge) : (s.onBarge b f).pins = s.pins := rfl
@[simp] theorem State.onBarge_alerts (s : State) (b : BargeId) (f : Barge → Barge) : (s.onBarge b f).alerts = s.alerts := rfl
@[simp] theorem State.onBarge_windows (s : State) (b : BargeId) (f : Barge → Barge) : (s.onBarge b f).windows = s.windows := rfl
@[simp] theorem State.onBarge_isl (s : State) (b : BargeId) (f : Barge → Barge) : (s.onBarge b f).isl = s.isl := rfl
@[simp] theorem State.onBarge_iso (s : State) (b : BargeId) (f : Barge → Barge) : (s.onBarge b f).iso = s.iso := rfl
@[simp] theorem State.onBarge_mer (s : State) (b : BargeId) (f : Barge → Barge) : (s.onBarge b f).mer = s.mer := rfl
@[simp] theorem State.onBarge_meas (s : State) (b : BargeId) (f : Barge → Barge) : (s.onBarge b f).meas = s.meas := rfl
@[simp] theorem State.onBarge_epochCtr (s : State) (b : BargeId) (f : Barge → Barge) : (s.onBarge b f).epochCtr = s.epochCtr := rfl
@[simp] theorem State.onBarge_reach (s : State) (b : BargeId) (f : Barge → Barge) : (s.onBarge b f).reach = s.reach := rfl
@[simp] theorem State.onBarge_barge (s : State) (b : BargeId) (f : Barge → Barge) : (s.onBarge b f).barge = upd s.barge b f := rfl
@[simp] theorem State.onBarge_spareClock (s : State) (b : BargeId) (f : Barge → Barge) : (s.onBarge b f).spareClock = s.spareClock := rfl
@[simp] theorem State.onBarge_basin (s : State) (b : BargeId) (f : Barge → Barge) : (s.onBarge b f).basin = s.basin := rfl
@[simp] theorem State.onBarge_port (s : State) (b : BargeId) (f : Barge → Barge) : (s.onBarge b f).port = s.port := rfl
@[simp] theorem State.onBarge_twPkg (s : State) (b : BargeId) (f : Barge → Barge) : (s.onBarge b f).twPkg = s.twPkg := rfl
@[simp] theorem State.onBarge_loader (s : State) (b : BargeId) (f : Barge → Barge) : (s.onBarge b f).loader = s.loader := rfl
@[simp] theorem State.onBarge_keeper (s : State) (b : BargeId) (f : Barge → Barge) : (s.onBarge b f).keeper = s.keeper := rfl
@[simp] theorem State.onBarge_ring (s : State) (b : BargeId) (f : Barge → Barge) : (s.onBarge b f).ring = s.ring := rfl
@[simp] theorem State.onBarge_sys (s : State) (b : BargeId) (f : Barge → Barge) : (s.onBarge b f).sys = s.sys := rfl
@[simp] theorem State.onBarge_eph (s : State) (b : BargeId) (f : Barge → Barge) : (s.onBarge b f).eph = s.eph := rfl
@[simp] theorem State.onBarge_ast (s : State) (b : BargeId) (f : Barge → Barge) : (s.onBarge b f).ast = s.ast := rfl
@[simp] theorem State.onBarge_alm (s : State) (b : BargeId) (f : Barge → Barge) : (s.onBarge b f).alm = s.alm := rfl
@[simp] theorem State.onBarge_stc (s : State) (b : BargeId) (f : Barge → Barge) : (s.onBarge b f).stc = s.stc := rfl
@[simp] theorem State.onBarge_twp (s : State) (b : BargeId) (f : Barge → Barge) : (s.onBarge b f).twp = s.twp := rfl
@[simp] theorem State.onBarge_slu (s : State) (b : BargeId) (f : Barge → Barge) : (s.onBarge b f).slu = s.slu := rfl
@[simp] theorem State.onBarge_link (s : State) (b : BargeId) (f : Barge → Barge) : (s.onBarge b f).link = s.link := rfl
@[simp] theorem State.onBarge_spdm (s : State) (b : BargeId) (f : Barge → Barge) : (s.onBarge b f).spdm = s.spdm := rfl
@[simp] theorem State.onBarge_eye (s : State) (b : BargeId) (f : Barge → Barge) : (s.onBarge b f).eye = s.eye := rfl
@[simp] theorem State.onBarge_col (s : State) (b : BargeId) (f : Barge → Barge) : (s.onBarge b f).col = s.col := rfl
@[simp] theorem State.onBarge_chr (s : State) (b : BargeId) (f : Barge → Barge) : (s.onBarge b f).chr = s.chr := rfl
@[simp] theorem State.onBarge_flight (s : State) (b : BargeId) (f : Barge → Barge) : (s.onBarge b f).flight = s.flight := rfl
@[simp] theorem State.onBarge_freeCtr (s : State) (b : BargeId) (f : Barge → Barge) : (s.onBarge b f).freeCtr = s.freeCtr := rfl
@[simp] theorem State.onBarge_out (s : State) (b : BargeId) (f : Barge → Barge) : (s.onBarge b f).out = s.out := rfl
@[simp] theorem State.onBarge_events (s : State) (b : BargeId) (f : Barge → Barge) : (s.onBarge b f).events = s.events := rfl
@[simp] theorem State.onBarge_pending (s : State) (b : BargeId) (f : Barge → Barge) : (s.onBarge b f).pending = s.pending := rfl

/-! ### State.onPort -/

@[simp] theorem State.onPort_params (s : State) (p : PortId) (f : Port → Port) : (s.onPort p f).params = s.params := rfl
@[simp] theorem State.onPort_pins (s : State) (p : PortId) (f : Port → Port) : (s.onPort p f).pins = s.pins := rfl
@[simp] theorem State.onPort_alerts (s : State) (p : PortId) (f : Port → Port) : (s.onPort p f).alerts = s.alerts := rfl
@[simp] theorem State.onPort_windows (s : State) (p : PortId) (f : Port → Port) : (s.onPort p f).windows = s.windows := rfl
@[simp] theorem State.onPort_isl (s : State) (p : PortId) (f : Port → Port) : (s.onPort p f).isl = s.isl := rfl
@[simp] theorem State.onPort_iso (s : State) (p : PortId) (f : Port → Port) : (s.onPort p f).iso = s.iso := rfl
@[simp] theorem State.onPort_mer (s : State) (p : PortId) (f : Port → Port) : (s.onPort p f).mer = s.mer := rfl
@[simp] theorem State.onPort_meas (s : State) (p : PortId) (f : Port → Port) : (s.onPort p f).meas = s.meas := rfl
@[simp] theorem State.onPort_epochCtr (s : State) (p : PortId) (f : Port → Port) : (s.onPort p f).epochCtr = s.epochCtr := rfl
@[simp] theorem State.onPort_reach (s : State) (p : PortId) (f : Port → Port) : (s.onPort p f).reach = s.reach := rfl
@[simp] theorem State.onPort_barge (s : State) (p : PortId) (f : Port → Port) : (s.onPort p f).barge = s.barge := rfl
@[simp] theorem State.onPort_spareClock (s : State) (p : PortId) (f : Port → Port) : (s.onPort p f).spareClock = s.spareClock := rfl
@[simp] theorem State.onPort_basin (s : State) (p : PortId) (f : Port → Port) : (s.onPort p f).basin = s.basin := rfl
@[simp] theorem State.onPort_port (s : State) (p : PortId) (f : Port → Port) : (s.onPort p f).port = upd s.port p f := rfl
@[simp] theorem State.onPort_twPkg (s : State) (p : PortId) (f : Port → Port) : (s.onPort p f).twPkg = s.twPkg := rfl
@[simp] theorem State.onPort_loader (s : State) (p : PortId) (f : Port → Port) : (s.onPort p f).loader = s.loader := rfl
@[simp] theorem State.onPort_keeper (s : State) (p : PortId) (f : Port → Port) : (s.onPort p f).keeper = s.keeper := rfl
@[simp] theorem State.onPort_ring (s : State) (p : PortId) (f : Port → Port) : (s.onPort p f).ring = s.ring := rfl
@[simp] theorem State.onPort_sys (s : State) (p : PortId) (f : Port → Port) : (s.onPort p f).sys = s.sys := rfl
@[simp] theorem State.onPort_eph (s : State) (p : PortId) (f : Port → Port) : (s.onPort p f).eph = s.eph := rfl
@[simp] theorem State.onPort_ast (s : State) (p : PortId) (f : Port → Port) : (s.onPort p f).ast = s.ast := rfl
@[simp] theorem State.onPort_alm (s : State) (p : PortId) (f : Port → Port) : (s.onPort p f).alm = s.alm := rfl
@[simp] theorem State.onPort_stc (s : State) (p : PortId) (f : Port → Port) : (s.onPort p f).stc = s.stc := rfl
@[simp] theorem State.onPort_twp (s : State) (p : PortId) (f : Port → Port) : (s.onPort p f).twp = s.twp := rfl
@[simp] theorem State.onPort_slu (s : State) (p : PortId) (f : Port → Port) : (s.onPort p f).slu = s.slu := rfl
@[simp] theorem State.onPort_link (s : State) (p : PortId) (f : Port → Port) : (s.onPort p f).link = s.link := rfl
@[simp] theorem State.onPort_spdm (s : State) (p : PortId) (f : Port → Port) : (s.onPort p f).spdm = s.spdm := rfl
@[simp] theorem State.onPort_eye (s : State) (p : PortId) (f : Port → Port) : (s.onPort p f).eye = s.eye := rfl
@[simp] theorem State.onPort_col (s : State) (p : PortId) (f : Port → Port) : (s.onPort p f).col = s.col := rfl
@[simp] theorem State.onPort_chr (s : State) (p : PortId) (f : Port → Port) : (s.onPort p f).chr = s.chr := rfl
@[simp] theorem State.onPort_flight (s : State) (p : PortId) (f : Port → Port) : (s.onPort p f).flight = s.flight := rfl
@[simp] theorem State.onPort_freeCtr (s : State) (p : PortId) (f : Port → Port) : (s.onPort p f).freeCtr = s.freeCtr := rfl
@[simp] theorem State.onPort_out (s : State) (p : PortId) (f : Port → Port) : (s.onPort p f).out = s.out := rfl
@[simp] theorem State.onPort_events (s : State) (p : PortId) (f : Port → Port) : (s.onPort p f).events = s.events := rfl
@[simp] theorem State.onPort_pending (s : State) (p : PortId) (f : Port → Port) : (s.onPort p f).pending = s.pending := rfl

/-! ### State.onKeeper -/

@[simp] theorem State.onKeeper_params (s : State) (r : SvcId) (f : Keeper → Keeper) : (s.onKeeper r f).params = s.params := rfl
@[simp] theorem State.onKeeper_pins (s : State) (r : SvcId) (f : Keeper → Keeper) : (s.onKeeper r f).pins = s.pins := rfl
@[simp] theorem State.onKeeper_alerts (s : State) (r : SvcId) (f : Keeper → Keeper) : (s.onKeeper r f).alerts = s.alerts := rfl
@[simp] theorem State.onKeeper_windows (s : State) (r : SvcId) (f : Keeper → Keeper) : (s.onKeeper r f).windows = s.windows := rfl
@[simp] theorem State.onKeeper_isl (s : State) (r : SvcId) (f : Keeper → Keeper) : (s.onKeeper r f).isl = s.isl := rfl
@[simp] theorem State.onKeeper_iso (s : State) (r : SvcId) (f : Keeper → Keeper) : (s.onKeeper r f).iso = s.iso := rfl
@[simp] theorem State.onKeeper_mer (s : State) (r : SvcId) (f : Keeper → Keeper) : (s.onKeeper r f).mer = s.mer := rfl
@[simp] theorem State.onKeeper_meas (s : State) (r : SvcId) (f : Keeper → Keeper) : (s.onKeeper r f).meas = s.meas := rfl
@[simp] theorem State.onKeeper_epochCtr (s : State) (r : SvcId) (f : Keeper → Keeper) : (s.onKeeper r f).epochCtr = s.epochCtr := rfl
@[simp] theorem State.onKeeper_reach (s : State) (r : SvcId) (f : Keeper → Keeper) : (s.onKeeper r f).reach = s.reach := rfl
@[simp] theorem State.onKeeper_barge (s : State) (r : SvcId) (f : Keeper → Keeper) : (s.onKeeper r f).barge = s.barge := rfl
@[simp] theorem State.onKeeper_spareClock (s : State) (r : SvcId) (f : Keeper → Keeper) : (s.onKeeper r f).spareClock = s.spareClock := rfl
@[simp] theorem State.onKeeper_basin (s : State) (r : SvcId) (f : Keeper → Keeper) : (s.onKeeper r f).basin = s.basin := rfl
@[simp] theorem State.onKeeper_port (s : State) (r : SvcId) (f : Keeper → Keeper) : (s.onKeeper r f).port = s.port := rfl
@[simp] theorem State.onKeeper_twPkg (s : State) (r : SvcId) (f : Keeper → Keeper) : (s.onKeeper r f).twPkg = s.twPkg := rfl
@[simp] theorem State.onKeeper_loader (s : State) (r : SvcId) (f : Keeper → Keeper) : (s.onKeeper r f).loader = s.loader := rfl
@[simp] theorem State.onKeeper_keeper (s : State) (r : SvcId) (f : Keeper → Keeper) : (s.onKeeper r f).keeper = upd s.keeper r f := rfl
@[simp] theorem State.onKeeper_ring (s : State) (r : SvcId) (f : Keeper → Keeper) : (s.onKeeper r f).ring = s.ring := rfl
@[simp] theorem State.onKeeper_sys (s : State) (r : SvcId) (f : Keeper → Keeper) : (s.onKeeper r f).sys = s.sys := rfl
@[simp] theorem State.onKeeper_eph (s : State) (r : SvcId) (f : Keeper → Keeper) : (s.onKeeper r f).eph = s.eph := rfl
@[simp] theorem State.onKeeper_ast (s : State) (r : SvcId) (f : Keeper → Keeper) : (s.onKeeper r f).ast = s.ast := rfl
@[simp] theorem State.onKeeper_alm (s : State) (r : SvcId) (f : Keeper → Keeper) : (s.onKeeper r f).alm = s.alm := rfl
@[simp] theorem State.onKeeper_stc (s : State) (r : SvcId) (f : Keeper → Keeper) : (s.onKeeper r f).stc = s.stc := rfl
@[simp] theorem State.onKeeper_twp (s : State) (r : SvcId) (f : Keeper → Keeper) : (s.onKeeper r f).twp = s.twp := rfl
@[simp] theorem State.onKeeper_slu (s : State) (r : SvcId) (f : Keeper → Keeper) : (s.onKeeper r f).slu = s.slu := rfl
@[simp] theorem State.onKeeper_link (s : State) (r : SvcId) (f : Keeper → Keeper) : (s.onKeeper r f).link = s.link := rfl
@[simp] theorem State.onKeeper_spdm (s : State) (r : SvcId) (f : Keeper → Keeper) : (s.onKeeper r f).spdm = s.spdm := rfl
@[simp] theorem State.onKeeper_eye (s : State) (r : SvcId) (f : Keeper → Keeper) : (s.onKeeper r f).eye = s.eye := rfl
@[simp] theorem State.onKeeper_col (s : State) (r : SvcId) (f : Keeper → Keeper) : (s.onKeeper r f).col = s.col := rfl
@[simp] theorem State.onKeeper_chr (s : State) (r : SvcId) (f : Keeper → Keeper) : (s.onKeeper r f).chr = s.chr := rfl
@[simp] theorem State.onKeeper_flight (s : State) (r : SvcId) (f : Keeper → Keeper) : (s.onKeeper r f).flight = s.flight := rfl
@[simp] theorem State.onKeeper_freeCtr (s : State) (r : SvcId) (f : Keeper → Keeper) : (s.onKeeper r f).freeCtr = s.freeCtr := rfl
@[simp] theorem State.onKeeper_out (s : State) (r : SvcId) (f : Keeper → Keeper) : (s.onKeeper r f).out = s.out := rfl
@[simp] theorem State.onKeeper_events (s : State) (r : SvcId) (f : Keeper → Keeper) : (s.onKeeper r f).events = s.events := rfl
@[simp] theorem State.onKeeper_pending (s : State) (r : SvcId) (f : Keeper → Keeper) : (s.onKeeper r f).pending = s.pending := rfl

/-! ### State.onRing -/

@[simp] theorem State.onRing_params (s : State) (r : SvcId) (f : RingBlock → RingBlock) : (s.onRing r f).params = s.params := rfl
@[simp] theorem State.onRing_pins (s : State) (r : SvcId) (f : RingBlock → RingBlock) : (s.onRing r f).pins = s.pins := rfl
@[simp] theorem State.onRing_alerts (s : State) (r : SvcId) (f : RingBlock → RingBlock) : (s.onRing r f).alerts = s.alerts := rfl
@[simp] theorem State.onRing_windows (s : State) (r : SvcId) (f : RingBlock → RingBlock) : (s.onRing r f).windows = s.windows := rfl
@[simp] theorem State.onRing_isl (s : State) (r : SvcId) (f : RingBlock → RingBlock) : (s.onRing r f).isl = s.isl := rfl
@[simp] theorem State.onRing_iso (s : State) (r : SvcId) (f : RingBlock → RingBlock) : (s.onRing r f).iso = s.iso := rfl
@[simp] theorem State.onRing_mer (s : State) (r : SvcId) (f : RingBlock → RingBlock) : (s.onRing r f).mer = s.mer := rfl
@[simp] theorem State.onRing_meas (s : State) (r : SvcId) (f : RingBlock → RingBlock) : (s.onRing r f).meas = s.meas := rfl
@[simp] theorem State.onRing_epochCtr (s : State) (r : SvcId) (f : RingBlock → RingBlock) : (s.onRing r f).epochCtr = s.epochCtr := rfl
@[simp] theorem State.onRing_reach (s : State) (r : SvcId) (f : RingBlock → RingBlock) : (s.onRing r f).reach = s.reach := rfl
@[simp] theorem State.onRing_barge (s : State) (r : SvcId) (f : RingBlock → RingBlock) : (s.onRing r f).barge = s.barge := rfl
@[simp] theorem State.onRing_spareClock (s : State) (r : SvcId) (f : RingBlock → RingBlock) : (s.onRing r f).spareClock = s.spareClock := rfl
@[simp] theorem State.onRing_basin (s : State) (r : SvcId) (f : RingBlock → RingBlock) : (s.onRing r f).basin = s.basin := rfl
@[simp] theorem State.onRing_port (s : State) (r : SvcId) (f : RingBlock → RingBlock) : (s.onRing r f).port = s.port := rfl
@[simp] theorem State.onRing_twPkg (s : State) (r : SvcId) (f : RingBlock → RingBlock) : (s.onRing r f).twPkg = s.twPkg := rfl
@[simp] theorem State.onRing_loader (s : State) (r : SvcId) (f : RingBlock → RingBlock) : (s.onRing r f).loader = s.loader := rfl
@[simp] theorem State.onRing_keeper (s : State) (r : SvcId) (f : RingBlock → RingBlock) : (s.onRing r f).keeper = s.keeper := rfl
@[simp] theorem State.onRing_ring (s : State) (r : SvcId) (f : RingBlock → RingBlock) : (s.onRing r f).ring = upd s.ring r f := rfl
@[simp] theorem State.onRing_sys (s : State) (r : SvcId) (f : RingBlock → RingBlock) : (s.onRing r f).sys = s.sys := rfl
@[simp] theorem State.onRing_eph (s : State) (r : SvcId) (f : RingBlock → RingBlock) : (s.onRing r f).eph = s.eph := rfl
@[simp] theorem State.onRing_ast (s : State) (r : SvcId) (f : RingBlock → RingBlock) : (s.onRing r f).ast = s.ast := rfl
@[simp] theorem State.onRing_alm (s : State) (r : SvcId) (f : RingBlock → RingBlock) : (s.onRing r f).alm = s.alm := rfl
@[simp] theorem State.onRing_stc (s : State) (r : SvcId) (f : RingBlock → RingBlock) : (s.onRing r f).stc = s.stc := rfl
@[simp] theorem State.onRing_twp (s : State) (r : SvcId) (f : RingBlock → RingBlock) : (s.onRing r f).twp = s.twp := rfl
@[simp] theorem State.onRing_slu (s : State) (r : SvcId) (f : RingBlock → RingBlock) : (s.onRing r f).slu = s.slu := rfl
@[simp] theorem State.onRing_link (s : State) (r : SvcId) (f : RingBlock → RingBlock) : (s.onRing r f).link = s.link := rfl
@[simp] theorem State.onRing_spdm (s : State) (r : SvcId) (f : RingBlock → RingBlock) : (s.onRing r f).spdm = s.spdm := rfl
@[simp] theorem State.onRing_eye (s : State) (r : SvcId) (f : RingBlock → RingBlock) : (s.onRing r f).eye = s.eye := rfl
@[simp] theorem State.onRing_col (s : State) (r : SvcId) (f : RingBlock → RingBlock) : (s.onRing r f).col = s.col := rfl
@[simp] theorem State.onRing_chr (s : State) (r : SvcId) (f : RingBlock → RingBlock) : (s.onRing r f).chr = s.chr := rfl
@[simp] theorem State.onRing_flight (s : State) (r : SvcId) (f : RingBlock → RingBlock) : (s.onRing r f).flight = s.flight := rfl
@[simp] theorem State.onRing_freeCtr (s : State) (r : SvcId) (f : RingBlock → RingBlock) : (s.onRing r f).freeCtr = s.freeCtr := rfl
@[simp] theorem State.onRing_out (s : State) (r : SvcId) (f : RingBlock → RingBlock) : (s.onRing r f).out = s.out := rfl
@[simp] theorem State.onRing_events (s : State) (r : SvcId) (f : RingBlock → RingBlock) : (s.onRing r f).events = s.events := rfl
@[simp] theorem State.onRing_pending (s : State) (r : SvcId) (f : RingBlock → RingBlock) : (s.onRing r f).pending = s.pending := rfl

/-! ### State.onLink -/

@[simp] theorem State.onLink_params (s : State) (l : LinkId) (f : Link → Link) : (s.onLink l f).params = s.params := rfl
@[simp] theorem State.onLink_pins (s : State) (l : LinkId) (f : Link → Link) : (s.onLink l f).pins = s.pins := rfl
@[simp] theorem State.onLink_alerts (s : State) (l : LinkId) (f : Link → Link) : (s.onLink l f).alerts = s.alerts := rfl
@[simp] theorem State.onLink_windows (s : State) (l : LinkId) (f : Link → Link) : (s.onLink l f).windows = s.windows := rfl
@[simp] theorem State.onLink_isl (s : State) (l : LinkId) (f : Link → Link) : (s.onLink l f).isl = s.isl := rfl
@[simp] theorem State.onLink_iso (s : State) (l : LinkId) (f : Link → Link) : (s.onLink l f).iso = s.iso := rfl
@[simp] theorem State.onLink_mer (s : State) (l : LinkId) (f : Link → Link) : (s.onLink l f).mer = s.mer := rfl
@[simp] theorem State.onLink_meas (s : State) (l : LinkId) (f : Link → Link) : (s.onLink l f).meas = s.meas := rfl
@[simp] theorem State.onLink_epochCtr (s : State) (l : LinkId) (f : Link → Link) : (s.onLink l f).epochCtr = s.epochCtr := rfl
@[simp] theorem State.onLink_reach (s : State) (l : LinkId) (f : Link → Link) : (s.onLink l f).reach = s.reach := rfl
@[simp] theorem State.onLink_barge (s : State) (l : LinkId) (f : Link → Link) : (s.onLink l f).barge = s.barge := rfl
@[simp] theorem State.onLink_spareClock (s : State) (l : LinkId) (f : Link → Link) : (s.onLink l f).spareClock = s.spareClock := rfl
@[simp] theorem State.onLink_basin (s : State) (l : LinkId) (f : Link → Link) : (s.onLink l f).basin = s.basin := rfl
@[simp] theorem State.onLink_port (s : State) (l : LinkId) (f : Link → Link) : (s.onLink l f).port = s.port := rfl
@[simp] theorem State.onLink_twPkg (s : State) (l : LinkId) (f : Link → Link) : (s.onLink l f).twPkg = s.twPkg := rfl
@[simp] theorem State.onLink_loader (s : State) (l : LinkId) (f : Link → Link) : (s.onLink l f).loader = s.loader := rfl
@[simp] theorem State.onLink_keeper (s : State) (l : LinkId) (f : Link → Link) : (s.onLink l f).keeper = s.keeper := rfl
@[simp] theorem State.onLink_ring (s : State) (l : LinkId) (f : Link → Link) : (s.onLink l f).ring = s.ring := rfl
@[simp] theorem State.onLink_sys (s : State) (l : LinkId) (f : Link → Link) : (s.onLink l f).sys = s.sys := rfl
@[simp] theorem State.onLink_eph (s : State) (l : LinkId) (f : Link → Link) : (s.onLink l f).eph = s.eph := rfl
@[simp] theorem State.onLink_ast (s : State) (l : LinkId) (f : Link → Link) : (s.onLink l f).ast = s.ast := rfl
@[simp] theorem State.onLink_alm (s : State) (l : LinkId) (f : Link → Link) : (s.onLink l f).alm = s.alm := rfl
@[simp] theorem State.onLink_stc (s : State) (l : LinkId) (f : Link → Link) : (s.onLink l f).stc = s.stc := rfl
@[simp] theorem State.onLink_twp (s : State) (l : LinkId) (f : Link → Link) : (s.onLink l f).twp = s.twp := rfl
@[simp] theorem State.onLink_slu (s : State) (l : LinkId) (f : Link → Link) : (s.onLink l f).slu = s.slu := rfl
@[simp] theorem State.onLink_link (s : State) (l : LinkId) (f : Link → Link) : (s.onLink l f).link = upd s.link l f := rfl
@[simp] theorem State.onLink_spdm (s : State) (l : LinkId) (f : Link → Link) : (s.onLink l f).spdm = s.spdm := rfl
@[simp] theorem State.onLink_eye (s : State) (l : LinkId) (f : Link → Link) : (s.onLink l f).eye = s.eye := rfl
@[simp] theorem State.onLink_col (s : State) (l : LinkId) (f : Link → Link) : (s.onLink l f).col = s.col := rfl
@[simp] theorem State.onLink_chr (s : State) (l : LinkId) (f : Link → Link) : (s.onLink l f).chr = s.chr := rfl
@[simp] theorem State.onLink_flight (s : State) (l : LinkId) (f : Link → Link) : (s.onLink l f).flight = s.flight := rfl
@[simp] theorem State.onLink_freeCtr (s : State) (l : LinkId) (f : Link → Link) : (s.onLink l f).freeCtr = s.freeCtr := rfl
@[simp] theorem State.onLink_out (s : State) (l : LinkId) (f : Link → Link) : (s.onLink l f).out = s.out := rfl
@[simp] theorem State.onLink_events (s : State) (l : LinkId) (f : Link → Link) : (s.onLink l f).events = s.events := rfl
@[simp] theorem State.onLink_pending (s : State) (l : LinkId) (f : Link → Link) : (s.onLink l f).pending = s.pending := rfl

/-! ### State.onMer -/

@[simp] theorem State.onMer_params (s : State) (f : Meridian → Meridian) : (s.onMer f).params = s.params := rfl
@[simp] theorem State.onMer_pins (s : State) (f : Meridian → Meridian) : (s.onMer f).pins = s.pins := rfl
@[simp] theorem State.onMer_alerts (s : State) (f : Meridian → Meridian) : (s.onMer f).alerts = s.alerts := rfl
@[simp] theorem State.onMer_windows (s : State) (f : Meridian → Meridian) : (s.onMer f).windows = s.windows := rfl
@[simp] theorem State.onMer_isl (s : State) (f : Meridian → Meridian) : (s.onMer f).isl = s.isl := rfl
@[simp] theorem State.onMer_iso (s : State) (f : Meridian → Meridian) : (s.onMer f).iso = s.iso := rfl
@[simp] theorem State.onMer_mer (s : State) (f : Meridian → Meridian) : (s.onMer f).mer = f s.mer := rfl
@[simp] theorem State.onMer_meas (s : State) (f : Meridian → Meridian) : (s.onMer f).meas = s.meas := rfl
@[simp] theorem State.onMer_epochCtr (s : State) (f : Meridian → Meridian) : (s.onMer f).epochCtr = s.epochCtr := rfl
@[simp] theorem State.onMer_reach (s : State) (f : Meridian → Meridian) : (s.onMer f).reach = s.reach := rfl
@[simp] theorem State.onMer_barge (s : State) (f : Meridian → Meridian) : (s.onMer f).barge = s.barge := rfl
@[simp] theorem State.onMer_spareClock (s : State) (f : Meridian → Meridian) : (s.onMer f).spareClock = s.spareClock := rfl
@[simp] theorem State.onMer_basin (s : State) (f : Meridian → Meridian) : (s.onMer f).basin = s.basin := rfl
@[simp] theorem State.onMer_port (s : State) (f : Meridian → Meridian) : (s.onMer f).port = s.port := rfl
@[simp] theorem State.onMer_twPkg (s : State) (f : Meridian → Meridian) : (s.onMer f).twPkg = s.twPkg := rfl
@[simp] theorem State.onMer_loader (s : State) (f : Meridian → Meridian) : (s.onMer f).loader = s.loader := rfl
@[simp] theorem State.onMer_keeper (s : State) (f : Meridian → Meridian) : (s.onMer f).keeper = s.keeper := rfl
@[simp] theorem State.onMer_ring (s : State) (f : Meridian → Meridian) : (s.onMer f).ring = s.ring := rfl
@[simp] theorem State.onMer_sys (s : State) (f : Meridian → Meridian) : (s.onMer f).sys = s.sys := rfl
@[simp] theorem State.onMer_eph (s : State) (f : Meridian → Meridian) : (s.onMer f).eph = s.eph := rfl
@[simp] theorem State.onMer_ast (s : State) (f : Meridian → Meridian) : (s.onMer f).ast = s.ast := rfl
@[simp] theorem State.onMer_alm (s : State) (f : Meridian → Meridian) : (s.onMer f).alm = s.alm := rfl
@[simp] theorem State.onMer_stc (s : State) (f : Meridian → Meridian) : (s.onMer f).stc = s.stc := rfl
@[simp] theorem State.onMer_twp (s : State) (f : Meridian → Meridian) : (s.onMer f).twp = s.twp := rfl
@[simp] theorem State.onMer_slu (s : State) (f : Meridian → Meridian) : (s.onMer f).slu = s.slu := rfl
@[simp] theorem State.onMer_link (s : State) (f : Meridian → Meridian) : (s.onMer f).link = s.link := rfl
@[simp] theorem State.onMer_spdm (s : State) (f : Meridian → Meridian) : (s.onMer f).spdm = s.spdm := rfl
@[simp] theorem State.onMer_eye (s : State) (f : Meridian → Meridian) : (s.onMer f).eye = s.eye := rfl
@[simp] theorem State.onMer_col (s : State) (f : Meridian → Meridian) : (s.onMer f).col = s.col := rfl
@[simp] theorem State.onMer_chr (s : State) (f : Meridian → Meridian) : (s.onMer f).chr = s.chr := rfl
@[simp] theorem State.onMer_flight (s : State) (f : Meridian → Meridian) : (s.onMer f).flight = s.flight := rfl
@[simp] theorem State.onMer_freeCtr (s : State) (f : Meridian → Meridian) : (s.onMer f).freeCtr = s.freeCtr := rfl
@[simp] theorem State.onMer_out (s : State) (f : Meridian → Meridian) : (s.onMer f).out = s.out := rfl
@[simp] theorem State.onMer_events (s : State) (f : Meridian → Meridian) : (s.onMer f).events = s.events := rfl
@[simp] theorem State.onMer_pending (s : State) (f : Meridian → Meridian) : (s.onMer f).pending = s.pending := rfl

/-! ### State.onSys -/

@[simp] theorem State.onSys_params (s : State) (f : SysPort → SysPort) : (s.onSys f).params = s.params := rfl
@[simp] theorem State.onSys_pins (s : State) (f : SysPort → SysPort) : (s.onSys f).pins = s.pins := rfl
@[simp] theorem State.onSys_alerts (s : State) (f : SysPort → SysPort) : (s.onSys f).alerts = s.alerts := rfl
@[simp] theorem State.onSys_windows (s : State) (f : SysPort → SysPort) : (s.onSys f).windows = s.windows := rfl
@[simp] theorem State.onSys_isl (s : State) (f : SysPort → SysPort) : (s.onSys f).isl = s.isl := rfl
@[simp] theorem State.onSys_iso (s : State) (f : SysPort → SysPort) : (s.onSys f).iso = s.iso := rfl
@[simp] theorem State.onSys_mer (s : State) (f : SysPort → SysPort) : (s.onSys f).mer = s.mer := rfl
@[simp] theorem State.onSys_meas (s : State) (f : SysPort → SysPort) : (s.onSys f).meas = s.meas := rfl
@[simp] theorem State.onSys_epochCtr (s : State) (f : SysPort → SysPort) : (s.onSys f).epochCtr = s.epochCtr := rfl
@[simp] theorem State.onSys_reach (s : State) (f : SysPort → SysPort) : (s.onSys f).reach = s.reach := rfl
@[simp] theorem State.onSys_barge (s : State) (f : SysPort → SysPort) : (s.onSys f).barge = s.barge := rfl
@[simp] theorem State.onSys_spareClock (s : State) (f : SysPort → SysPort) : (s.onSys f).spareClock = s.spareClock := rfl
@[simp] theorem State.onSys_basin (s : State) (f : SysPort → SysPort) : (s.onSys f).basin = s.basin := rfl
@[simp] theorem State.onSys_port (s : State) (f : SysPort → SysPort) : (s.onSys f).port = s.port := rfl
@[simp] theorem State.onSys_twPkg (s : State) (f : SysPort → SysPort) : (s.onSys f).twPkg = s.twPkg := rfl
@[simp] theorem State.onSys_loader (s : State) (f : SysPort → SysPort) : (s.onSys f).loader = s.loader := rfl
@[simp] theorem State.onSys_keeper (s : State) (f : SysPort → SysPort) : (s.onSys f).keeper = s.keeper := rfl
@[simp] theorem State.onSys_ring (s : State) (f : SysPort → SysPort) : (s.onSys f).ring = s.ring := rfl
@[simp] theorem State.onSys_sys (s : State) (f : SysPort → SysPort) : (s.onSys f).sys = f s.sys := rfl
@[simp] theorem State.onSys_eph (s : State) (f : SysPort → SysPort) : (s.onSys f).eph = s.eph := rfl
@[simp] theorem State.onSys_ast (s : State) (f : SysPort → SysPort) : (s.onSys f).ast = s.ast := rfl
@[simp] theorem State.onSys_alm (s : State) (f : SysPort → SysPort) : (s.onSys f).alm = s.alm := rfl
@[simp] theorem State.onSys_stc (s : State) (f : SysPort → SysPort) : (s.onSys f).stc = s.stc := rfl
@[simp] theorem State.onSys_twp (s : State) (f : SysPort → SysPort) : (s.onSys f).twp = s.twp := rfl
@[simp] theorem State.onSys_slu (s : State) (f : SysPort → SysPort) : (s.onSys f).slu = s.slu := rfl
@[simp] theorem State.onSys_link (s : State) (f : SysPort → SysPort) : (s.onSys f).link = s.link := rfl
@[simp] theorem State.onSys_spdm (s : State) (f : SysPort → SysPort) : (s.onSys f).spdm = s.spdm := rfl
@[simp] theorem State.onSys_eye (s : State) (f : SysPort → SysPort) : (s.onSys f).eye = s.eye := rfl
@[simp] theorem State.onSys_col (s : State) (f : SysPort → SysPort) : (s.onSys f).col = s.col := rfl
@[simp] theorem State.onSys_chr (s : State) (f : SysPort → SysPort) : (s.onSys f).chr = s.chr := rfl
@[simp] theorem State.onSys_flight (s : State) (f : SysPort → SysPort) : (s.onSys f).flight = s.flight := rfl
@[simp] theorem State.onSys_freeCtr (s : State) (f : SysPort → SysPort) : (s.onSys f).freeCtr = s.freeCtr := rfl
@[simp] theorem State.onSys_out (s : State) (f : SysPort → SysPort) : (s.onSys f).out = s.out := rfl
@[simp] theorem State.onSys_events (s : State) (f : SysPort → SysPort) : (s.onSys f).events = s.events := rfl
@[simp] theorem State.onSys_pending (s : State) (f : SysPort → SysPort) : (s.onSys f).pending = s.pending := rfl

/-! ### State.onEph -/

@[simp] theorem State.onEph_params (s : State) (f : Ephemeris → Ephemeris) : (s.onEph f).params = s.params := rfl
@[simp] theorem State.onEph_pins (s : State) (f : Ephemeris → Ephemeris) : (s.onEph f).pins = s.pins := rfl
@[simp] theorem State.onEph_alerts (s : State) (f : Ephemeris → Ephemeris) : (s.onEph f).alerts = s.alerts := rfl
@[simp] theorem State.onEph_windows (s : State) (f : Ephemeris → Ephemeris) : (s.onEph f).windows = s.windows := rfl
@[simp] theorem State.onEph_isl (s : State) (f : Ephemeris → Ephemeris) : (s.onEph f).isl = s.isl := rfl
@[simp] theorem State.onEph_iso (s : State) (f : Ephemeris → Ephemeris) : (s.onEph f).iso = s.iso := rfl
@[simp] theorem State.onEph_mer (s : State) (f : Ephemeris → Ephemeris) : (s.onEph f).mer = s.mer := rfl
@[simp] theorem State.onEph_meas (s : State) (f : Ephemeris → Ephemeris) : (s.onEph f).meas = s.meas := rfl
@[simp] theorem State.onEph_epochCtr (s : State) (f : Ephemeris → Ephemeris) : (s.onEph f).epochCtr = s.epochCtr := rfl
@[simp] theorem State.onEph_reach (s : State) (f : Ephemeris → Ephemeris) : (s.onEph f).reach = s.reach := rfl
@[simp] theorem State.onEph_barge (s : State) (f : Ephemeris → Ephemeris) : (s.onEph f).barge = s.barge := rfl
@[simp] theorem State.onEph_spareClock (s : State) (f : Ephemeris → Ephemeris) : (s.onEph f).spareClock = s.spareClock := rfl
@[simp] theorem State.onEph_basin (s : State) (f : Ephemeris → Ephemeris) : (s.onEph f).basin = s.basin := rfl
@[simp] theorem State.onEph_port (s : State) (f : Ephemeris → Ephemeris) : (s.onEph f).port = s.port := rfl
@[simp] theorem State.onEph_twPkg (s : State) (f : Ephemeris → Ephemeris) : (s.onEph f).twPkg = s.twPkg := rfl
@[simp] theorem State.onEph_loader (s : State) (f : Ephemeris → Ephemeris) : (s.onEph f).loader = s.loader := rfl
@[simp] theorem State.onEph_keeper (s : State) (f : Ephemeris → Ephemeris) : (s.onEph f).keeper = s.keeper := rfl
@[simp] theorem State.onEph_ring (s : State) (f : Ephemeris → Ephemeris) : (s.onEph f).ring = s.ring := rfl
@[simp] theorem State.onEph_sys (s : State) (f : Ephemeris → Ephemeris) : (s.onEph f).sys = s.sys := rfl
@[simp] theorem State.onEph_eph (s : State) (f : Ephemeris → Ephemeris) : (s.onEph f).eph = f s.eph := rfl
@[simp] theorem State.onEph_ast (s : State) (f : Ephemeris → Ephemeris) : (s.onEph f).ast = s.ast := rfl
@[simp] theorem State.onEph_alm (s : State) (f : Ephemeris → Ephemeris) : (s.onEph f).alm = s.alm := rfl
@[simp] theorem State.onEph_stc (s : State) (f : Ephemeris → Ephemeris) : (s.onEph f).stc = s.stc := rfl
@[simp] theorem State.onEph_twp (s : State) (f : Ephemeris → Ephemeris) : (s.onEph f).twp = s.twp := rfl
@[simp] theorem State.onEph_slu (s : State) (f : Ephemeris → Ephemeris) : (s.onEph f).slu = s.slu := rfl
@[simp] theorem State.onEph_link (s : State) (f : Ephemeris → Ephemeris) : (s.onEph f).link = s.link := rfl
@[simp] theorem State.onEph_spdm (s : State) (f : Ephemeris → Ephemeris) : (s.onEph f).spdm = s.spdm := rfl
@[simp] theorem State.onEph_eye (s : State) (f : Ephemeris → Ephemeris) : (s.onEph f).eye = s.eye := rfl
@[simp] theorem State.onEph_col (s : State) (f : Ephemeris → Ephemeris) : (s.onEph f).col = s.col := rfl
@[simp] theorem State.onEph_chr (s : State) (f : Ephemeris → Ephemeris) : (s.onEph f).chr = s.chr := rfl
@[simp] theorem State.onEph_flight (s : State) (f : Ephemeris → Ephemeris) : (s.onEph f).flight = s.flight := rfl
@[simp] theorem State.onEph_freeCtr (s : State) (f : Ephemeris → Ephemeris) : (s.onEph f).freeCtr = s.freeCtr := rfl
@[simp] theorem State.onEph_out (s : State) (f : Ephemeris → Ephemeris) : (s.onEph f).out = s.out := rfl
@[simp] theorem State.onEph_events (s : State) (f : Ephemeris → Ephemeris) : (s.onEph f).events = s.events := rfl
@[simp] theorem State.onEph_pending (s : State) (f : Ephemeris → Ephemeris) : (s.onEph f).pending = s.pending := rfl

/-! ### State.onAst -/

@[simp] theorem State.onAst_params (s : State) (f : Astrolabe → Astrolabe) : (s.onAst f).params = s.params := rfl
@[simp] theorem State.onAst_pins (s : State) (f : Astrolabe → Astrolabe) : (s.onAst f).pins = s.pins := rfl
@[simp] theorem State.onAst_alerts (s : State) (f : Astrolabe → Astrolabe) : (s.onAst f).alerts = s.alerts := rfl
@[simp] theorem State.onAst_windows (s : State) (f : Astrolabe → Astrolabe) : (s.onAst f).windows = s.windows := rfl
@[simp] theorem State.onAst_isl (s : State) (f : Astrolabe → Astrolabe) : (s.onAst f).isl = s.isl := rfl
@[simp] theorem State.onAst_iso (s : State) (f : Astrolabe → Astrolabe) : (s.onAst f).iso = s.iso := rfl
@[simp] theorem State.onAst_mer (s : State) (f : Astrolabe → Astrolabe) : (s.onAst f).mer = s.mer := rfl
@[simp] theorem State.onAst_meas (s : State) (f : Astrolabe → Astrolabe) : (s.onAst f).meas = s.meas := rfl
@[simp] theorem State.onAst_epochCtr (s : State) (f : Astrolabe → Astrolabe) : (s.onAst f).epochCtr = s.epochCtr := rfl
@[simp] theorem State.onAst_reach (s : State) (f : Astrolabe → Astrolabe) : (s.onAst f).reach = s.reach := rfl
@[simp] theorem State.onAst_barge (s : State) (f : Astrolabe → Astrolabe) : (s.onAst f).barge = s.barge := rfl
@[simp] theorem State.onAst_spareClock (s : State) (f : Astrolabe → Astrolabe) : (s.onAst f).spareClock = s.spareClock := rfl
@[simp] theorem State.onAst_basin (s : State) (f : Astrolabe → Astrolabe) : (s.onAst f).basin = s.basin := rfl
@[simp] theorem State.onAst_port (s : State) (f : Astrolabe → Astrolabe) : (s.onAst f).port = s.port := rfl
@[simp] theorem State.onAst_twPkg (s : State) (f : Astrolabe → Astrolabe) : (s.onAst f).twPkg = s.twPkg := rfl
@[simp] theorem State.onAst_loader (s : State) (f : Astrolabe → Astrolabe) : (s.onAst f).loader = s.loader := rfl
@[simp] theorem State.onAst_keeper (s : State) (f : Astrolabe → Astrolabe) : (s.onAst f).keeper = s.keeper := rfl
@[simp] theorem State.onAst_ring (s : State) (f : Astrolabe → Astrolabe) : (s.onAst f).ring = s.ring := rfl
@[simp] theorem State.onAst_sys (s : State) (f : Astrolabe → Astrolabe) : (s.onAst f).sys = s.sys := rfl
@[simp] theorem State.onAst_eph (s : State) (f : Astrolabe → Astrolabe) : (s.onAst f).eph = s.eph := rfl
@[simp] theorem State.onAst_ast (s : State) (f : Astrolabe → Astrolabe) : (s.onAst f).ast = f s.ast := rfl
@[simp] theorem State.onAst_alm (s : State) (f : Astrolabe → Astrolabe) : (s.onAst f).alm = s.alm := rfl
@[simp] theorem State.onAst_stc (s : State) (f : Astrolabe → Astrolabe) : (s.onAst f).stc = s.stc := rfl
@[simp] theorem State.onAst_twp (s : State) (f : Astrolabe → Astrolabe) : (s.onAst f).twp = s.twp := rfl
@[simp] theorem State.onAst_slu (s : State) (f : Astrolabe → Astrolabe) : (s.onAst f).slu = s.slu := rfl
@[simp] theorem State.onAst_link (s : State) (f : Astrolabe → Astrolabe) : (s.onAst f).link = s.link := rfl
@[simp] theorem State.onAst_spdm (s : State) (f : Astrolabe → Astrolabe) : (s.onAst f).spdm = s.spdm := rfl
@[simp] theorem State.onAst_eye (s : State) (f : Astrolabe → Astrolabe) : (s.onAst f).eye = s.eye := rfl
@[simp] theorem State.onAst_col (s : State) (f : Astrolabe → Astrolabe) : (s.onAst f).col = s.col := rfl
@[simp] theorem State.onAst_chr (s : State) (f : Astrolabe → Astrolabe) : (s.onAst f).chr = s.chr := rfl
@[simp] theorem State.onAst_flight (s : State) (f : Astrolabe → Astrolabe) : (s.onAst f).flight = s.flight := rfl
@[simp] theorem State.onAst_freeCtr (s : State) (f : Astrolabe → Astrolabe) : (s.onAst f).freeCtr = s.freeCtr := rfl
@[simp] theorem State.onAst_out (s : State) (f : Astrolabe → Astrolabe) : (s.onAst f).out = s.out := rfl
@[simp] theorem State.onAst_events (s : State) (f : Astrolabe → Astrolabe) : (s.onAst f).events = s.events := rfl
@[simp] theorem State.onAst_pending (s : State) (f : Astrolabe → Astrolabe) : (s.onAst f).pending = s.pending := rfl

/-! ### State.onAlm -/

@[simp] theorem State.onAlm_params (s : State) (f : Almanac → Almanac) : (s.onAlm f).params = s.params := rfl
@[simp] theorem State.onAlm_pins (s : State) (f : Almanac → Almanac) : (s.onAlm f).pins = s.pins := rfl
@[simp] theorem State.onAlm_alerts (s : State) (f : Almanac → Almanac) : (s.onAlm f).alerts = s.alerts := rfl
@[simp] theorem State.onAlm_windows (s : State) (f : Almanac → Almanac) : (s.onAlm f).windows = s.windows := rfl
@[simp] theorem State.onAlm_isl (s : State) (f : Almanac → Almanac) : (s.onAlm f).isl = s.isl := rfl
@[simp] theorem State.onAlm_iso (s : State) (f : Almanac → Almanac) : (s.onAlm f).iso = s.iso := rfl
@[simp] theorem State.onAlm_mer (s : State) (f : Almanac → Almanac) : (s.onAlm f).mer = s.mer := rfl
@[simp] theorem State.onAlm_meas (s : State) (f : Almanac → Almanac) : (s.onAlm f).meas = s.meas := rfl
@[simp] theorem State.onAlm_epochCtr (s : State) (f : Almanac → Almanac) : (s.onAlm f).epochCtr = s.epochCtr := rfl
@[simp] theorem State.onAlm_reach (s : State) (f : Almanac → Almanac) : (s.onAlm f).reach = s.reach := rfl
@[simp] theorem State.onAlm_barge (s : State) (f : Almanac → Almanac) : (s.onAlm f).barge = s.barge := rfl
@[simp] theorem State.onAlm_spareClock (s : State) (f : Almanac → Almanac) : (s.onAlm f).spareClock = s.spareClock := rfl
@[simp] theorem State.onAlm_basin (s : State) (f : Almanac → Almanac) : (s.onAlm f).basin = s.basin := rfl
@[simp] theorem State.onAlm_port (s : State) (f : Almanac → Almanac) : (s.onAlm f).port = s.port := rfl
@[simp] theorem State.onAlm_twPkg (s : State) (f : Almanac → Almanac) : (s.onAlm f).twPkg = s.twPkg := rfl
@[simp] theorem State.onAlm_loader (s : State) (f : Almanac → Almanac) : (s.onAlm f).loader = s.loader := rfl
@[simp] theorem State.onAlm_keeper (s : State) (f : Almanac → Almanac) : (s.onAlm f).keeper = s.keeper := rfl
@[simp] theorem State.onAlm_ring (s : State) (f : Almanac → Almanac) : (s.onAlm f).ring = s.ring := rfl
@[simp] theorem State.onAlm_sys (s : State) (f : Almanac → Almanac) : (s.onAlm f).sys = s.sys := rfl
@[simp] theorem State.onAlm_eph (s : State) (f : Almanac → Almanac) : (s.onAlm f).eph = s.eph := rfl
@[simp] theorem State.onAlm_ast (s : State) (f : Almanac → Almanac) : (s.onAlm f).ast = s.ast := rfl
@[simp] theorem State.onAlm_alm (s : State) (f : Almanac → Almanac) : (s.onAlm f).alm = f s.alm := rfl
@[simp] theorem State.onAlm_stc (s : State) (f : Almanac → Almanac) : (s.onAlm f).stc = s.stc := rfl
@[simp] theorem State.onAlm_twp (s : State) (f : Almanac → Almanac) : (s.onAlm f).twp = s.twp := rfl
@[simp] theorem State.onAlm_slu (s : State) (f : Almanac → Almanac) : (s.onAlm f).slu = s.slu := rfl
@[simp] theorem State.onAlm_link (s : State) (f : Almanac → Almanac) : (s.onAlm f).link = s.link := rfl
@[simp] theorem State.onAlm_spdm (s : State) (f : Almanac → Almanac) : (s.onAlm f).spdm = s.spdm := rfl
@[simp] theorem State.onAlm_eye (s : State) (f : Almanac → Almanac) : (s.onAlm f).eye = s.eye := rfl
@[simp] theorem State.onAlm_col (s : State) (f : Almanac → Almanac) : (s.onAlm f).col = s.col := rfl
@[simp] theorem State.onAlm_chr (s : State) (f : Almanac → Almanac) : (s.onAlm f).chr = s.chr := rfl
@[simp] theorem State.onAlm_flight (s : State) (f : Almanac → Almanac) : (s.onAlm f).flight = s.flight := rfl
@[simp] theorem State.onAlm_freeCtr (s : State) (f : Almanac → Almanac) : (s.onAlm f).freeCtr = s.freeCtr := rfl
@[simp] theorem State.onAlm_out (s : State) (f : Almanac → Almanac) : (s.onAlm f).out = s.out := rfl
@[simp] theorem State.onAlm_events (s : State) (f : Almanac → Almanac) : (s.onAlm f).events = s.events := rfl
@[simp] theorem State.onAlm_pending (s : State) (f : Almanac → Almanac) : (s.onAlm f).pending = s.pending := rfl

/-! ### State.onStc -/

@[simp] theorem State.onStc_params (s : State) (f : Staircase → Staircase) : (s.onStc f).params = s.params := rfl
@[simp] theorem State.onStc_pins (s : State) (f : Staircase → Staircase) : (s.onStc f).pins = s.pins := rfl
@[simp] theorem State.onStc_alerts (s : State) (f : Staircase → Staircase) : (s.onStc f).alerts = s.alerts := rfl
@[simp] theorem State.onStc_windows (s : State) (f : Staircase → Staircase) : (s.onStc f).windows = s.windows := rfl
@[simp] theorem State.onStc_isl (s : State) (f : Staircase → Staircase) : (s.onStc f).isl = s.isl := rfl
@[simp] theorem State.onStc_iso (s : State) (f : Staircase → Staircase) : (s.onStc f).iso = s.iso := rfl
@[simp] theorem State.onStc_mer (s : State) (f : Staircase → Staircase) : (s.onStc f).mer = s.mer := rfl
@[simp] theorem State.onStc_meas (s : State) (f : Staircase → Staircase) : (s.onStc f).meas = s.meas := rfl
@[simp] theorem State.onStc_epochCtr (s : State) (f : Staircase → Staircase) : (s.onStc f).epochCtr = s.epochCtr := rfl
@[simp] theorem State.onStc_reach (s : State) (f : Staircase → Staircase) : (s.onStc f).reach = s.reach := rfl
@[simp] theorem State.onStc_barge (s : State) (f : Staircase → Staircase) : (s.onStc f).barge = s.barge := rfl
@[simp] theorem State.onStc_spareClock (s : State) (f : Staircase → Staircase) : (s.onStc f).spareClock = s.spareClock := rfl
@[simp] theorem State.onStc_basin (s : State) (f : Staircase → Staircase) : (s.onStc f).basin = s.basin := rfl
@[simp] theorem State.onStc_port (s : State) (f : Staircase → Staircase) : (s.onStc f).port = s.port := rfl
@[simp] theorem State.onStc_twPkg (s : State) (f : Staircase → Staircase) : (s.onStc f).twPkg = s.twPkg := rfl
@[simp] theorem State.onStc_loader (s : State) (f : Staircase → Staircase) : (s.onStc f).loader = s.loader := rfl
@[simp] theorem State.onStc_keeper (s : State) (f : Staircase → Staircase) : (s.onStc f).keeper = s.keeper := rfl
@[simp] theorem State.onStc_ring (s : State) (f : Staircase → Staircase) : (s.onStc f).ring = s.ring := rfl
@[simp] theorem State.onStc_sys (s : State) (f : Staircase → Staircase) : (s.onStc f).sys = s.sys := rfl
@[simp] theorem State.onStc_eph (s : State) (f : Staircase → Staircase) : (s.onStc f).eph = s.eph := rfl
@[simp] theorem State.onStc_ast (s : State) (f : Staircase → Staircase) : (s.onStc f).ast = s.ast := rfl
@[simp] theorem State.onStc_alm (s : State) (f : Staircase → Staircase) : (s.onStc f).alm = s.alm := rfl
@[simp] theorem State.onStc_stc (s : State) (f : Staircase → Staircase) : (s.onStc f).stc = f s.stc := rfl
@[simp] theorem State.onStc_twp (s : State) (f : Staircase → Staircase) : (s.onStc f).twp = s.twp := rfl
@[simp] theorem State.onStc_slu (s : State) (f : Staircase → Staircase) : (s.onStc f).slu = s.slu := rfl
@[simp] theorem State.onStc_link (s : State) (f : Staircase → Staircase) : (s.onStc f).link = s.link := rfl
@[simp] theorem State.onStc_spdm (s : State) (f : Staircase → Staircase) : (s.onStc f).spdm = s.spdm := rfl
@[simp] theorem State.onStc_eye (s : State) (f : Staircase → Staircase) : (s.onStc f).eye = s.eye := rfl
@[simp] theorem State.onStc_col (s : State) (f : Staircase → Staircase) : (s.onStc f).col = s.col := rfl
@[simp] theorem State.onStc_chr (s : State) (f : Staircase → Staircase) : (s.onStc f).chr = s.chr := rfl
@[simp] theorem State.onStc_flight (s : State) (f : Staircase → Staircase) : (s.onStc f).flight = s.flight := rfl
@[simp] theorem State.onStc_freeCtr (s : State) (f : Staircase → Staircase) : (s.onStc f).freeCtr = s.freeCtr := rfl
@[simp] theorem State.onStc_out (s : State) (f : Staircase → Staircase) : (s.onStc f).out = s.out := rfl
@[simp] theorem State.onStc_events (s : State) (f : Staircase → Staircase) : (s.onStc f).events = s.events := rfl
@[simp] theorem State.onStc_pending (s : State) (f : Staircase → Staircase) : (s.onStc f).pending = s.pending := rfl

/-! ### State.onTwp -/

@[simp] theorem State.onTwp_params (s : State) (f : Towpath → Towpath) : (s.onTwp f).params = s.params := rfl
@[simp] theorem State.onTwp_pins (s : State) (f : Towpath → Towpath) : (s.onTwp f).pins = s.pins := rfl
@[simp] theorem State.onTwp_alerts (s : State) (f : Towpath → Towpath) : (s.onTwp f).alerts = s.alerts := rfl
@[simp] theorem State.onTwp_windows (s : State) (f : Towpath → Towpath) : (s.onTwp f).windows = s.windows := rfl
@[simp] theorem State.onTwp_isl (s : State) (f : Towpath → Towpath) : (s.onTwp f).isl = s.isl := rfl
@[simp] theorem State.onTwp_iso (s : State) (f : Towpath → Towpath) : (s.onTwp f).iso = s.iso := rfl
@[simp] theorem State.onTwp_mer (s : State) (f : Towpath → Towpath) : (s.onTwp f).mer = s.mer := rfl
@[simp] theorem State.onTwp_meas (s : State) (f : Towpath → Towpath) : (s.onTwp f).meas = s.meas := rfl
@[simp] theorem State.onTwp_epochCtr (s : State) (f : Towpath → Towpath) : (s.onTwp f).epochCtr = s.epochCtr := rfl
@[simp] theorem State.onTwp_reach (s : State) (f : Towpath → Towpath) : (s.onTwp f).reach = s.reach := rfl
@[simp] theorem State.onTwp_barge (s : State) (f : Towpath → Towpath) : (s.onTwp f).barge = s.barge := rfl
@[simp] theorem State.onTwp_spareClock (s : State) (f : Towpath → Towpath) : (s.onTwp f).spareClock = s.spareClock := rfl
@[simp] theorem State.onTwp_basin (s : State) (f : Towpath → Towpath) : (s.onTwp f).basin = s.basin := rfl
@[simp] theorem State.onTwp_port (s : State) (f : Towpath → Towpath) : (s.onTwp f).port = s.port := rfl
@[simp] theorem State.onTwp_twPkg (s : State) (f : Towpath → Towpath) : (s.onTwp f).twPkg = s.twPkg := rfl
@[simp] theorem State.onTwp_loader (s : State) (f : Towpath → Towpath) : (s.onTwp f).loader = s.loader := rfl
@[simp] theorem State.onTwp_keeper (s : State) (f : Towpath → Towpath) : (s.onTwp f).keeper = s.keeper := rfl
@[simp] theorem State.onTwp_ring (s : State) (f : Towpath → Towpath) : (s.onTwp f).ring = s.ring := rfl
@[simp] theorem State.onTwp_sys (s : State) (f : Towpath → Towpath) : (s.onTwp f).sys = s.sys := rfl
@[simp] theorem State.onTwp_eph (s : State) (f : Towpath → Towpath) : (s.onTwp f).eph = s.eph := rfl
@[simp] theorem State.onTwp_ast (s : State) (f : Towpath → Towpath) : (s.onTwp f).ast = s.ast := rfl
@[simp] theorem State.onTwp_alm (s : State) (f : Towpath → Towpath) : (s.onTwp f).alm = s.alm := rfl
@[simp] theorem State.onTwp_stc (s : State) (f : Towpath → Towpath) : (s.onTwp f).stc = s.stc := rfl
@[simp] theorem State.onTwp_twp (s : State) (f : Towpath → Towpath) : (s.onTwp f).twp = f s.twp := rfl
@[simp] theorem State.onTwp_slu (s : State) (f : Towpath → Towpath) : (s.onTwp f).slu = s.slu := rfl
@[simp] theorem State.onTwp_link (s : State) (f : Towpath → Towpath) : (s.onTwp f).link = s.link := rfl
@[simp] theorem State.onTwp_spdm (s : State) (f : Towpath → Towpath) : (s.onTwp f).spdm = s.spdm := rfl
@[simp] theorem State.onTwp_eye (s : State) (f : Towpath → Towpath) : (s.onTwp f).eye = s.eye := rfl
@[simp] theorem State.onTwp_col (s : State) (f : Towpath → Towpath) : (s.onTwp f).col = s.col := rfl
@[simp] theorem State.onTwp_chr (s : State) (f : Towpath → Towpath) : (s.onTwp f).chr = s.chr := rfl
@[simp] theorem State.onTwp_flight (s : State) (f : Towpath → Towpath) : (s.onTwp f).flight = s.flight := rfl
@[simp] theorem State.onTwp_freeCtr (s : State) (f : Towpath → Towpath) : (s.onTwp f).freeCtr = s.freeCtr := rfl
@[simp] theorem State.onTwp_out (s : State) (f : Towpath → Towpath) : (s.onTwp f).out = s.out := rfl
@[simp] theorem State.onTwp_events (s : State) (f : Towpath → Towpath) : (s.onTwp f).events = s.events := rfl
@[simp] theorem State.onTwp_pending (s : State) (f : Towpath → Towpath) : (s.onTwp f).pending = s.pending := rfl

/-! ### State.onSlu -/

@[simp] theorem State.onSlu_params (s : State) (f : Sluice → Sluice) : (s.onSlu f).params = s.params := rfl
@[simp] theorem State.onSlu_pins (s : State) (f : Sluice → Sluice) : (s.onSlu f).pins = s.pins := rfl
@[simp] theorem State.onSlu_alerts (s : State) (f : Sluice → Sluice) : (s.onSlu f).alerts = s.alerts := rfl
@[simp] theorem State.onSlu_windows (s : State) (f : Sluice → Sluice) : (s.onSlu f).windows = s.windows := rfl
@[simp] theorem State.onSlu_isl (s : State) (f : Sluice → Sluice) : (s.onSlu f).isl = s.isl := rfl
@[simp] theorem State.onSlu_iso (s : State) (f : Sluice → Sluice) : (s.onSlu f).iso = s.iso := rfl
@[simp] theorem State.onSlu_mer (s : State) (f : Sluice → Sluice) : (s.onSlu f).mer = s.mer := rfl
@[simp] theorem State.onSlu_meas (s : State) (f : Sluice → Sluice) : (s.onSlu f).meas = s.meas := rfl
@[simp] theorem State.onSlu_epochCtr (s : State) (f : Sluice → Sluice) : (s.onSlu f).epochCtr = s.epochCtr := rfl
@[simp] theorem State.onSlu_reach (s : State) (f : Sluice → Sluice) : (s.onSlu f).reach = s.reach := rfl
@[simp] theorem State.onSlu_barge (s : State) (f : Sluice → Sluice) : (s.onSlu f).barge = s.barge := rfl
@[simp] theorem State.onSlu_spareClock (s : State) (f : Sluice → Sluice) : (s.onSlu f).spareClock = s.spareClock := rfl
@[simp] theorem State.onSlu_basin (s : State) (f : Sluice → Sluice) : (s.onSlu f).basin = s.basin := rfl
@[simp] theorem State.onSlu_port (s : State) (f : Sluice → Sluice) : (s.onSlu f).port = s.port := rfl
@[simp] theorem State.onSlu_twPkg (s : State) (f : Sluice → Sluice) : (s.onSlu f).twPkg = s.twPkg := rfl
@[simp] theorem State.onSlu_loader (s : State) (f : Sluice → Sluice) : (s.onSlu f).loader = s.loader := rfl
@[simp] theorem State.onSlu_keeper (s : State) (f : Sluice → Sluice) : (s.onSlu f).keeper = s.keeper := rfl
@[simp] theorem State.onSlu_ring (s : State) (f : Sluice → Sluice) : (s.onSlu f).ring = s.ring := rfl
@[simp] theorem State.onSlu_sys (s : State) (f : Sluice → Sluice) : (s.onSlu f).sys = s.sys := rfl
@[simp] theorem State.onSlu_eph (s : State) (f : Sluice → Sluice) : (s.onSlu f).eph = s.eph := rfl
@[simp] theorem State.onSlu_ast (s : State) (f : Sluice → Sluice) : (s.onSlu f).ast = s.ast := rfl
@[simp] theorem State.onSlu_alm (s : State) (f : Sluice → Sluice) : (s.onSlu f).alm = s.alm := rfl
@[simp] theorem State.onSlu_stc (s : State) (f : Sluice → Sluice) : (s.onSlu f).stc = s.stc := rfl
@[simp] theorem State.onSlu_twp (s : State) (f : Sluice → Sluice) : (s.onSlu f).twp = s.twp := rfl
@[simp] theorem State.onSlu_slu (s : State) (f : Sluice → Sluice) : (s.onSlu f).slu = f s.slu := rfl
@[simp] theorem State.onSlu_link (s : State) (f : Sluice → Sluice) : (s.onSlu f).link = s.link := rfl
@[simp] theorem State.onSlu_spdm (s : State) (f : Sluice → Sluice) : (s.onSlu f).spdm = s.spdm := rfl
@[simp] theorem State.onSlu_eye (s : State) (f : Sluice → Sluice) : (s.onSlu f).eye = s.eye := rfl
@[simp] theorem State.onSlu_col (s : State) (f : Sluice → Sluice) : (s.onSlu f).col = s.col := rfl
@[simp] theorem State.onSlu_chr (s : State) (f : Sluice → Sluice) : (s.onSlu f).chr = s.chr := rfl
@[simp] theorem State.onSlu_flight (s : State) (f : Sluice → Sluice) : (s.onSlu f).flight = s.flight := rfl
@[simp] theorem State.onSlu_freeCtr (s : State) (f : Sluice → Sluice) : (s.onSlu f).freeCtr = s.freeCtr := rfl
@[simp] theorem State.onSlu_out (s : State) (f : Sluice → Sluice) : (s.onSlu f).out = s.out := rfl
@[simp] theorem State.onSlu_events (s : State) (f : Sluice → Sluice) : (s.onSlu f).events = s.events := rfl
@[simp] theorem State.onSlu_pending (s : State) (f : Sluice → Sluice) : (s.onSlu f).pending = s.pending := rfl

/-! ### State.onEye -/

@[simp] theorem State.onEye_params (s : State) (f : Eye → Eye) : (s.onEye f).params = s.params := rfl
@[simp] theorem State.onEye_pins (s : State) (f : Eye → Eye) : (s.onEye f).pins = s.pins := rfl
@[simp] theorem State.onEye_alerts (s : State) (f : Eye → Eye) : (s.onEye f).alerts = s.alerts := rfl
@[simp] theorem State.onEye_windows (s : State) (f : Eye → Eye) : (s.onEye f).windows = s.windows := rfl
@[simp] theorem State.onEye_isl (s : State) (f : Eye → Eye) : (s.onEye f).isl = s.isl := rfl
@[simp] theorem State.onEye_iso (s : State) (f : Eye → Eye) : (s.onEye f).iso = s.iso := rfl
@[simp] theorem State.onEye_mer (s : State) (f : Eye → Eye) : (s.onEye f).mer = s.mer := rfl
@[simp] theorem State.onEye_meas (s : State) (f : Eye → Eye) : (s.onEye f).meas = s.meas := rfl
@[simp] theorem State.onEye_epochCtr (s : State) (f : Eye → Eye) : (s.onEye f).epochCtr = s.epochCtr := rfl
@[simp] theorem State.onEye_reach (s : State) (f : Eye → Eye) : (s.onEye f).reach = s.reach := rfl
@[simp] theorem State.onEye_barge (s : State) (f : Eye → Eye) : (s.onEye f).barge = s.barge := rfl
@[simp] theorem State.onEye_spareClock (s : State) (f : Eye → Eye) : (s.onEye f).spareClock = s.spareClock := rfl
@[simp] theorem State.onEye_basin (s : State) (f : Eye → Eye) : (s.onEye f).basin = s.basin := rfl
@[simp] theorem State.onEye_port (s : State) (f : Eye → Eye) : (s.onEye f).port = s.port := rfl
@[simp] theorem State.onEye_twPkg (s : State) (f : Eye → Eye) : (s.onEye f).twPkg = s.twPkg := rfl
@[simp] theorem State.onEye_loader (s : State) (f : Eye → Eye) : (s.onEye f).loader = s.loader := rfl
@[simp] theorem State.onEye_keeper (s : State) (f : Eye → Eye) : (s.onEye f).keeper = s.keeper := rfl
@[simp] theorem State.onEye_ring (s : State) (f : Eye → Eye) : (s.onEye f).ring = s.ring := rfl
@[simp] theorem State.onEye_sys (s : State) (f : Eye → Eye) : (s.onEye f).sys = s.sys := rfl
@[simp] theorem State.onEye_eph (s : State) (f : Eye → Eye) : (s.onEye f).eph = s.eph := rfl
@[simp] theorem State.onEye_ast (s : State) (f : Eye → Eye) : (s.onEye f).ast = s.ast := rfl
@[simp] theorem State.onEye_alm (s : State) (f : Eye → Eye) : (s.onEye f).alm = s.alm := rfl
@[simp] theorem State.onEye_stc (s : State) (f : Eye → Eye) : (s.onEye f).stc = s.stc := rfl
@[simp] theorem State.onEye_twp (s : State) (f : Eye → Eye) : (s.onEye f).twp = s.twp := rfl
@[simp] theorem State.onEye_slu (s : State) (f : Eye → Eye) : (s.onEye f).slu = s.slu := rfl
@[simp] theorem State.onEye_link (s : State) (f : Eye → Eye) : (s.onEye f).link = s.link := rfl
@[simp] theorem State.onEye_spdm (s : State) (f : Eye → Eye) : (s.onEye f).spdm = s.spdm := rfl
@[simp] theorem State.onEye_eye (s : State) (f : Eye → Eye) : (s.onEye f).eye = f s.eye := rfl
@[simp] theorem State.onEye_col (s : State) (f : Eye → Eye) : (s.onEye f).col = s.col := rfl
@[simp] theorem State.onEye_chr (s : State) (f : Eye → Eye) : (s.onEye f).chr = s.chr := rfl
@[simp] theorem State.onEye_flight (s : State) (f : Eye → Eye) : (s.onEye f).flight = s.flight := rfl
@[simp] theorem State.onEye_freeCtr (s : State) (f : Eye → Eye) : (s.onEye f).freeCtr = s.freeCtr := rfl
@[simp] theorem State.onEye_out (s : State) (f : Eye → Eye) : (s.onEye f).out = s.out := rfl
@[simp] theorem State.onEye_events (s : State) (f : Eye → Eye) : (s.onEye f).events = s.events := rfl
@[simp] theorem State.onEye_pending (s : State) (f : Eye → Eye) : (s.onEye f).pending = s.pending := rfl

/-! ### State.onCol -/

@[simp] theorem State.onCol_params (s : State) (f : Collimator → Collimator) : (s.onCol f).params = s.params := rfl
@[simp] theorem State.onCol_pins (s : State) (f : Collimator → Collimator) : (s.onCol f).pins = s.pins := rfl
@[simp] theorem State.onCol_alerts (s : State) (f : Collimator → Collimator) : (s.onCol f).alerts = s.alerts := rfl
@[simp] theorem State.onCol_windows (s : State) (f : Collimator → Collimator) : (s.onCol f).windows = s.windows := rfl
@[simp] theorem State.onCol_isl (s : State) (f : Collimator → Collimator) : (s.onCol f).isl = s.isl := rfl
@[simp] theorem State.onCol_iso (s : State) (f : Collimator → Collimator) : (s.onCol f).iso = s.iso := rfl
@[simp] theorem State.onCol_mer (s : State) (f : Collimator → Collimator) : (s.onCol f).mer = s.mer := rfl
@[simp] theorem State.onCol_meas (s : State) (f : Collimator → Collimator) : (s.onCol f).meas = s.meas := rfl
@[simp] theorem State.onCol_epochCtr (s : State) (f : Collimator → Collimator) : (s.onCol f).epochCtr = s.epochCtr := rfl
@[simp] theorem State.onCol_reach (s : State) (f : Collimator → Collimator) : (s.onCol f).reach = s.reach := rfl
@[simp] theorem State.onCol_barge (s : State) (f : Collimator → Collimator) : (s.onCol f).barge = s.barge := rfl
@[simp] theorem State.onCol_spareClock (s : State) (f : Collimator → Collimator) : (s.onCol f).spareClock = s.spareClock := rfl
@[simp] theorem State.onCol_basin (s : State) (f : Collimator → Collimator) : (s.onCol f).basin = s.basin := rfl
@[simp] theorem State.onCol_port (s : State) (f : Collimator → Collimator) : (s.onCol f).port = s.port := rfl
@[simp] theorem State.onCol_twPkg (s : State) (f : Collimator → Collimator) : (s.onCol f).twPkg = s.twPkg := rfl
@[simp] theorem State.onCol_loader (s : State) (f : Collimator → Collimator) : (s.onCol f).loader = s.loader := rfl
@[simp] theorem State.onCol_keeper (s : State) (f : Collimator → Collimator) : (s.onCol f).keeper = s.keeper := rfl
@[simp] theorem State.onCol_ring (s : State) (f : Collimator → Collimator) : (s.onCol f).ring = s.ring := rfl
@[simp] theorem State.onCol_sys (s : State) (f : Collimator → Collimator) : (s.onCol f).sys = s.sys := rfl
@[simp] theorem State.onCol_eph (s : State) (f : Collimator → Collimator) : (s.onCol f).eph = s.eph := rfl
@[simp] theorem State.onCol_ast (s : State) (f : Collimator → Collimator) : (s.onCol f).ast = s.ast := rfl
@[simp] theorem State.onCol_alm (s : State) (f : Collimator → Collimator) : (s.onCol f).alm = s.alm := rfl
@[simp] theorem State.onCol_stc (s : State) (f : Collimator → Collimator) : (s.onCol f).stc = s.stc := rfl
@[simp] theorem State.onCol_twp (s : State) (f : Collimator → Collimator) : (s.onCol f).twp = s.twp := rfl
@[simp] theorem State.onCol_slu (s : State) (f : Collimator → Collimator) : (s.onCol f).slu = s.slu := rfl
@[simp] theorem State.onCol_link (s : State) (f : Collimator → Collimator) : (s.onCol f).link = s.link := rfl
@[simp] theorem State.onCol_spdm (s : State) (f : Collimator → Collimator) : (s.onCol f).spdm = s.spdm := rfl
@[simp] theorem State.onCol_eye (s : State) (f : Collimator → Collimator) : (s.onCol f).eye = s.eye := rfl
@[simp] theorem State.onCol_col (s : State) (f : Collimator → Collimator) : (s.onCol f).col = f s.col := rfl
@[simp] theorem State.onCol_chr (s : State) (f : Collimator → Collimator) : (s.onCol f).chr = s.chr := rfl
@[simp] theorem State.onCol_flight (s : State) (f : Collimator → Collimator) : (s.onCol f).flight = s.flight := rfl
@[simp] theorem State.onCol_freeCtr (s : State) (f : Collimator → Collimator) : (s.onCol f).freeCtr = s.freeCtr := rfl
@[simp] theorem State.onCol_out (s : State) (f : Collimator → Collimator) : (s.onCol f).out = s.out := rfl
@[simp] theorem State.onCol_events (s : State) (f : Collimator → Collimator) : (s.onCol f).events = s.events := rfl
@[simp] theorem State.onCol_pending (s : State) (f : Collimator → Collimator) : (s.onCol f).pending = s.pending := rfl

/-! ### State.onSpdm -/

@[simp] theorem State.onSpdm_params (s : State) (f : Spdm → Spdm) : (s.onSpdm f).params = s.params := rfl
@[simp] theorem State.onSpdm_pins (s : State) (f : Spdm → Spdm) : (s.onSpdm f).pins = s.pins := rfl
@[simp] theorem State.onSpdm_alerts (s : State) (f : Spdm → Spdm) : (s.onSpdm f).alerts = s.alerts := rfl
@[simp] theorem State.onSpdm_windows (s : State) (f : Spdm → Spdm) : (s.onSpdm f).windows = s.windows := rfl
@[simp] theorem State.onSpdm_isl (s : State) (f : Spdm → Spdm) : (s.onSpdm f).isl = s.isl := rfl
@[simp] theorem State.onSpdm_iso (s : State) (f : Spdm → Spdm) : (s.onSpdm f).iso = s.iso := rfl
@[simp] theorem State.onSpdm_mer (s : State) (f : Spdm → Spdm) : (s.onSpdm f).mer = s.mer := rfl
@[simp] theorem State.onSpdm_meas (s : State) (f : Spdm → Spdm) : (s.onSpdm f).meas = s.meas := rfl
@[simp] theorem State.onSpdm_epochCtr (s : State) (f : Spdm → Spdm) : (s.onSpdm f).epochCtr = s.epochCtr := rfl
@[simp] theorem State.onSpdm_reach (s : State) (f : Spdm → Spdm) : (s.onSpdm f).reach = s.reach := rfl
@[simp] theorem State.onSpdm_barge (s : State) (f : Spdm → Spdm) : (s.onSpdm f).barge = s.barge := rfl
@[simp] theorem State.onSpdm_spareClock (s : State) (f : Spdm → Spdm) : (s.onSpdm f).spareClock = s.spareClock := rfl
@[simp] theorem State.onSpdm_basin (s : State) (f : Spdm → Spdm) : (s.onSpdm f).basin = s.basin := rfl
@[simp] theorem State.onSpdm_port (s : State) (f : Spdm → Spdm) : (s.onSpdm f).port = s.port := rfl
@[simp] theorem State.onSpdm_twPkg (s : State) (f : Spdm → Spdm) : (s.onSpdm f).twPkg = s.twPkg := rfl
@[simp] theorem State.onSpdm_loader (s : State) (f : Spdm → Spdm) : (s.onSpdm f).loader = s.loader := rfl
@[simp] theorem State.onSpdm_keeper (s : State) (f : Spdm → Spdm) : (s.onSpdm f).keeper = s.keeper := rfl
@[simp] theorem State.onSpdm_ring (s : State) (f : Spdm → Spdm) : (s.onSpdm f).ring = s.ring := rfl
@[simp] theorem State.onSpdm_sys (s : State) (f : Spdm → Spdm) : (s.onSpdm f).sys = s.sys := rfl
@[simp] theorem State.onSpdm_eph (s : State) (f : Spdm → Spdm) : (s.onSpdm f).eph = s.eph := rfl
@[simp] theorem State.onSpdm_ast (s : State) (f : Spdm → Spdm) : (s.onSpdm f).ast = s.ast := rfl
@[simp] theorem State.onSpdm_alm (s : State) (f : Spdm → Spdm) : (s.onSpdm f).alm = s.alm := rfl
@[simp] theorem State.onSpdm_stc (s : State) (f : Spdm → Spdm) : (s.onSpdm f).stc = s.stc := rfl
@[simp] theorem State.onSpdm_twp (s : State) (f : Spdm → Spdm) : (s.onSpdm f).twp = s.twp := rfl
@[simp] theorem State.onSpdm_slu (s : State) (f : Spdm → Spdm) : (s.onSpdm f).slu = s.slu := rfl
@[simp] theorem State.onSpdm_link (s : State) (f : Spdm → Spdm) : (s.onSpdm f).link = s.link := rfl
@[simp] theorem State.onSpdm_spdm (s : State) (f : Spdm → Spdm) : (s.onSpdm f).spdm = f s.spdm := rfl
@[simp] theorem State.onSpdm_eye (s : State) (f : Spdm → Spdm) : (s.onSpdm f).eye = s.eye := rfl
@[simp] theorem State.onSpdm_col (s : State) (f : Spdm → Spdm) : (s.onSpdm f).col = s.col := rfl
@[simp] theorem State.onSpdm_chr (s : State) (f : Spdm → Spdm) : (s.onSpdm f).chr = s.chr := rfl
@[simp] theorem State.onSpdm_flight (s : State) (f : Spdm → Spdm) : (s.onSpdm f).flight = s.flight := rfl
@[simp] theorem State.onSpdm_freeCtr (s : State) (f : Spdm → Spdm) : (s.onSpdm f).freeCtr = s.freeCtr := rfl
@[simp] theorem State.onSpdm_out (s : State) (f : Spdm → Spdm) : (s.onSpdm f).out = s.out := rfl
@[simp] theorem State.onSpdm_events (s : State) (f : Spdm → Spdm) : (s.onSpdm f).events = s.events := rfl
@[simp] theorem State.onSpdm_pending (s : State) (f : Spdm → Spdm) : (s.onSpdm f).pending = s.pending := rfl

/-! ### State.onBasin -/

@[simp] theorem State.onBasin_params (s : State) (f : Basin → Basin) : (s.onBasin f).params = s.params := rfl
@[simp] theorem State.onBasin_pins (s : State) (f : Basin → Basin) : (s.onBasin f).pins = s.pins := rfl
@[simp] theorem State.onBasin_alerts (s : State) (f : Basin → Basin) : (s.onBasin f).alerts = s.alerts := rfl
@[simp] theorem State.onBasin_windows (s : State) (f : Basin → Basin) : (s.onBasin f).windows = s.windows := rfl
@[simp] theorem State.onBasin_isl (s : State) (f : Basin → Basin) : (s.onBasin f).isl = s.isl := rfl
@[simp] theorem State.onBasin_iso (s : State) (f : Basin → Basin) : (s.onBasin f).iso = s.iso := rfl
@[simp] theorem State.onBasin_mer (s : State) (f : Basin → Basin) : (s.onBasin f).mer = s.mer := rfl
@[simp] theorem State.onBasin_meas (s : State) (f : Basin → Basin) : (s.onBasin f).meas = s.meas := rfl
@[simp] theorem State.onBasin_epochCtr (s : State) (f : Basin → Basin) : (s.onBasin f).epochCtr = s.epochCtr := rfl
@[simp] theorem State.onBasin_reach (s : State) (f : Basin → Basin) : (s.onBasin f).reach = s.reach := rfl
@[simp] theorem State.onBasin_barge (s : State) (f : Basin → Basin) : (s.onBasin f).barge = s.barge := rfl
@[simp] theorem State.onBasin_spareClock (s : State) (f : Basin → Basin) : (s.onBasin f).spareClock = s.spareClock := rfl
@[simp] theorem State.onBasin_basin (s : State) (f : Basin → Basin) : (s.onBasin f).basin = f s.basin := rfl
@[simp] theorem State.onBasin_port (s : State) (f : Basin → Basin) : (s.onBasin f).port = s.port := rfl
@[simp] theorem State.onBasin_twPkg (s : State) (f : Basin → Basin) : (s.onBasin f).twPkg = s.twPkg := rfl
@[simp] theorem State.onBasin_loader (s : State) (f : Basin → Basin) : (s.onBasin f).loader = s.loader := rfl
@[simp] theorem State.onBasin_keeper (s : State) (f : Basin → Basin) : (s.onBasin f).keeper = s.keeper := rfl
@[simp] theorem State.onBasin_ring (s : State) (f : Basin → Basin) : (s.onBasin f).ring = s.ring := rfl
@[simp] theorem State.onBasin_sys (s : State) (f : Basin → Basin) : (s.onBasin f).sys = s.sys := rfl
@[simp] theorem State.onBasin_eph (s : State) (f : Basin → Basin) : (s.onBasin f).eph = s.eph := rfl
@[simp] theorem State.onBasin_ast (s : State) (f : Basin → Basin) : (s.onBasin f).ast = s.ast := rfl
@[simp] theorem State.onBasin_alm (s : State) (f : Basin → Basin) : (s.onBasin f).alm = s.alm := rfl
@[simp] theorem State.onBasin_stc (s : State) (f : Basin → Basin) : (s.onBasin f).stc = s.stc := rfl
@[simp] theorem State.onBasin_twp (s : State) (f : Basin → Basin) : (s.onBasin f).twp = s.twp := rfl
@[simp] theorem State.onBasin_slu (s : State) (f : Basin → Basin) : (s.onBasin f).slu = s.slu := rfl
@[simp] theorem State.onBasin_link (s : State) (f : Basin → Basin) : (s.onBasin f).link = s.link := rfl
@[simp] theorem State.onBasin_spdm (s : State) (f : Basin → Basin) : (s.onBasin f).spdm = s.spdm := rfl
@[simp] theorem State.onBasin_eye (s : State) (f : Basin → Basin) : (s.onBasin f).eye = s.eye := rfl
@[simp] theorem State.onBasin_col (s : State) (f : Basin → Basin) : (s.onBasin f).col = s.col := rfl
@[simp] theorem State.onBasin_chr (s : State) (f : Basin → Basin) : (s.onBasin f).chr = s.chr := rfl
@[simp] theorem State.onBasin_flight (s : State) (f : Basin → Basin) : (s.onBasin f).flight = s.flight := rfl
@[simp] theorem State.onBasin_freeCtr (s : State) (f : Basin → Basin) : (s.onBasin f).freeCtr = s.freeCtr := rfl
@[simp] theorem State.onBasin_out (s : State) (f : Basin → Basin) : (s.onBasin f).out = s.out := rfl
@[simp] theorem State.onBasin_events (s : State) (f : Basin → Basin) : (s.onBasin f).events = s.events := rfl
@[simp] theorem State.onBasin_pending (s : State) (f : Basin → Basin) : (s.onBasin f).pending = s.pending := rfl

/-! ### emit -/

@[simp] theorem emit_params (e : Emit) (s : State) : (emit e s).params = s.params := rfl
@[simp] theorem emit_pins (e : Emit) (s : State) : (emit e s).pins = s.pins := rfl
@[simp] theorem emit_alerts (e : Emit) (s : State) : (emit e s).alerts = s.alerts := rfl
@[simp] theorem emit_windows (e : Emit) (s : State) : (emit e s).windows = s.windows := rfl
@[simp] theorem emit_isl (e : Emit) (s : State) : (emit e s).isl = s.isl := rfl
@[simp] theorem emit_iso (e : Emit) (s : State) : (emit e s).iso = s.iso := rfl
@[simp] theorem emit_mer (e : Emit) (s : State) : (emit e s).mer = s.mer := rfl
@[simp] theorem emit_meas (e : Emit) (s : State) : (emit e s).meas = s.meas := rfl
@[simp] theorem emit_epochCtr (e : Emit) (s : State) : (emit e s).epochCtr = s.epochCtr := rfl
@[simp] theorem emit_reach (e : Emit) (s : State) : (emit e s).reach = s.reach := rfl
@[simp] theorem emit_barge (e : Emit) (s : State) : (emit e s).barge = s.barge := rfl
@[simp] theorem emit_spareClock (e : Emit) (s : State) : (emit e s).spareClock = s.spareClock := rfl
@[simp] theorem emit_basin (e : Emit) (s : State) : (emit e s).basin = s.basin := rfl
@[simp] theorem emit_port (e : Emit) (s : State) : (emit e s).port = s.port := rfl
@[simp] theorem emit_twPkg (e : Emit) (s : State) : (emit e s).twPkg = s.twPkg := rfl
@[simp] theorem emit_loader (e : Emit) (s : State) : (emit e s).loader = s.loader := rfl
@[simp] theorem emit_keeper (e : Emit) (s : State) : (emit e s).keeper = s.keeper := rfl
@[simp] theorem emit_ring (e : Emit) (s : State) : (emit e s).ring = s.ring := rfl
@[simp] theorem emit_sys (e : Emit) (s : State) : (emit e s).sys = s.sys := rfl
@[simp] theorem emit_eph (e : Emit) (s : State) : (emit e s).eph = s.eph := rfl
@[simp] theorem emit_ast (e : Emit) (s : State) : (emit e s).ast = s.ast := rfl
@[simp] theorem emit_alm (e : Emit) (s : State) : (emit e s).alm = s.alm := rfl
@[simp] theorem emit_stc (e : Emit) (s : State) : (emit e s).stc = s.stc := rfl
@[simp] theorem emit_twp (e : Emit) (s : State) : (emit e s).twp = s.twp := rfl
@[simp] theorem emit_slu (e : Emit) (s : State) : (emit e s).slu = s.slu := rfl
@[simp] theorem emit_link (e : Emit) (s : State) : (emit e s).link = s.link := rfl
@[simp] theorem emit_spdm (e : Emit) (s : State) : (emit e s).spdm = s.spdm := rfl
@[simp] theorem emit_eye (e : Emit) (s : State) : (emit e s).eye = s.eye := rfl
@[simp] theorem emit_col (e : Emit) (s : State) : (emit e s).col = s.col := rfl
@[simp] theorem emit_chr (e : Emit) (s : State) : (emit e s).chr = s.chr := rfl
@[simp] theorem emit_flight (e : Emit) (s : State) : (emit e s).flight = s.flight := rfl
@[simp] theorem emit_freeCtr (e : Emit) (s : State) : (emit e s).freeCtr = s.freeCtr := rfl
@[simp] theorem emit_out (e : Emit) (s : State) : (emit e s).out = e :: s.out := rfl
@[simp] theorem emit_events (e : Emit) (s : State) : (emit e s).events = s.events := rfl
@[simp] theorem emit_pending (e : Emit) (s : State) : (emit e s).pending = s.pending := rfl

/-! ### refuse -/

@[simp] theorem refuse_params (what : String) (status : Nat) (s : State) : (refuse what status s).params = s.params := rfl
@[simp] theorem refuse_pins (what : String) (status : Nat) (s : State) : (refuse what status s).pins = s.pins := rfl
@[simp] theorem refuse_alerts (what : String) (status : Nat) (s : State) : (refuse what status s).alerts = s.alerts := rfl
@[simp] theorem refuse_windows (what : String) (status : Nat) (s : State) : (refuse what status s).windows = s.windows := rfl
@[simp] theorem refuse_isl (what : String) (status : Nat) (s : State) : (refuse what status s).isl = s.isl := rfl
@[simp] theorem refuse_iso (what : String) (status : Nat) (s : State) : (refuse what status s).iso = s.iso := rfl
@[simp] theorem refuse_mer (what : String) (status : Nat) (s : State) : (refuse what status s).mer = s.mer := rfl
@[simp] theorem refuse_meas (what : String) (status : Nat) (s : State) : (refuse what status s).meas = s.meas := rfl
@[simp] theorem refuse_epochCtr (what : String) (status : Nat) (s : State) : (refuse what status s).epochCtr = s.epochCtr := rfl
@[simp] theorem refuse_reach (what : String) (status : Nat) (s : State) : (refuse what status s).reach = s.reach := rfl
@[simp] theorem refuse_barge (what : String) (status : Nat) (s : State) : (refuse what status s).barge = s.barge := rfl
@[simp] theorem refuse_spareClock (what : String) (status : Nat) (s : State) : (refuse what status s).spareClock = s.spareClock := rfl
@[simp] theorem refuse_basin (what : String) (status : Nat) (s : State) : (refuse what status s).basin = s.basin := rfl
@[simp] theorem refuse_port (what : String) (status : Nat) (s : State) : (refuse what status s).port = s.port := rfl
@[simp] theorem refuse_twPkg (what : String) (status : Nat) (s : State) : (refuse what status s).twPkg = s.twPkg := rfl
@[simp] theorem refuse_loader (what : String) (status : Nat) (s : State) : (refuse what status s).loader = s.loader := rfl
@[simp] theorem refuse_keeper (what : String) (status : Nat) (s : State) : (refuse what status s).keeper = s.keeper := rfl
@[simp] theorem refuse_ring (what : String) (status : Nat) (s : State) : (refuse what status s).ring = s.ring := rfl
@[simp] theorem refuse_sys (what : String) (status : Nat) (s : State) : (refuse what status s).sys = s.sys := rfl
@[simp] theorem refuse_eph (what : String) (status : Nat) (s : State) : (refuse what status s).eph = s.eph := rfl
@[simp] theorem refuse_ast (what : String) (status : Nat) (s : State) : (refuse what status s).ast = s.ast := rfl
@[simp] theorem refuse_alm (what : String) (status : Nat) (s : State) : (refuse what status s).alm = s.alm := rfl
@[simp] theorem refuse_stc (what : String) (status : Nat) (s : State) : (refuse what status s).stc = s.stc := rfl
@[simp] theorem refuse_twp (what : String) (status : Nat) (s : State) : (refuse what status s).twp = s.twp := rfl
@[simp] theorem refuse_slu (what : String) (status : Nat) (s : State) : (refuse what status s).slu = s.slu := rfl
@[simp] theorem refuse_link (what : String) (status : Nat) (s : State) : (refuse what status s).link = s.link := rfl
@[simp] theorem refuse_spdm (what : String) (status : Nat) (s : State) : (refuse what status s).spdm = s.spdm := rfl
@[simp] theorem refuse_eye (what : String) (status : Nat) (s : State) : (refuse what status s).eye = s.eye := rfl
@[simp] theorem refuse_col (what : String) (status : Nat) (s : State) : (refuse what status s).col = s.col := rfl
@[simp] theorem refuse_chr (what : String) (status : Nat) (s : State) : (refuse what status s).chr = s.chr := rfl
@[simp] theorem refuse_flight (what : String) (status : Nat) (s : State) : (refuse what status s).flight = s.flight := rfl
@[simp] theorem refuse_freeCtr (what : String) (status : Nat) (s : State) : (refuse what status s).freeCtr = s.freeCtr := rfl
@[simp] theorem refuse_out (what : String) (status : Nat) (s : State) : (refuse what status s).out = s.out := rfl
@[simp] theorem refuse_events (what : String) (status : Nat) (s : State) : (refuse what status s).events = ⟨what, status⟩ :: s.events := rfl
@[simp] theorem refuse_pending (what : String) (status : Nat) (s : State) : (refuse what status s).pending = s.pending := rfl

/-! ### answer -/

@[simp] theorem answer_params (status : Nat) (data : Bytes) (s : State) : (answer status data s).params = s.params := rfl
@[simp] theorem answer_pins (status : Nat) (data : Bytes) (s : State) : (answer status data s).pins = s.pins := rfl
@[simp] theorem answer_alerts (status : Nat) (data : Bytes) (s : State) : (answer status data s).alerts = s.alerts := rfl
@[simp] theorem answer_windows (status : Nat) (data : Bytes) (s : State) : (answer status data s).windows = s.windows := rfl
@[simp] theorem answer_isl (status : Nat) (data : Bytes) (s : State) : (answer status data s).isl = s.isl := rfl
@[simp] theorem answer_iso (status : Nat) (data : Bytes) (s : State) : (answer status data s).iso = s.iso := rfl
@[simp] theorem answer_mer (status : Nat) (data : Bytes) (s : State) : (answer status data s).mer = s.mer := rfl
@[simp] theorem answer_meas (status : Nat) (data : Bytes) (s : State) : (answer status data s).meas = s.meas := rfl
@[simp] theorem answer_epochCtr (status : Nat) (data : Bytes) (s : State) : (answer status data s).epochCtr = s.epochCtr := rfl
@[simp] theorem answer_reach (status : Nat) (data : Bytes) (s : State) : (answer status data s).reach = s.reach := rfl
@[simp] theorem answer_barge (status : Nat) (data : Bytes) (s : State) : (answer status data s).barge = s.barge := rfl
@[simp] theorem answer_spareClock (status : Nat) (data : Bytes) (s : State) : (answer status data s).spareClock = s.spareClock := rfl
@[simp] theorem answer_basin (status : Nat) (data : Bytes) (s : State) : (answer status data s).basin = s.basin := rfl
@[simp] theorem answer_port (status : Nat) (data : Bytes) (s : State) : (answer status data s).port = s.port := rfl
@[simp] theorem answer_twPkg (status : Nat) (data : Bytes) (s : State) : (answer status data s).twPkg = s.twPkg := rfl
@[simp] theorem answer_loader (status : Nat) (data : Bytes) (s : State) : (answer status data s).loader = s.loader := rfl
@[simp] theorem answer_keeper (status : Nat) (data : Bytes) (s : State) : (answer status data s).keeper = s.keeper := rfl
@[simp] theorem answer_ring (status : Nat) (data : Bytes) (s : State) : (answer status data s).ring = s.ring := rfl
@[simp] theorem answer_sys (status : Nat) (data : Bytes) (s : State) : (answer status data s).sys = s.sys := rfl
@[simp] theorem answer_eph (status : Nat) (data : Bytes) (s : State) : (answer status data s).eph = s.eph := rfl
@[simp] theorem answer_ast (status : Nat) (data : Bytes) (s : State) : (answer status data s).ast = s.ast := rfl
@[simp] theorem answer_alm (status : Nat) (data : Bytes) (s : State) : (answer status data s).alm = s.alm := rfl
@[simp] theorem answer_stc (status : Nat) (data : Bytes) (s : State) : (answer status data s).stc = s.stc := rfl
@[simp] theorem answer_twp (status : Nat) (data : Bytes) (s : State) : (answer status data s).twp = s.twp := rfl
@[simp] theorem answer_slu (status : Nat) (data : Bytes) (s : State) : (answer status data s).slu = s.slu := rfl
@[simp] theorem answer_link (status : Nat) (data : Bytes) (s : State) : (answer status data s).link = s.link := rfl
@[simp] theorem answer_spdm (status : Nat) (data : Bytes) (s : State) : (answer status data s).spdm = s.spdm := rfl
@[simp] theorem answer_eye (status : Nat) (data : Bytes) (s : State) : (answer status data s).eye = s.eye := rfl
@[simp] theorem answer_col (status : Nat) (data : Bytes) (s : State) : (answer status data s).col = s.col := rfl
@[simp] theorem answer_chr (status : Nat) (data : Bytes) (s : State) : (answer status data s).chr = s.chr := rfl
@[simp] theorem answer_flight (status : Nat) (data : Bytes) (s : State) : (answer status data s).flight = s.flight := rfl
@[simp] theorem answer_freeCtr (status : Nat) (data : Bytes) (s : State) : (answer status data s).freeCtr = s.freeCtr := rfl
@[simp] theorem answer_out (status : Nat) (data : Bytes) (s : State) : (answer status data s).out = .mgmt (mctp s) status data :: s.out := rfl
@[simp] theorem answer_events (status : Nat) (data : Bytes) (s : State) : (answer status data s).events = s.events := rfl
@[simp] theorem answer_pending (status : Nat) (data : Bytes) (s : State) : (answer status data s).pending = s.pending := rfl

/-! ### answerSpdm -/

@[simp] theorem answerSpdm_params (code : SpdmCode) (data : Bytes) (s : State) : (answerSpdm code data s).params = s.params := rfl
@[simp] theorem answerSpdm_pins (code : SpdmCode) (data : Bytes) (s : State) : (answerSpdm code data s).pins = s.pins := rfl
@[simp] theorem answerSpdm_alerts (code : SpdmCode) (data : Bytes) (s : State) : (answerSpdm code data s).alerts = s.alerts := rfl
@[simp] theorem answerSpdm_windows (code : SpdmCode) (data : Bytes) (s : State) : (answerSpdm code data s).windows = s.windows := rfl
@[simp] theorem answerSpdm_isl (code : SpdmCode) (data : Bytes) (s : State) : (answerSpdm code data s).isl = s.isl := rfl
@[simp] theorem answerSpdm_iso (code : SpdmCode) (data : Bytes) (s : State) : (answerSpdm code data s).iso = s.iso := rfl
@[simp] theorem answerSpdm_mer (code : SpdmCode) (data : Bytes) (s : State) : (answerSpdm code data s).mer = s.mer := rfl
@[simp] theorem answerSpdm_meas (code : SpdmCode) (data : Bytes) (s : State) : (answerSpdm code data s).meas = s.meas := rfl
@[simp] theorem answerSpdm_epochCtr (code : SpdmCode) (data : Bytes) (s : State) : (answerSpdm code data s).epochCtr = s.epochCtr := rfl
@[simp] theorem answerSpdm_reach (code : SpdmCode) (data : Bytes) (s : State) : (answerSpdm code data s).reach = s.reach := rfl
@[simp] theorem answerSpdm_barge (code : SpdmCode) (data : Bytes) (s : State) : (answerSpdm code data s).barge = s.barge := rfl
@[simp] theorem answerSpdm_spareClock (code : SpdmCode) (data : Bytes) (s : State) : (answerSpdm code data s).spareClock = s.spareClock := rfl
@[simp] theorem answerSpdm_basin (code : SpdmCode) (data : Bytes) (s : State) : (answerSpdm code data s).basin = s.basin := rfl
@[simp] theorem answerSpdm_port (code : SpdmCode) (data : Bytes) (s : State) : (answerSpdm code data s).port = s.port := rfl
@[simp] theorem answerSpdm_twPkg (code : SpdmCode) (data : Bytes) (s : State) : (answerSpdm code data s).twPkg = s.twPkg := rfl
@[simp] theorem answerSpdm_loader (code : SpdmCode) (data : Bytes) (s : State) : (answerSpdm code data s).loader = s.loader := rfl
@[simp] theorem answerSpdm_keeper (code : SpdmCode) (data : Bytes) (s : State) : (answerSpdm code data s).keeper = s.keeper := rfl
@[simp] theorem answerSpdm_ring (code : SpdmCode) (data : Bytes) (s : State) : (answerSpdm code data s).ring = s.ring := rfl
@[simp] theorem answerSpdm_sys (code : SpdmCode) (data : Bytes) (s : State) : (answerSpdm code data s).sys = s.sys := rfl
@[simp] theorem answerSpdm_eph (code : SpdmCode) (data : Bytes) (s : State) : (answerSpdm code data s).eph = s.eph := rfl
@[simp] theorem answerSpdm_ast (code : SpdmCode) (data : Bytes) (s : State) : (answerSpdm code data s).ast = s.ast := rfl
@[simp] theorem answerSpdm_alm (code : SpdmCode) (data : Bytes) (s : State) : (answerSpdm code data s).alm = s.alm := rfl
@[simp] theorem answerSpdm_stc (code : SpdmCode) (data : Bytes) (s : State) : (answerSpdm code data s).stc = s.stc := rfl
@[simp] theorem answerSpdm_twp (code : SpdmCode) (data : Bytes) (s : State) : (answerSpdm code data s).twp = s.twp := rfl
@[simp] theorem answerSpdm_slu (code : SpdmCode) (data : Bytes) (s : State) : (answerSpdm code data s).slu = s.slu := rfl
@[simp] theorem answerSpdm_link (code : SpdmCode) (data : Bytes) (s : State) : (answerSpdm code data s).link = s.link := rfl
@[simp] theorem answerSpdm_spdm (code : SpdmCode) (data : Bytes) (s : State) : (answerSpdm code data s).spdm = s.spdm := rfl
@[simp] theorem answerSpdm_eye (code : SpdmCode) (data : Bytes) (s : State) : (answerSpdm code data s).eye = s.eye := rfl
@[simp] theorem answerSpdm_col (code : SpdmCode) (data : Bytes) (s : State) : (answerSpdm code data s).col = s.col := rfl
@[simp] theorem answerSpdm_chr (code : SpdmCode) (data : Bytes) (s : State) : (answerSpdm code data s).chr = s.chr := rfl
@[simp] theorem answerSpdm_flight (code : SpdmCode) (data : Bytes) (s : State) : (answerSpdm code data s).flight = s.flight := rfl
@[simp] theorem answerSpdm_freeCtr (code : SpdmCode) (data : Bytes) (s : State) : (answerSpdm code data s).freeCtr = s.freeCtr := rfl
@[simp] theorem answerSpdm_out (code : SpdmCode) (data : Bytes) (s : State) : (answerSpdm code data s).out = .spdm (mctp s) code data :: s.out := rfl
@[simp] theorem answerSpdm_events (code : SpdmCode) (data : Bytes) (s : State) : (answerSpdm code data s).events = s.events := rfl
@[simp] theorem answerSpdm_pending (code : SpdmCode) (data : Bytes) (s : State) : (answerSpdm code data s).pending = s.pending := rfl

/-! ### refuseMgmt -/

@[simp] theorem refuseMgmt_params (what : String) (status : Nat) (s : State) : (refuseMgmt what status s).params = s.params := rfl
@[simp] theorem refuseMgmt_pins (what : String) (status : Nat) (s : State) : (refuseMgmt what status s).pins = s.pins := rfl
@[simp] theorem refuseMgmt_alerts (what : String) (status : Nat) (s : State) : (refuseMgmt what status s).alerts = s.alerts := rfl
@[simp] theorem refuseMgmt_windows (what : String) (status : Nat) (s : State) : (refuseMgmt what status s).windows = s.windows := rfl
@[simp] theorem refuseMgmt_isl (what : String) (status : Nat) (s : State) : (refuseMgmt what status s).isl = s.isl := rfl
@[simp] theorem refuseMgmt_iso (what : String) (status : Nat) (s : State) : (refuseMgmt what status s).iso = s.iso := rfl
@[simp] theorem refuseMgmt_mer (what : String) (status : Nat) (s : State) : (refuseMgmt what status s).mer = s.mer := rfl
@[simp] theorem refuseMgmt_meas (what : String) (status : Nat) (s : State) : (refuseMgmt what status s).meas = s.meas := rfl
@[simp] theorem refuseMgmt_epochCtr (what : String) (status : Nat) (s : State) : (refuseMgmt what status s).epochCtr = s.epochCtr := rfl
@[simp] theorem refuseMgmt_reach (what : String) (status : Nat) (s : State) : (refuseMgmt what status s).reach = s.reach := rfl
@[simp] theorem refuseMgmt_barge (what : String) (status : Nat) (s : State) : (refuseMgmt what status s).barge = s.barge := rfl
@[simp] theorem refuseMgmt_spareClock (what : String) (status : Nat) (s : State) : (refuseMgmt what status s).spareClock = s.spareClock := rfl
@[simp] theorem refuseMgmt_basin (what : String) (status : Nat) (s : State) : (refuseMgmt what status s).basin = s.basin := rfl
@[simp] theorem refuseMgmt_port (what : String) (status : Nat) (s : State) : (refuseMgmt what status s).port = s.port := rfl
@[simp] theorem refuseMgmt_twPkg (what : String) (status : Nat) (s : State) : (refuseMgmt what status s).twPkg = s.twPkg := rfl
@[simp] theorem refuseMgmt_loader (what : String) (status : Nat) (s : State) : (refuseMgmt what status s).loader = s.loader := rfl
@[simp] theorem refuseMgmt_keeper (what : String) (status : Nat) (s : State) : (refuseMgmt what status s).keeper = s.keeper := rfl
@[simp] theorem refuseMgmt_ring (what : String) (status : Nat) (s : State) : (refuseMgmt what status s).ring = s.ring := rfl
@[simp] theorem refuseMgmt_sys (what : String) (status : Nat) (s : State) : (refuseMgmt what status s).sys = s.sys := rfl
@[simp] theorem refuseMgmt_eph (what : String) (status : Nat) (s : State) : (refuseMgmt what status s).eph = s.eph := rfl
@[simp] theorem refuseMgmt_ast (what : String) (status : Nat) (s : State) : (refuseMgmt what status s).ast = s.ast := rfl
@[simp] theorem refuseMgmt_alm (what : String) (status : Nat) (s : State) : (refuseMgmt what status s).alm = s.alm := rfl
@[simp] theorem refuseMgmt_stc (what : String) (status : Nat) (s : State) : (refuseMgmt what status s).stc = s.stc := rfl
@[simp] theorem refuseMgmt_twp (what : String) (status : Nat) (s : State) : (refuseMgmt what status s).twp = s.twp := rfl
@[simp] theorem refuseMgmt_slu (what : String) (status : Nat) (s : State) : (refuseMgmt what status s).slu = s.slu := rfl
@[simp] theorem refuseMgmt_link (what : String) (status : Nat) (s : State) : (refuseMgmt what status s).link = s.link := rfl
@[simp] theorem refuseMgmt_spdm (what : String) (status : Nat) (s : State) : (refuseMgmt what status s).spdm = s.spdm := rfl
@[simp] theorem refuseMgmt_eye (what : String) (status : Nat) (s : State) : (refuseMgmt what status s).eye = s.eye := rfl
@[simp] theorem refuseMgmt_col (what : String) (status : Nat) (s : State) : (refuseMgmt what status s).col = s.col := rfl
@[simp] theorem refuseMgmt_chr (what : String) (status : Nat) (s : State) : (refuseMgmt what status s).chr = s.chr := rfl
@[simp] theorem refuseMgmt_flight (what : String) (status : Nat) (s : State) : (refuseMgmt what status s).flight = s.flight := rfl
@[simp] theorem refuseMgmt_freeCtr (what : String) (status : Nat) (s : State) : (refuseMgmt what status s).freeCtr = s.freeCtr := rfl
@[simp] theorem refuseMgmt_out (what : String) (status : Nat) (s : State) : (refuseMgmt what status s).out = .mgmt (mctp s) status [] :: s.out := rfl
@[simp] theorem refuseMgmt_events (what : String) (status : Nat) (s : State) : (refuseMgmt what status s).events = ⟨what, status⟩ :: s.events := rfl
@[simp] theorem refuseMgmt_pending (what : String) (status : Nat) (s : State) : (refuseMgmt what status s).pending = s.pending := rfl

/-! ### nextFree -/

@[simp] theorem nextFree_value (s : State) : (nextFree s).1 = s.freeCtr := rfl
@[simp] theorem nextFree_params (s : State) : (nextFree s).2.params = s.params := rfl
@[simp] theorem nextFree_pins (s : State) : (nextFree s).2.pins = s.pins := rfl
@[simp] theorem nextFree_alerts (s : State) : (nextFree s).2.alerts = s.alerts := rfl
@[simp] theorem nextFree_windows (s : State) : (nextFree s).2.windows = s.windows := rfl
@[simp] theorem nextFree_isl (s : State) : (nextFree s).2.isl = s.isl := rfl
@[simp] theorem nextFree_iso (s : State) : (nextFree s).2.iso = s.iso := rfl
@[simp] theorem nextFree_mer (s : State) : (nextFree s).2.mer = s.mer := rfl
@[simp] theorem nextFree_meas (s : State) : (nextFree s).2.meas = s.meas := rfl
@[simp] theorem nextFree_epochCtr (s : State) : (nextFree s).2.epochCtr = s.epochCtr := rfl
@[simp] theorem nextFree_reach (s : State) : (nextFree s).2.reach = s.reach := rfl
@[simp] theorem nextFree_barge (s : State) : (nextFree s).2.barge = s.barge := rfl
@[simp] theorem nextFree_spareClock (s : State) : (nextFree s).2.spareClock = s.spareClock := rfl
@[simp] theorem nextFree_basin (s : State) : (nextFree s).2.basin = s.basin := rfl
@[simp] theorem nextFree_port (s : State) : (nextFree s).2.port = s.port := rfl
@[simp] theorem nextFree_twPkg (s : State) : (nextFree s).2.twPkg = s.twPkg := rfl
@[simp] theorem nextFree_loader (s : State) : (nextFree s).2.loader = s.loader := rfl
@[simp] theorem nextFree_keeper (s : State) : (nextFree s).2.keeper = s.keeper := rfl
@[simp] theorem nextFree_ring (s : State) : (nextFree s).2.ring = s.ring := rfl
@[simp] theorem nextFree_sys (s : State) : (nextFree s).2.sys = s.sys := rfl
@[simp] theorem nextFree_eph (s : State) : (nextFree s).2.eph = s.eph := rfl
@[simp] theorem nextFree_ast (s : State) : (nextFree s).2.ast = s.ast := rfl
@[simp] theorem nextFree_alm (s : State) : (nextFree s).2.alm = s.alm := rfl
@[simp] theorem nextFree_stc (s : State) : (nextFree s).2.stc = s.stc := rfl
@[simp] theorem nextFree_twp (s : State) : (nextFree s).2.twp = s.twp := rfl
@[simp] theorem nextFree_slu (s : State) : (nextFree s).2.slu = s.slu := rfl
@[simp] theorem nextFree_link (s : State) : (nextFree s).2.link = s.link := rfl
@[simp] theorem nextFree_spdm (s : State) : (nextFree s).2.spdm = s.spdm := rfl
@[simp] theorem nextFree_eye (s : State) : (nextFree s).2.eye = s.eye := rfl
@[simp] theorem nextFree_col (s : State) : (nextFree s).2.col = s.col := rfl
@[simp] theorem nextFree_chr (s : State) : (nextFree s).2.chr = s.chr := rfl
@[simp] theorem nextFree_flight (s : State) : (nextFree s).2.flight = s.flight := rfl
@[simp] theorem nextFree_freeCtr (s : State) : (nextFree s).2.freeCtr = s.freeCtr + 1 := rfl
@[simp] theorem nextFree_out (s : State) : (nextFree s).2.out = s.out := rfl
@[simp] theorem nextFree_events (s : State) : (nextFree s).2.events = s.events := rfl
@[simp] theorem nextFree_pending (s : State) : (nextFree s).2.pending = s.pending := rfl

end Sys2Proof.Machine
end

