-- ==== Sys2Proof/Laws/Vectors.lean ====
section
/-! SUPPORT. Reading a vector after a change of one or of every element. -/

namespace Sys2Proof.Machine

set_option Elab.async false

variable {α β : Type} {n : Nat}

@[simp] theorem tab_get (f : Fin n → α) (j : Nat) (h : j < n) : (tab n f)[j] = f ⟨j, h⟩ := by
  simp [tab]

/-- Reading after a replacement: the new element at its index, the old one elsewhere. -/
@[simp] theorem put_get (v : Vector α n) (i : Fin n) (x : α) (j : Nat) (h : j < n) :
    (put v i x)[j] = if i.val = j then x else v[j] := by
  simp [put, Vector.getElem_set]

theorem put_get_self (v : Vector α n) (i : Fin n) (x : α) : (put v i x)[i.val] = x := by simp

theorem put_get_other (v : Vector α n) (i : Fin n) (x : α) (j : Nat) (h : j < n) (hj : i.val ≠ j) :
    (put v i x)[j] = v[j] := by simp [hj]

@[simp] theorem upd_get (v : Vector α n) (i : Fin n) (f : α → α) (j : Nat) (h : j < n) :
    (upd v i f)[j] = if i.val = j then f v[j] else v[j] := by
  unfold upd
  rw [put_get]
  split
  · next e => subst e; rfl
  · rfl

theorem upd_get_self (v : Vector α n) (i : Fin n) (f : α → α) : (upd v i f)[i.val] = f v[i.val] := by simp

theorem upd_get_other (v : Vector α n) (i : Fin n) (f : α → α) (j : Nat) (h : j < n) (hj : i.val ≠ j) :
    (upd v i f)[j] = v[j] := by simp [hj]

@[simp] theorem vmap_get (f : α → β) (v : Vector α n) (j : Nat) (h : j < n) : (vmap f v)[j] = f v[j] := by
  simp [vmap]

@[simp] theorem vmapIdx_get (f : Fin n → α → β) (v : Vector α n) (j : Nat) (h : j < n) :
    (vmapIdx f v)[j] = f ⟨j, h⟩ v[j] := by
  simp [vmapIdx]

theorem mem_idxs (i : Fin n) : i ∈ idxs n := by
  simp [idxs]

theorem fin?_some {k : Nat} (h : k < n) : fin? n k = some ⟨k, h⟩ := by simp [fin?, h]

theorem fin?_none {k : Nat} (h : n ≤ k) : fin? n k = none := by
  simp [fin?, Nat.not_lt.mpr h]

end Sys2Proof.Machine
end

