-- ==== Sys2Proof/WellFormed.lean ====
section
/-! DEFINITION. Well-formed commands: every operand that is not bounded by its type fits the field the spec carries it in. A meaning
does not rest on it: a value out of range is refused by the command itself. -/

namespace Sys2Proof

/-- A value of a field of `w` bits. -/
def fits (w n : Nat) : Bool := decide (n < 2 ^ w)

/-- The length of one window of an Aqueduct link: 32 flits of 256 bits (R297). -/
def windowLen (b : Bytes) : Bool := b.length == 1024

/-- Words of the Almanac, and its spare rows (R310, R326). -/
def almWords (l : List Nat) : Bool := l.all fun w => decide (w < 2048)
def almSpares (l : List Nat) : Bool := l.all fun w => decide (w < 64)

/-- Activity counts of a decision window: at most 34 barges, none busier than its cycles, and eight Basin units (R12, R359). -/
def Activity.wf (a : Activity) : Bool :=
  decide (a.busy.length ≤ 34) && a.busy.all (fun x => decide (x.1 ≤ x.2)) && decide (a.lines.length ≤ 8)

/-- A word of a scratchpad of 1.5 MiB, or of the eight Basin units (R80, R131). -/
def Upset.wf (u : Upset) : Bool :=
  match u with
  | .spad _ word _ => decide (word < 196608)
  | .basin word _ => decide (word < 1572864)
  | .astrolabe => true
  | .bootStore _ => true

/-- Every operand of the command fits its field. -/
def Instr.wf (i : Instr) : Bool :=
  match i with
  -- pins, starts and sensors
  | .porNAssert _ => true
  | .porNRelease => true
  | .sysRstNAssert _ => true
  | .sysRstNRelease => true
  | .refClockLoss => true
  | .refClockRestored => true
  | .tamper _ _ => true
  | .securityRestart _ => true
  | .pwrAck _ => true
  | .pwrFault _ => true
  | .railAckTimeout _ => true
  | .sensorUpdate _ _ => true
  | .sensorStale _ => true
  | .dieSensorSample _ => true
  | .calibrationWindowEnd counts refs upsets =>
    counts.toList.all (fits 20) && decide (refs ≤ 4096) && upsets.all Upset.wf
  | .almanacFullRead marginal spares => almWords marginal && almSpares spares
  | .firmwareSetLoaded => true
  | .quickPassEnd fails => fails.all fun f => decide (f.1 < 64) && decide (f.2 < if f.1 < 34 then 16 else 104)
  | .twilightPackageLoad => true
  | .twilightBegin => true
  | .rootDerivationDone => true
  | .twilightEnd => true
  -- memory ports
  | .mptCreditGrant _ _ => true
  | .wheelSlot _ => true
  | .mptReadResponse _ tag _ data => fits 10 tag && data.length == 128
  | .mptWriteAck _ tag _ => fits 10 tag
  | .mptReadTimeout _ tag => fits 10 tag
  | .latencyLevelRelease _ _ tag => fits 10 tag
  -- System Port and rings
  | .registerWrite _ _ size _ => decide (0 < size)
  | .sysObCredit _ => true
  | .sysWheelSlot => true
  | .sysObReadResponse _ _ data => decide (data.length ≤ 64)
  | .sysObWriteAck _ _ => true
  | .sysObTimeout _ _ => true
  | .sysResponseRelease _ _ => true
  | .sqDoorbell _ _ _ _ => true
  | .cqHeadWrite _ _ _ => true
  | .ringEnable _ _ _ _ => true
  | .ringDisable _ _ _ _ => true
  | .descriptorFetched _ _ => true
  | .submit _ _ kc => fits 64 kc
  | .cancel _ _ kc => fits 64 kc
  | .load _ _ kc => fits 64 kc
  | .descNop _ _ kc => fits 64 kc
  | .stagingComplete _ kc => fits 64 kc
  | .recordWritten _ => true
  | .irqPendClear _ => true
  -- lock cycles
  | .formCycle _ kc => fits 64 kc
  | .stepToken _ => true
  | .stepRefusal _ _ => true
  | .stepDoneToken _ _ kc => fits 64 kc
  | .commitPoint _ kc => fits 64 kc
  | .deadlineTestTick _ kc => fits 64 kc
  | .tollCfgWrite _ _ _ kc _ => fits 64 kc
  | .tollCapWrite _ _ _ _ => true
  -- passage programs: every field is bounded by its type
  | .nop _ => true
  | .wait _ _ _ _ _ _ _ => true
  | .signal _ _ _ _ _ _ _ => true
  | .cgive _ _ _ _ => true
  | .clim _ _ _ => true
  | .stepdone _ => true
  | .fence _ => true
  | .li _ _ _ => true
  | .salu _ _ _ _ _ => true
  | .sld _ _ _ => true
  | .sst _ _ _ => true
  | .tdset _ _ _ _ => true
  | .loop _ _ _ => true
  | .br _ _ _ _ _ => true
  | .mma _ _ _ _ _ _ _ _ _ => true
  | .vop _ _ _ _ _ _ _ => true
  | .vld _ _ _ _ _ => true
  | .vst _ _ _ _ _ => true
  | .vqst _ _ _ _ => true
  | .vred _ _ _ _ _ _ _ _ => true
  | .vjoin _ _ _ _ _ => true
  | .vbc _ _ _ _ => true
  | .vspl _ _ _ => true
  | .vrng _ _ _ _ _ _ _ => true
  | .vsel _ _ _ _ _ _ _ => true
  | .mld _ _ _ _ _ _ _ => true
  | .mst _ _ _ _ _ _ _ => true
  | .mxfr _ _ _ _ _ _ _ _ => true
  | .mgth _ _ _ _ _ _ => true
  -- barges, migration, Dredges and loads
  | .tokenArrival _ _ => true
  | .creditArrival _ _ => true
  | .bargeWatchdog _ => true
  | .bargeFault _ _ => true
  | .migrationStart _ => true
  | .migrationComplete _ => true
  | .bargeDredgeComplete _ => true
  | .basinUnitEpochLost _ => true
  | .basinDredgeComplete _ => true
  | .loadChunk => true
  -- operator commands: the field widths of R390
  | .reachCreate reach flights units k base pages keys aqd =>
    fits 8 reach && fits 8 flights && fits 8 units && fits 8 k && fits 64 base && fits 32 pages && fits 8 keys && aqd.toList.all (fits 8)
  | .reachDrain reach mode => fits 8 reach && fits 8 mode
  | .spill reach en => fits 8 reach && fits 8 en
  | .debugSet reach level => fits 8 reach && fits 8 level
  | .debugTap value => fits 8 value
  | .winRead offset count => fits 32 offset && fits 8 count
  | .winWrite offset _ => fits 32 offset
  | .latLevel sys mpt => fits 16 sys && fits 16 mpt
  | .linkOpen link channel => fits 8 link && fits 8 channel
  | .alertLog offset => fits 32 offset
  | .ackLog => true
  | .linkWrapKey _ => true
  | .lcNonce => true
  | .lcAdvance _ => true
  | .lcScrap => true
  | .almProvisionWrite word _ => fits 16 word
  | .almGenRoots => true
  | .almLock part _ => fits 8 part
  | .almLicenseeWrite word _ => fits 16 word
  | .almRevoke index => fits 8 index
  | .almCounterAdvance counter value => fits 8 counter && fits 16 value
  | .almRepair => true
  | .stcStream offset data => fits 32 offset && decide (data.length ≤ 4096)
  | .stcAbort => true
  | .stcConfirm => true
  | .stcDrydock => true
  | .stcRoute mask => fits 8 mask
  | .stcPush link => fits 8 link
  | .watchWrite offset _ => fits 32 offset
  | .pwrTrim _ t => fits 8 t
  | .pwrKeep _ => true
  | .pwrOff => true
  | .pwrBudget reach w8 => fits 8 reach && fits 16 w8
  | .pwrBoostEn reach en => fits 8 reach && fits 8 en
  | .pwrDwell _ reach ms => fits 8 reach && fits 16 ms
  | .pwrWake => true
  | .query => true
  -- Sluice
  | .dozeEnter _ => true
  | .sluiceDecision activity => activity.toList.all Activity.wf
  | .sluiceSecondTick => true
  | .sluiceReplySend => true
  -- Ephemeris
  | .loadRoot _ => true
  | .ephWrite _ _ owner _ _ _ _ key => fits 4 owner && decide (key.length ≤ 64)
  | .derive _ _ owner _ _ _ _ _ ctx => fits 4 owner && decide (ctx.length ≤ 128)
  | .invalidate _ => true
  | .invalidateOwner owner => fits 4 owner
  | .expireOwner owner => fits 4 owner
  | .ephCmdDone => true
  | .keyUse _ _ owner => fits 4 owner
  | .drbgReseed _ => true
  -- Astrolabe: the field widths of R278
  | .p384Verify owner keyline => fits 4 owner && fits 8 keyline
  | .p384Sign owner keyline => fits 4 owner && fits 8 keyline
  | .p384Keygen owner keyline _ _ _ => fits 4 owner && fits 8 keyline
  | .p384Ecdh owner keyline => fits 4 owner && fits 8 keyline
  | .ed25519Verify owner keyline => fits 4 owner && fits 8 keyline
  | .rsa4096Verify owner keyline => fits 4 owner && fits 8 keyline
  | .rsa4096Crt owner keyline => fits 4 owner && fits 8 keyline
  | .mlkemKeygen owner keyline => fits 4 owner && fits 8 keyline
  | .mlkemEncaps owner keyline => fits 4 owner && fits 8 keyline
  | .mlkemDecaps owner keyline => fits 4 owner && fits 8 keyline
  | .mldsaKeygen owner keyline _ _ _ => fits 4 owner && fits 8 keyline
  | .mldsaSign owner keyline => fits 4 owner && fits 8 keyline
  | .mldsaVerify owner keyline => fits 4 owner && fits 8 keyline
  | .selftest owner => fits 4 owner
  | .abort => true
  | .astrolabeOpDone _ _ _ => true
  | .astDma _ _ _ line count owner storeAddr _ => fits 9 line && fits 9 count && fits 4 owner && fits 25 storeAddr
  | .astDmaDone => true
  -- Almanac controller
  | .almRead word => fits 11 word
  | .almProgram word _ => fits 11 word
  | .almLockPart part _ => fits 3 part
  | .almRepairCmd => true
  | .seeCritical => true
  | .genRoots => true
  | .almCmdDone _ marginal spares => almWords marginal && almSpares spares
  | .almanacCriticalRead _ => true
  -- Towpath: master identities of four bits (R216)
  | .twpMsgWrite mid _ _ _ => fits 4 mid
  | .send mid _ => fits 4 mid
  | .taken mid _ => fits 4 mid
  | .twpBindWrite mid _ _ => fits 4 mid
  | .twpLock mid => fits 4 mid
  | .twpDbClear mid _ _ => fits 4 mid
  | .twpEmptyClear mid _ _ => fits 4 mid
  -- Staircase and Drydock
  | .towpathStreamPiece => true
  | .drydockStream _ offset data => fits 32 offset && decide (data.length ≤ 4096)
  | .streamApplied _ => true
  | .staircaseAck _ _ => true
  | .streamTimeout => true
  | .counter0AdvanceTimer => true
  -- Aqueduct
  | .aqdWindowSlot _ _ => true
  | .aqdInit _ _ => true
  | .aqdResp _ _ _ => true
  | .aqdFin _ _ _ => true
  | .aqdData _ window => windowLen window
  | .aqdCredit _ window => windowLen window
  | .aqdXack _ window => windowLen window
  | .aqdRekey _ window => windowLen window
  | .aqdClose _ window => windowLen window
  | .aqdPublic _ window => windowLen window
  | .aqdZero _ window => windowLen window
  | .handshakeTimeout _ _ => true
  | .creditTimeout _ _ => true
  | .transportReadyDrop _ => true
  -- SPDM and attestation
  | .getVersion ep => fits 8 ep
  | .getCapabilities ep version => fits 8 ep && fits 8 version
  | .negotiateAlgorithms ep _ => fits 8 ep
  | .getDigests ep => fits 8 ep
  | .getCertificate ep slot offset length => fits 8 ep && fits 4 slot && fits 16 offset && fits 16 length
  | .challenge ep slot _ => fits 8 ep && fits 4 slot
  | .getMeasurements ep index _ => fits 8 ep && fits 8 index
  | .keyExchange ep target _ _ => fits 8 ep && fits 8 target
  | .finish _ _ _ => true
  | .heartbeat _ => true
  | .keyUpdate _ => true
  | .endSession _ => true
  | .chunkSend ep seqNo _ _ => fits 8 ep && fits 16 seqNo
  | .chunkGet ep seqNo => fits 8 ep && fits 16 seqNo
  | .respondIfReady ep token => fits 8 ep && fits 8 token
  | .gxReport ep reach fmt _ offset _ => fits 8 ep && fits 8 reach && fits 8 fmt && fits 32 offset
  | .gxPqChain ep offset _ => fits 8 ep && fits 32 offset
  | .gxKeyOffer _ => true
  | .gxKeyDeliver _ _ _ _ _ => true
  | .gxDrain _ mode => fits 8 mode
  | .gxIdentity ep => fits 8 ep
  | .sessionIdleTimeout _ => true
  | .keyOfferLapse => true
  -- Collimator, Chronograph, Eyepiece
  | .collimatorPick => true
  | .sliceEnd => true
  | .sliceDue _ => true
  | .astrolabeSelftestDue => true
  | .reachDredgeComplete _ => true
  | .chrCfgWrite mid _ _ _ => fits 4 mid
  | .chrSnapSel mid _ _ => fits 4 mid
  | .chrSampleDone _ _ => true
  | .eyeMemData mid _ _ => fits 4 mid
  | .halt mid target _ => fits 4 mid && fits 4 target
  | .step mid target => fits 4 mid && fits 4 target
  | .winUpdate _ _ _ => true
  | .winCapture => true
  | .winAccessDone => true
  | .transportReadyRise _ => true
  | .signatureCompared _ => true

end Sys2Proof
end

