-- ==== Sys2Proof/Tests/Slice0.lean ====
section
/-! SUPPORT. Tests: the worked examples of the spec, words of passage programs, ill-formed commands, and for every obligation that has
hypotheses one theorem that shows states and operands meeting them, at boundary values for each of its clauses. -/

namespace Sys2Proof.Tests

set_option Elab.async false
set_option maxRecDepth 20000
set_option synthInstance.maxSize 100000
set_option synthInstance.maxHeartbeats 400000

open Sys2Proof Sys2Proof.Machine
/-! ### Small states -/

/-- An island that runs. -/
def on : Island := { powered := true, clkLocked := true, freqMhz := 1000, inReset := false }

/-- A VALID slot for one engine class. -/
def slotFor (o : Nat) (e : Engine) : Slot :=
  { key := zeros 32, state := .valid, owner := o, engines := [e], lifetime := .counted, uses := 2 ^ 20 }

/-- The block in FULL with an operator session in place. -/
def up : State :=
  { State.reset with
    pins := { porN := true }, isl := Vector.replicate 64 on
    mer := { phase := .full, step := .done, lc := .prod, slot := .a }, slu := { bootRom := false }, ast := { progLoaded := true }
    eph := { drbgOk := true
             slots := put (put (Vector.replicate 256 {}) 22 (slotFor 0xE .meridianGcm)) 23 (slotFor 0xE .meridianGcm) }
    spdm := { sessions := put (Vector.replicate 8 none) 7 (some { target := 0xE, ep := 0, phase := .established, th2 := [] }) } }

/-- In PROVISION. -/
def blank : State := up.onMer fun m => { m with phase := .provision, lc := .blank }

/-- At a step of a start. -/
def atStep (x : StartStep) : State := up.onMer fun m => { m with step := x, phase := .verify }

/-- Every island's time is `n` seconds. -/
def secs (n : Nat) (s : State) : State := { s with isl := vmap (fun (i : Island) => { i with timePs := n * secondPs }) s.isl }

/-- Reach 0 SEALED: one flight's shares, slots 32 to 39. -/
def tenant : State :=
  (up.onReach 0 fun x => { x with state := .sealed, epoch := 5, flights := 1, units := [0], keyFirst := 32, keyCount := 8, memPages := 1 }).onBasin
    fun x => { x with units := put x.units 0 { epoch := 5, owner := 0 } }

/-- Barge 3 of reach 0 runs a passage program. -/
def sailing : State :=
  tenant.onBarge 3 fun g => { g with role := .active, reach := 0, logical := 0, epoch := 5, run := .step, mcodeLoaded := true, sregs := put g.sregs 3 1 }

/-- Eight SPARE barges. -/
def fleet : State := { up with barge := vmapIdx (fun i g => if i.val < 8 then { g with role := .spare } else g) up.barge }

def onSlot (i : SlotId) (x : Slot) (s : State) : State := s.onEph fun e => { e with slots := put e.slots i x }
def onPort0 (f : Port → Port) (s : State) : State := s.onPort 0 f
def onChan8 (l : LinkId) (c : Chan) (s : State) : State := s.onLink l fun k => { k with ready := true, chan := put k.chan 8 c }
def onChan0 (l : LinkId) (c : Chan) (s : State) : State := s.onLink l fun k => { k with ready := true, chan := put k.chan 0 c }
def onTwpChan (c : ChanId) (x : TwpChan) (s : State) : State := s.onTwp fun y => { y with chan := put y.chan c x }
def onSq (q : Fin 2) (x : Sq) (s : State) : State := s.onRing 0 fun b => { b with sq := put b.sq q x }
def onCq (x : Cq) (s : State) : State := s.onRing 0 fun b => { b with cq := x }
def onB3 (f : Barge → Barge) (s : State) : State := s.onBarge 3 f

/-- Driver software's message stands in Towpath channel 2. -/
def driverSays (k a b : Nat) : State :=
  onTwpChan 2 { state := .full, valid := true, sender := 0, receiver := 12
                words := put (put (put (Vector.replicate 16 0) 0 (BitVec.ofNat 32 k)) 1 (BitVec.ofNat 32 a)) 2 (BitVec.ofNat 32 b) } up

/-- A window: TYPE, GEN 2, SRC, DST, COUNTER 1, NLINES. -/
def window (typ src dst nlines : Nat) : Bytes :=
  [BitVec.ofNat 8 typ, 2, BitVec.ofNat 8 src, BitVec.ofNat 8 dst] ++ zeros 11 ++ [1, BitVec.ofNat 8 nlines] ++ zeros 1007

/-- A tensor descriptor: SPACE and region, format byte, PDEPTH, DIM0, DIM1, base. -/
def tdesc (space form pdepth dim0 dim1 base scale : Nat) : Bytes :=
  leBytes 4 base ++ leBytes 4 scale ++ zeros 4 ++ leBytes 1 space ++ leBytes 1 form ++ leBytes 1 pdepth ++ zeros 1
    ++ leBytes 2 dim0 ++ leBytes 2 dim1 ++ leBytes 2 1 ++ leBytes 2 1 ++ leBytes 4 64 ++ zeros 36

/-- Descriptors 0 and up of barge 3. -/
def withDescs (l : List Bytes) (s : State) : State := onB3 (fun g => { g with spad := memPut g.spad descBase l.flatten }) s

def txn (k : Rw) : MemTxn := { tag := 0, svc := 0, req := { kind := k, addr := 0, use := .load }, spilled := false }
def sysTxn (k : Rw) : SysTxn := { tag := 0, owner := 0, req := { kind := k, addr := 0, len := 64, use := .fetch 0 0 } }
def bucket : Bucket := { maxPatches := 0, maxPrompt := 1, maxContext := 2, maxNew := 1, maxRows := 1, chunk := 1, patch := 14 }
def request : Req :=
  { ctx := 0, tag := 9, state := .active, sq := 0, normal := false, cust := 0, seed := 0, greedy := true, maxNew := 1, deadlineUs := 0
    policy := .continue, moorLimitMs := 0, patchRows := 0, patchCols := 0, nPrompt := 1, frameAddr := 0, promptAddr := 0, outAddr := 0
    bucket := bucket, prefilled := 1, acceptSeq := 0, acceptCus := 0 }
def entry : Entry :=
  { ctx := 0, tag := 9, decode := true, sample := true, greedy := true, first := false, row0 := 0, nRows := 1, pos := 0, tokIdx := 0
    seed := 0, inToken := 0, inputOff := 0 }
def record : Rec :=
  { tag := 9, token := none, tokIdx := 0, status := 0, last := true, reply := false, sq := 0, stop := false, cycle := 0, keeperUs := 0
    outAddr := 0, groupEnd := true, frees := some 0 }
def package : Package := { flights := 1, buckets := [bucket], scheds := [{ progSection := 0, descSection := 0, init := 0, step := 7, resume := 0, progLen := 9 }]
                           regions := [{ weight := true, base := 0, size := 4096, tagBase := 0 }, { weight := false, base := 4096, size := 4096, tagBase := 0 }] }

/-- Reach 0 with its package, barge 3 idle, its rings enabled, its core running. -/
def working (k : Keeper) : State :=
  (onCq { enable := true, state := .enabled } (onSq 0 { enable := true, state := .enabled } (onB3 (fun g => { g with run := .idle }) (
    (sailing.onReach 0 fun x => { x with pkg := some package }))))).onKeeper 0 fun _ => { k with core := .running, liveSched := 1 }

def ready (d : Bytes) (gen2 : Bool) (k : Keeper) : State := onSq 0 { enable := true, state := .enabled, gen2, tail := 1, fetched := [d] } (working k)
def submitDesc : Bytes := [1] ++ zeros 15 ++ [1] ++ zeros 9 ++ [1] ++ zeros 37

/-- The three copies of the life-cycle word. -/
def memPut64 (v : BitVec 64) : List (Nat × BitVec 64) := if v = 0 then [] else [(0, v), (1, v), (2, v)]

/-- The word of an instruction stands at the program counter of barge 3. -/
def sees (i : Instr) (s : State) : State :=
  onB3 (fun g => { g with spad := memPut g.spad (progBase + 8 * g.pc) (leBytes 8 ((encodeWord i).getD 0)) }) s

/-! ### Words of passage programs, written out from the tables of chapter 5 -/

/-- R116, Example A. -/
theorem test_word_mma : decodeWord 3 0x40120307FFF4A080 = some (.mma 3 0x12 3 7 63 63 9 2 1) := by decide +kernel

/-- R113: OPCODE 0x08, D = 3, IMM = 5; OPCODE 0x01, TA = 3, CA = 3. -/
theorem test_word_control :
    decodeWord 0 0x0818000000000005 = some (.li 0 3 5) ∧ decodeWord 0 0x0130030000000000 = some (.wait 0 3 3 0 0 0 0) := by decide +kernel

/-- R117: OPCODE 0x80, FN = FMA, VD = 2, VA = 1, VB = 4, VC = 5, L = 128. -/
theorem test_word_vector : decodeWord 0 0x800C8517F8000000 = some (.vop 0 .fma 2 1 4 5 127) := by decide +kernel

/-- R119: OPCODE 0xC0, DST = 2, SRC = 1, TV, TCH = 4. -/
theorem test_word_move : decodeWord 0 0xC00201A000000000 = some (.mld 0 2 1 true 4 false 0) := by decide +kernel

/-- R110: an opcode the chapter does not list, and a reserved bit that is not zero. -/
theorem test_word_refused : decodeWord 0 0x0700000000000000 = none ∧ decodeWord 0 0x0600000000000001 = none := by decide +kernel

/-! ### Worked examples of the spec -/

/-- Chapter 3, Example A: encodings and their values in FP32. -/
theorem test_decoded_encodings :
    (fenc (decodeF fp8e4 0x7E), fenc (decodeF fp8e4 0x7F), fenc (decodeF fp8e4 0xB4), fenc (decodeF fp8e4 1)) = (0x43E00000, 0x7FC00000, 0xBF400000, 0x3B000000) ∧
    (fenc (decodeF fp8e5 0x7B), fenc (decodeF fp8e5 0x7C), fenc (decodeF fp8e5 0x3C), fenc (decodeF fp6e3 0x1F)) = (0x47600000, 0x7F800000, 0x3F800000, 0x41E00000) ∧
    (fenc (decodeF fp6e3 1), fenc (decodeF fp6e2 0x1F), fenc (decodeF fp6e2 1), fenc (decodeF fp4 7), fenc (decodeF fp4 0xA)) =
      (0x3D800000, 0x40F00000, 0x3E000000, 0x40C00000, 0xBF800000) := by decide +kernel

/-- Chapter 3, Example B: 5.0, −0.7, 31.0 and 0.3 quantised to block-scaled FP4. -/
theorem test_quantised_block :
    quantBlock 7 ([0x40A00000, 0xBF333333, 0x41F80000, 0x3E99999A] ++ List.replicate 28 0) = (0x81, [2, 8, 7, 0] ++ List.replicate 28 0) := by
  decide +kernel

/-- Chapter 3, Example C: the root over three leaves. -/
theorem test_tree_order : tree [0x4B800000, 0x3F800000, 0x3F800000] = 0x4B800000 := by decide +kernel

/-- Chapter 3, Example D: the token of three candidates at u = 0.5. -/
theorem test_token_selected :
    selectToken [(0x3E800000, 17), (0x3F000000, 4), (0x3E800000, 9)] 0x3F000000 false = some 9 := by decide +kernel

/-- Chapter 5, Example B: the parts of 157 leaves at depth 2. -/
theorem test_parts : parts 2 0 157 = [(0, 64), (64, 64), (128, 16), (144, 13)] := by decide +kernel

/-- Chapter 6, Example A: the port of a weight block and the address of its tag. -/
theorem test_tag_address :
    (portOf (0x400000000 + 0x12345 * 256)).val = 5 ∧
    tagAddr { weight := true, base := 0x400000000, size := 0x100000000, tagBase := 0x500000000 } 0x12345 = 0x5000915A0 := by decide +kernel

/-- Chapter 15, Example A: two good copies decide PROD while the third reads marginal, and LC_GOOD reads 0b011. -/
theorem test_life_cycle_decided :
    ({ words := [(0, 0xFF00FF), (1, 0xFF00FF), (2, 0xFF00FF)], marginal := [2] } : Almanac).lc = some .prod := by decide +kernel

/-- R7, R9: a write of GLB_BLOCK_VERSION changes nothing, and the register reads 0x0002_0400. -/
theorem test_version_read_only :
    (match exec (.registerWrite false 4 4 0xFFFFFFFF) up with
      | .next t => decide (t.sys.audit = [] ∧ regWord t 0 4 = some 0x00020400)
      | _ => false) = true := by decide +kernel

/-- Chapter 21, Example A: CHR_CFG_61_0 at 0x0004_0F40. REACH of a keeper core reads 0xF. -/
theorem test_counter_configured :
    (match exec (.registerWrite false 0x040F40 4 0x00000101) up with
      | .next t => decide (regWord t 0 0x040F40 = some 0x000F0101 ∧ t.chr.unit[(61 : Fin 71)].prog[(0 : Fin 8)].en = true)
      | _ => false) = true := by decide +kernel

/-- Chapter 8, Example B: RATE 40, cap 20,000, mode WAIT for customer 3 of a reach. -/
theorem test_toll_configured :
    (match exec (.tollCapWrite 2 3 false 0x00004E20) up with
      | .next t => decide (t.keeper[(2 : SvcId)].tolls[(3 : Fin 16)].cap = 20000)
      | _ => false) = true ∧
    (match exec (.tollCfgWrite 2 3 false 0 0x00280001) (up.onKeeper 2 fun k => { k with tolls := put k.tolls 3 { cap := 20000 } }) with
      | .next t => decide (t.keeper[(2 : SvcId)].tolls[(3 : Fin 16)].balance = 20000 ∧ t.keeper[(2 : SvcId)].tolls[(3 : Fin 16)].rate = 40)
      | _ => false) = true := by decide +kernel

/-- Chapter 19, Example A: the partial Dredge for OPEN ends, and GLB_REACH_STATE_2 reads 0x0046_0069; a lowering gives 0x0046_0049. -/
theorem test_opened_reach :
    (let s := { (up.onReach 2 fun x =>
        { x with state := .loading, locked := true, epoch := 0x45, opened := true, debug := .opened, flights := 1, dredge := .forOpen }) with epochCtr := 0x46 }
     match exec (.reachDredgeComplete 2) s with
      | .next t => reachWord t 2 0 == some 0x00460069 &&
          (match exec (.debugSet 2 0) t with
            | .next t => reachWord t 2 0 == some 0x00460049
            | _ => false)
      | _ => false) = true := by decide +kernel

/-! ### Ill-formed commands: one operand past its field, every other in range -/

theorem test_ill_formed_1 :
    ([.calibrationWindowEnd (put (Vector.replicate 64 0) 3 (2 ^ 20)) 0 [],
      .calibrationWindowEnd (Vector.replicate 64 0) 4097 [],
      .calibrationWindowEnd (Vector.replicate 64 0) 0 [.spad 0 196608 false],
      .calibrationWindowEnd (Vector.replicate 64 0) 0 [.basin 1572864 true],
      .almanacFullRead [2048] [],
      .almanacFullRead [] [64],
      .quickPassEnd [(64, 0)],
      .quickPassEnd [(0, 16)],
      .mptReadResponse 0 (2 ^ 10) 0 (zeros 128),
      .mptReadResponse 0 0 0 (zeros 127),
      .mptWriteAck 0 (2 ^ 10) 0,
      .mptReadTimeout 0 (2 ^ 10),
      .latencyLevelRelease 0 .rd (2 ^ 10),
      .registerWrite false 0 0 0,
      .sysObReadResponse 0 false (zeros 65),
      .submit 0 0 (2 ^ 64),
      .cancel 0 0 (2 ^ 64),
      .load 0 0 (2 ^ 64),
      .descNop 0 0 (2 ^ 64),
      .stagingComplete 0 (2 ^ 64),
      .formCycle 0 (2 ^ 64),
      .stepDoneToken 0 0 (2 ^ 64),
      .commitPoint 0 (2 ^ 64),
      .deadlineTestTick 0 (2 ^ 64),
      .tollCfgWrite 0 0 false (2 ^ 64) 0,
      .reachCreate (2 ^ 8) 0 0 0 0 0 0 (Vector.replicate 4 0),
      .reachCreate 0 (2 ^ 8) 0 0 0 0 0 (Vector.replicate 4 0)] : List Instr).all (fun i => !i.wf) = true := by decide +kernel

theorem test_ill_formed_2 :
    ([.reachCreate 0 0 (2 ^ 8) 0 0 0 0 (Vector.replicate 4 0),
      .reachCreate 0 0 0 (2 ^ 8) 0 0 0 (Vector.replicate 4 0),
      .reachCreate 0 0 0 0 (2 ^ 64) 0 0 (Vector.replicate 4 0),
      .reachCreate 0 0 0 0 0 (2 ^ 32) 0 (Vector.replicate 4 0),
      .reachCreate 0 0 0 0 0 0 (2 ^ 8) (Vector.replicate 4 0),
      .reachCreate 0 0 0 0 0 0 0 (put (Vector.replicate 4 0) 3 (2 ^ 8)),
      .reachDrain (2 ^ 8) 0,
      .reachDrain 0 (2 ^ 8),
      .spill (2 ^ 8) 0,
      .spill 0 (2 ^ 8),
      .debugSet (2 ^ 8) 0,
      .debugSet 0 (2 ^ 8),
      .debugTap (2 ^ 8),
      .winRead (2 ^ 32) 0,
      .winRead 0 (2 ^ 8),
      .winWrite (2 ^ 32) 0,
      .latLevel (2 ^ 16) 0,
      .latLevel 0 (2 ^ 16),
      .linkOpen (2 ^ 8) 0,
      .linkOpen 0 (2 ^ 8),
      .alertLog (2 ^ 32),
      .almProvisionWrite (2 ^ 16) 0,
      .almLock (2 ^ 8) 0,
      .almLicenseeWrite (2 ^ 16) 0,
      .almRevoke (2 ^ 8),
      .almCounterAdvance (2 ^ 8) 0,
      .almCounterAdvance 0 (2 ^ 16)] : List Instr).all (fun i => !i.wf) = true := by decide +kernel

theorem test_ill_formed_3 :
    ([.stcStream (2 ^ 32) [],
      .stcStream 0 (zeros 4097),
      .stcRoute (2 ^ 8),
      .stcPush (2 ^ 8),
      .watchWrite (2 ^ 32) [],
      .pwrTrim false (2 ^ 8),
      .pwrBudget (2 ^ 8) 0,
      .pwrBudget 0 (2 ^ 16),
      .pwrBoostEn (2 ^ 8) 0,
      .pwrBoostEn 0 (2 ^ 8),
      .pwrDwell false (2 ^ 8) 0,
      .pwrDwell false 0 (2 ^ 16),
      .sluiceDecision (put (Vector.replicate 8 { busy := [], lines := [], reads := 0, writes := 0 }) 7 { busy := List.replicate 35 (0, 1), lines := [], reads := 0, writes := 0 }),
      .sluiceDecision (put (Vector.replicate 8 { busy := [], lines := [], reads := 0, writes := 0 }) 7 { busy := [(2, 1)], lines := [], reads := 0, writes := 0 }),
      .sluiceDecision (put (Vector.replicate 8 { busy := [], lines := [], reads := 0, writes := 0 }) 7 { busy := [], lines := List.replicate 9 0, reads := 0, writes := 0 }),
      .ephWrite 0 0 (2 ^ 4) 0 0 0 0 [],
      .ephWrite 0 0 0 0 0 0 0 (zeros 65),
      .derive 0 0 (2 ^ 4) 0 0 0 0 0 [],
      .derive 0 0 0 0 0 0 0 0 (zeros 129),
      .invalidateOwner (2 ^ 4),
      .expireOwner (2 ^ 4),
      .keyUse 0 .kdf (2 ^ 4),
      .p384Verify (2 ^ 4) 0,
      .p384Verify 0 (2 ^ 8),
      .p384Sign (2 ^ 4) 0,
      .p384Sign 0 (2 ^ 8),
      .p384Keygen (2 ^ 4) 0 false 0 0] : List Instr).all (fun i => !i.wf) = true := by decide +kernel

theorem test_ill_formed_4 :
    ([.p384Keygen 0 (2 ^ 8) false 0 0,
      .p384Ecdh (2 ^ 4) 0,
      .p384Ecdh 0 (2 ^ 8),
      .ed25519Verify (2 ^ 4) 0,
      .ed25519Verify 0 (2 ^ 8),
      .rsa4096Verify (2 ^ 4) 0,
      .rsa4096Verify 0 (2 ^ 8),
      .rsa4096Crt (2 ^ 4) 0,
      .rsa4096Crt 0 (2 ^ 8),
      .mlkemKeygen (2 ^ 4) 0,
      .mlkemKeygen 0 (2 ^ 8),
      .mlkemEncaps (2 ^ 4) 0,
      .mlkemEncaps 0 (2 ^ 8),
      .mlkemDecaps (2 ^ 4) 0,
      .mlkemDecaps 0 (2 ^ 8),
      .mldsaKeygen (2 ^ 4) 0 false 0 0,
      .mldsaKeygen 0 (2 ^ 8) false 0 0,
      .mldsaSign (2 ^ 4) 0,
      .mldsaSign 0 (2 ^ 8),
      .mldsaVerify (2 ^ 4) 0,
      .mldsaVerify 0 (2 ^ 8),
      .selftest (2 ^ 4),
      .astDma 0 false false (2 ^ 9) 0 0 0 false,
      .astDma 0 false false 0 (2 ^ 9) 0 0 false,
      .astDma 0 false false 0 0 (2 ^ 4) 0 false,
      .astDma 0 false false 0 0 0 (2 ^ 25) false,
      .almRead (2 ^ 11)] : List Instr).all (fun i => !i.wf) = true := by decide +kernel

theorem test_ill_formed_5 :
    ([.almProgram (2 ^ 11) 0,
      .almLockPart (2 ^ 3) 0,
      .almCmdDone .verified [2048] [],
      .almCmdDone .verified [] [64],
      .twpMsgWrite (2 ^ 4) 0 0 0,
      .send (2 ^ 4) 0,
      .taken (2 ^ 4) 0,
      .twpBindWrite (2 ^ 4) 0 0,
      .twpLock (2 ^ 4),
      .twpDbClear (2 ^ 4) 0 0,
      .twpEmptyClear (2 ^ 4) 0 0,
      .drydockStream none (2 ^ 32) [],
      .drydockStream none 0 (zeros 4097),
      .aqdData 0 (zeros 1023),
      .aqdCredit 0 (zeros 1023),
      .aqdXack 0 (zeros 1023),
      .aqdRekey 0 (zeros 1023),
      .aqdClose 0 (zeros 1023),
      .aqdPublic 0 (zeros 1023),
      .aqdZero 0 (zeros 1023),
      .getVersion (2 ^ 8),
      .getCapabilities (2 ^ 8) 0,
      .getCapabilities 0 (2 ^ 8),
      .negotiateAlgorithms (2 ^ 8) ({ asym := false, hash := false, dhe := false, aead := false, keySchedule := false }),
      .getDigests (2 ^ 8),
      .getCertificate (2 ^ 8) 0 0 0,
      .getCertificate 0 (2 ^ 4) 0 0] : List Instr).all (fun i => !i.wf) = true := by decide +kernel

theorem test_ill_formed_6 :
    ([.getCertificate 0 0 (2 ^ 16) 0,
      .getCertificate 0 0 0 (2 ^ 16),
      .challenge (2 ^ 8) 0 (Vector.replicate 32 0),
      .challenge 0 (2 ^ 4) (Vector.replicate 32 0),
      .getMeasurements (2 ^ 8) 0 (Vector.replicate 32 0),
      .getMeasurements 0 (2 ^ 8) (Vector.replicate 32 0),
      .keyExchange (2 ^ 8) 0 [] 0,
      .keyExchange 0 (2 ^ 8) [] 0,
      .chunkSend (2 ^ 8) 0 false [],
      .chunkSend 0 (2 ^ 16) false [],
      .chunkGet (2 ^ 8) 0,
      .chunkGet 0 (2 ^ 16),
      .respondIfReady (2 ^ 8) 0,
      .respondIfReady 0 (2 ^ 8),
      .gxReport (2 ^ 8) 0 0 (Vector.replicate 32 0) 0 none,
      .gxReport 0 (2 ^ 8) 0 (Vector.replicate 32 0) 0 none,
      .gxReport 0 0 (2 ^ 8) (Vector.replicate 32 0) 0 none,
      .gxReport 0 0 0 (Vector.replicate 32 0) (2 ^ 32) none,
      .gxPqChain (2 ^ 8) 0 none,
      .gxPqChain 0 (2 ^ 32) none,
      .gxDrain 0 (2 ^ 8),
      .gxIdentity (2 ^ 8),
      .chrCfgWrite (2 ^ 4) 0 0 0,
      .chrSnapSel (2 ^ 4) 0 0,
      .eyeMemData (2 ^ 4) false 0,
      .halt (2 ^ 4) 0 false,
      .halt 0 (2 ^ 4) false] : List Instr).all (fun i => !i.wf) = true := by decide +kernel

theorem test_ill_formed_7 :
    ([.step (2 ^ 4) 0,
      .step 0 (2 ^ 4)] : List Instr).all (fun i => !i.wf) = true := by decide +kernel

/-! ### Hypotheses of the obligations can be met -/

theorem witness_ResetsBeginStarts_1 :
    (∃ (s : State), s.pins.porN = true) ∧
    (∃ (s : State), s.pins.porN = true) ∧
    (∃ (s : State) (c : Instr) (p : Pins) (n : Nat) (st : Nat), (c = .sysRstNAssert n ∧
      4 ≤ n ∧
      p = { s.pins with sysRstN := false } ∧
      st = Code.systemReset ∨ c = .refClockLoss ∧
      s.pins.refClkOk = true ∧
      p = { s.pins with refClkOk := false } ∧
      st = Code.refClockLoss) ∧
      s.pins.porN = true ∧
      s.slu.state ≠ .off ∧
      s.mer.lockstep ≠ 3) ∧
    (∃ (s : State) (c : Instr) (p : Pins) (n : Nat) (st : Nat), (c = .sysRstNAssert n ∧
      4 ≤ n ∧
      p = { s.pins with sysRstN := false } ∧
      st = Code.systemReset ∨ c = .refClockLoss ∧
      s.pins.refClkOk = true ∧
      p = { s.pins with refClkOk := false } ∧
      st = Code.refClockLoss) ∧
      s.pins.porN = true ∧
      s.slu.state ≠ .off ∧
      s.mer.lockstep ≠ 3) ∧
    (∃ (n : Nat), n < 4) ∧
    (∃ (s : State) (n : Nat), (s.pins.porN = false ∨ s.slu.state = .off) ∧ 4 ≤ n) := by
  refine ⟨⟨up, ?_⟩,
    ⟨up.onStc fun c => { c with recordFresh := true }, ?_⟩,
    ⟨up, .sysRstNAssert 4, { up.pins with sysRstN := false }, 4, Code.systemReset, ?_⟩,
    ⟨up, .refClockLoss, { up.pins with refClkOk := false }, 0, Code.refClockLoss, ?_⟩,
    ⟨3, ?_⟩,
    ⟨State.reset, 4, ?_⟩⟩
  all_goals first | decide +kernel | (dsimp only; decide +kernel)

theorem witness_ResetsBeginStarts_2 :
    (∃ (s : State), (s.pins.porN = false ∨ s.slu.state = .off) ∧ s.pins.refClkOk = true) ∧
    (∃ (s : State) (c : Instr) (p : Pins), (c = .porNRelease ∧
      s.pins.porN = false ∧
      p = { s.pins with porN := true } ∨ c = .sysRstNRelease ∧
      s.pins.sysRstN = false ∧
      p = { s.pins with sysRstN := true } ∨ c = .refClockRestored ∧
      s.pins.refClkOk = false ∧
      p = { s.pins with refClkOk := true }) ∧
      p.porN = true ∧
      p.sysRstN = true ∧
      p.refClkOk = true ∧
      s.slu.state ≠ .off ∧
      s.mer.lockstep ≠ 3) ∧
    (∃ (s : State) (c : Instr) (p : Pins), (c = .porNRelease ∧
      s.pins.porN = false ∧
      p = { s.pins with porN := true } ∨ c = .sysRstNRelease ∧
      s.pins.sysRstN = false ∧
      p = { s.pins with sysRstN := true } ∨ c = .refClockRestored ∧
      s.pins.refClkOk = false ∧
      p = { s.pins with refClkOk := true }) ∧
      p.porN = true ∧
      p.sysRstN = true ∧
      p.refClkOk = true ∧
      s.slu.state ≠ .off ∧
      s.mer.lockstep ≠ 3) ∧
    (∃ (s : State) (c : Instr) (p : Pins), (c = .porNRelease ∧
      s.pins.porN = false ∧
      p = { s.pins with porN := true } ∨ c = .sysRstNRelease ∧
      s.pins.sysRstN = false ∧
      p = { s.pins with sysRstN := true } ∨ c = .refClockRestored ∧
      s.pins.refClkOk = false ∧
      p = { s.pins with refClkOk := true }) ∧
      p.porN = true ∧
      p.sysRstN = true ∧
      p.refClkOk = true ∧
      s.slu.state ≠ .off ∧
      s.mer.lockstep ≠ 3) ∧
    (∃ (s : State), s.pins.sysRstN = false ∧ (s.pins.porN = false ∨ s.pins.refClkOk = false)) ∧
    (∃ (s : State), s.pins.refClkOk = false ∧ (s.pins.porN = false ∨ s.pins.sysRstN = false)) := by
  refine ⟨⟨up.onSlu fun x => { x with state := .off }, ?_⟩,
    ⟨{ up with pins := { up.pins with porN := false } }, .porNRelease, up.pins, ?_⟩,
    ⟨{ up with pins := { up.pins with sysRstN := false } }, .sysRstNRelease, up.pins, ?_⟩,
    ⟨{ up with pins := { up.pins with refClkOk := false } }, .refClockRestored, up.pins, ?_⟩,
    ⟨{ up with pins := { up.pins with sysRstN := false, refClkOk := false } }, ?_⟩,
    ⟨{ up with pins := { up.pins with sysRstN := false, refClkOk := false } }, ?_⟩⟩
  all_goals first | decide +kernel | (dsimp only; decide +kernel)

theorem witness_ResetsBeginStarts_3 :
    ∃ (s : State), s.pins.porN = false ∧ (s.pins.sysRstN = false ∨ s.pins.refClkOk = false) := by
  refine ⟨{ up with pins := { up.pins with sysRstN := false, porN := false } }, ?_⟩
  all_goals first | decide +kernel | (dsimp only; decide +kernel)

theorem witness_TamperAndRestart_1 :
    (∃ (s : State) (i : Fin 4) (n : Nat), 3 ≤ n ∧ s.params.tamperMask.getLsbD i.val = true ∧ s.pins.porN = true ∧ s.slu.state ≠ .off) ∧
    (∃ (s : State) (i : Fin 4) (n : Nat), n ≠ 0 ∧ (n < 3 ∨ s.params.tamperMask.getLsbD i.val = false)) ∧
    (∃ (s : State) (i : Fin 4) (n : Nat), n ≠ 0 ∧ (n < 3 ∨ s.params.tamperMask.getLsbD i.val = false)) ∧
    (∃ (s : State), s.mer.lockstep < 3 ∧ s.isl[(60 : Fin 64)].powered = true ∧ s.isl[(60 : Fin 64)].inReset = false) ∧
    (∃ (s : State), s.mer.lockstep < 3 ∧ s.isl[(60 : Fin 64)].powered = true ∧ s.isl[(60 : Fin 64)].inReset = false) ∧
    (∃ (s : State) (n : Nat) (x : RestartCause) (c : Instr), s.mer.lockstep = 3 ∧
      (c = .sysRstNAssert n ∨ c = .sysRstNRelease ∨ c = .refClockLoss ∨ c = .refClockRestored ∨ c = .securityRestart x)) := by
  refine ⟨⟨up, 0, 3, ?_⟩,
    ⟨up, 0, 2, ?_⟩,
    ⟨{ up with params := { up.params with tamperMask := 0 } }, 1, 3, ?_⟩,
    ⟨up, ?_⟩,
    ⟨up.onMer fun m => { m with lockstep := 2 }, ?_⟩,
    ⟨up.onMer fun m => { m with lockstep := 3, phase := .halted }, 4, .romError, .sysRstNAssert 4, ?_⟩⟩
  all_goals first | decide +kernel | (dsimp only; decide +kernel)

theorem witness_TamperAndRestart_2 :
    (∃ (s : State) (n : Nat) (x : RestartCause) (c : Instr), s.mer.lockstep = 3 ∧
      (c = .sysRstNAssert n ∨ c = .sysRstNRelease ∨ c = .refClockLoss ∨ c = .refClockRestored ∨ c = .securityRestart x)) ∧
    (∃ (s : State) (n : Nat) (x : RestartCause) (c : Instr), s.mer.lockstep = 3 ∧
      (c = .sysRstNAssert n ∨ c = .sysRstNRelease ∨ c = .refClockLoss ∨ c = .refClockRestored ∨ c = .securityRestart x)) := by
  refine ⟨⟨up.onMer fun m => { m with lockstep := 3, phase := .halted }, 4, .romError, .refClockLoss, ?_⟩,
    ⟨up.onMer fun m => { m with lockstep := 3, phase := .halted }, 4, .romError, .securityRestart .romError, ?_⟩⟩
  all_goals first | decide +kernel | (dsimp only; decide +kernel)

theorem witness_StartReads :
    (∃ (s : State), s.mer.step = .almanac ∧ s.mer.halted = false) ∧
    (∃ (s : State), s.mer.step = .almanac ∧ s.mer.halted = false) ∧
    (∃ (s : State), s.mer.step = .almanac ∧ s.mer.halted = false) ∧
    (∃ (s : State), s.mer.step = .slotChosen ∧ s.mer.halted = false) ∧
    (∃ (s : State), s.col.quickDone = false ∧ s.mer.step ≠ .held ∧ s.mer.step ≠ .almanac) := by
  refine ⟨⟨(atStep .almanac).onAlm fun a => { a with words := memPut64 0 }, ?_⟩,
    ⟨(atStep .almanac).onAlm fun a => { a with words := memPut64 0xFFFFFF }, ?_⟩,
    ⟨(atStep .almanac).onAlm fun a => { a with words := memPut64 0xFFFFFFFFFF }, ?_⟩,
    ⟨atStep .slotChosen, ?_⟩,
    ⟨up, ?_⟩⟩
  all_goals first | decide +kernel | (dsimp only; decide +kernel)

theorem witness_StartCompletes_1 :
    (∃ (s : State), s.mer.step = .firmware ∧
      s.mer.halted = false ∧
      s.col.quickDone = true ∧
      s.mer.waitMem = false ∧
      (∀ p : PortId, s.port[p].ctrlReady = true) ∧
      leNat (memBytes s.stc.watch 0 4) = 0) ∧
    (∃ (s : State), s.mer.step = .firmware ∧
      s.mer.halted = false ∧
      s.col.quickDone = true ∧
      s.mer.waitMem = false ∧
      (∀ p : PortId, s.port[p].ctrlReady = true) ∧
      leNat (memBytes s.stc.watch 0 4) ≠ 0 ∧
      (twilightBarges s = [] ∨ twilightIslandFailed s = true)) ∧
    (∃ (s : State) (n : Nat) (img : Bytes) (ok : Bool), s.mer.step = .firmware ∧
      s.mer.halted = false ∧
      s.col.quickDone = true ∧
      s.mer.waitMem = false ∧
      (∀ p : PortId, s.port[p].ctrlReady = true) ∧
      n = leNat (memBytes s.stc.watch 0 4) ∧
      img = memBytes s.stc.watch 4 n ∧
      0 < n ∧
      ok = (decide (4 + n ≤ watchBytes) && loadCheck { flights := 1, share := unitBytes, window := s.params.twilightSize, mcode := loadedMcode s, int8 := true } img true) ∧
      twilightBarges s ≠ [] ∧
      twilightIslandFailed s = false ∧
      s.eph.drbgOk = true) ∧
    (∃ (s : State), s.mer.step = .package ∧ s.mer.halted = false ∧ s.keeper[(8 : SvcId)].resuming = []) ∧
    (∃ (s : State), s.mer.step = .package ∧ s.mer.halted = false ∧ s.keeper[(8 : SvcId)].resuming = []) ∧
    (∃ (s : State), s.mer.step = .derived ∧
      s.mer.halted = false ∧
      (s.mer.twilightModel = false ∧
      s.mer.twilightEnding = false ∨ s.keeper[twilightSvc].form = none ∧
      s.keeper[twilightSvc].reqs.any Req.live = false ∧
      twilightRecords s = false)) := by
  refine ⟨⟨{ (((atStep .firmware).onCol fun c => { c with quickDone := true })) with port := Vector.replicate 16 { ctrlReady := true } }, ?_⟩,
    ⟨({ (((atStep .firmware).onCol fun c => { c with quickDone := true })) with port := Vector.replicate 16 { ctrlReady := true } }).onStc fun x => { x with watch := memPut [] 0 [1, 0, 0, 0, 7] }, ?_⟩,
    ⟨(({ (((atStep .firmware).onCol fun c => { c with quickDone := true })) with port := Vector.replicate 16 { ctrlReady := true } }).onStc fun x => { x with watch := memPut [] 0 [1, 0, 0, 0, 7] }).onBarge 0 fun g => { g with role := .spare }, 1, [7], false, ?_⟩,
    ⟨atStep .package, ?_⟩,
    ⟨(atStep .package).onMer fun m => { m with stopCause := some 0x61 }, ?_⟩,
    ⟨atStep .derived, ?_⟩⟩
  all_goals first | decide +kernel | (dsimp only; decide +kernel)

theorem witness_StartCompletes_2 :
    (∃ (s : State), s.mer.step = .derived ∧
      s.mer.halted = false ∧
      (s.mer.twilightModel = false ∧
      s.mer.twilightEnding = false ∨ s.keeper[twilightSvc].form = none ∧
      s.keeper[twilightSvc].reqs.any Req.live = false ∧
      twilightRecords s = false)) ∧
    (∃ (s : State), s.mer.step = .twilight ∧
      s.mer.halted = false ∧
      rootsBad s = none ∧
      s.eph.tamper = false ∧
      astBusy s.ast = false ∧
      s.ast.state ≠ .faulted ∧
      s.eph.drbgOk = true) := by
  refine ⟨⟨(atStep .derived).onMer fun m => { m with twilightModel := true }, ?_⟩,
    ⟨atStep .twilight, ?_⟩⟩
  all_goals first | decide +kernel | (dsimp only; decide +kernel)

theorem witness_RailsAndSensors_1 :
    (∃ (s : State) (r : Fin 6), s.pins.porN = true ∧ s.slu.rail[r].settled = false ∧ (s.slu.bootRom = true ∨ s.flight = [])) ∧
    (∃ (s : State) (r : Fin 6), s.pins.porN = true ∧ s.slu.rail[r].settled = false ∧ s.slu.rail[r].late = false) ∧
    (∃ (s : State), s.pins.porN = true ∧ s.slu.state ≠ .off) ∧
    (∃ (s : State) (k : Fin 4), s.pins.porN = true ∧ (s.params.sensorMode ≠ 0 ∨ k ≠ 3)) ∧
    (∃ (s : State), (s.params.sensorMode = 0 ∨ s.pins.porN = false)) ∧
    (∃ (s : State), (s.params.sensorMode = 0 ∨ s.pins.porN = false)) := by
  refine ⟨⟨up.onSlu fun x => { x with rail := upd x.rail 2 fun r => { r with targetMv := 750, on := true } }, 2, ?_⟩,
    ⟨up, 5, ?_⟩,
    ⟨up, ?_⟩,
    ⟨up, 2, ?_⟩,
    ⟨up, ?_⟩,
    ⟨{ up with params := { up.params with sensorMode := 1 }, pins := {} }, ?_⟩⟩
  all_goals first | decide +kernel | (dsimp only; decide +kernel)

theorem witness_RailsAndSensors_2 :
    ∃ (s : State), s.pins.porN = true ∧ s.slu.state ≠ .off := by
  refine ⟨up, ?_⟩
  all_goals first | decide +kernel | (dsimp only; decide +kernel)

theorem witness_TimeAndDoze :
    (∃ (s : State), s.pins.porN = true ∧ s.pins.refClkOk = true ∧ s.slu.state ≠ .off) ∧
    (∃ (s : State), s.pins.porN = true ∧ s.pins.refClkOk = true ∧ s.slu.state ≠ .off) ∧
    (∃ (s : State) (e : Int), s.pins.porN = true ∧ s.slu.state ≠ .off ∧ e = s.slu.extreme.getD s.slu.tempMean) ∧
    (∃ (s : State) (e : Int), s.pins.porN = true ∧ s.slu.state ≠ .off ∧ e = s.slu.extreme.getD s.slu.tempMean) ∧
    (∃ (s : State) (n : ReachId), s.reach[n].state = .sealed ∧
      s.slu.reach[n].dwellMs ≠ 0 ∧
      s.slu.reach[n].dozing = false ∧
      (∀ q ∈ s.keeper[svcOf n].reqs, q.live = false) ∧
      migrationPending s (svcOf n) = false ∧
      s.reach[n].restage = false ∧
      (∀ b ∈ bargesOf s (svcOf n), s.col.barge ≠ some b ∧
      ∀ m ∈ s.flight, m.touches b = false) ∧
      s.slu.state ≠ .keep) := by
  refine ⟨⟨up, ?_⟩,
    ⟨{ up with isl := Vector.replicate 64 { on with windowWhole := true } }, ?_⟩,
    ⟨up, 0, ?_⟩,
    ⟨up.onSlu fun x => { x with extreme := some 200, tempMean := 79 }, 200, ?_⟩,
    ⟨(onB3 (fun g => { g with run := .idle }) sailing).onSlu fun x => { x with reach := upd x.reach 0 fun y => { y with dwellMs := 10 } }, 0, ?_⟩⟩
  all_goals first | decide +kernel | (dsimp only; decide +kernel)

theorem witness_SluiceDecision :
    (∃ (s : State), s.pins.porN = true ∧ s.slu.state ≠ .off) ∧
    (∃ (s : State), s.pins.porN = true ∧ s.slu.state ≠ .off) ∧
    (∃ (s : State), s.pins.porN = true ∧ s.slu.state ≠ .off) := by
  refine ⟨⟨up, ?_⟩,
    ⟨up.onSlu fun x => { x with tempMax := 420 }, ?_⟩,
    ⟨tenant.onSlu fun x => { x with tempMax := 384, platform := true }, ?_⟩⟩
  all_goals first | decide +kernel | (dsimp only; decide +kernel)

theorem witness_DriverMessages_1 :
    (∃ (s : State) (n : Nat), s.mer.phase = .full ∧ driverMessage s 1 n 0 = true ∧ 32 ≤ n ∧ n ≤ 60) ∧
    (∃ (s : State) (n : Nat), s.mer.phase = .full ∧ driverMessage s 1 n 0 = true ∧ 32 ≤ n ∧ n ≤ 60) ∧
    (∃ (s : State), driverMessage s 2 0 0 = true ∧
      keepBad s = none ∧
      s.flight = [] ∧
      s.col.barge = none ∧
      s.col.island = none ∧
      (∀ b : BargeId, s.barge[b].migrating = false)) ∧
    (∃ (s : State), driverMessage s 3 0 0 = true) ∧
    (∃ (s : State) (n : ReachId) (ms : Nat), s.mer.phase = .full ∧ driverMessage s 4 n.val ms = true ∧ ms < 65536) ∧
    (∃ (s : State), driverMessage s 5 0 0 = true) := by
  refine ⟨⟨driverSays 1 32 0, 32, ?_⟩,
    ⟨driverSays 1 60 0, 60, ?_⟩,
    ⟨driverSays 2 0 0, ?_⟩,
    ⟨driverSays 3 0 0, ?_⟩,
    ⟨driverSays 4 7 65535, 7, 65535, ?_⟩,
    ⟨driverSays 5 0 0, ?_⟩⟩
  all_goals first | decide +kernel | (dsimp only; decide +kernel)

theorem witness_DriverMessages_2 :
    (∃ (s : State) (w : Vector Word 16) (l : List (Vector Word 16)), s.twp.chan[(3 : ChanId)].state = .empty ∧ s.slu.replies = w :: l) ∧
    (∃ (s : State), s.twp.chan[(3 : ChanId)].state = .empty ∧ s.slu.replies = [] ∧ s.slu.noticeState = true) := by
  refine ⟨⟨(onTwpChan 3 { state := .empty, valid := true, sender := 12, receiver := 0 } up).onSlu fun x => { x with replies := [Vector.replicate 16 3] }, Vector.replicate 16 3, [], ?_⟩,
    ⟨(onTwpChan 3 { state := .empty, valid := true, sender := 12, receiver := 0 } up).onSlu fun x => { x with noticeState := true }, ?_⟩⟩
  all_goals first | decide +kernel | (dsimp only; decide +kernel)

theorem witness_OperatorPower_1 :
    (∃ (s : State) (en : Nat), operatorReady s = true ∧ en ≤ 1) ∧
    (∃ (s : State) (w : Nat), operatorReady s = true ∧ w < 65536) ∧
    (∃ (s : State) (w : Nat), operatorReady s = true ∧ w < 65536) ∧
    (∃ (s : State) (w : Nat), operatorReady s = true ∧ w < 65536) ∧
    (∃ (s : State) (n : Nat), operatorReady s = true ∧ 32 ≤ n ∧ n ≤ 60) ∧
    (∃ (s : State) (n : Nat), operatorReady s = true ∧ 32 ≤ n ∧ n ≤ 60) := by
  refine ⟨⟨up, 1, ?_⟩,
    ⟨up, 0, ?_⟩,
    ⟨tenant, 0, ?_⟩,
    ⟨tenant, 65535, ?_⟩,
    ⟨up, 32, ?_⟩,
    ⟨up, 60, ?_⟩⟩
  all_goals first | decide +kernel | (dsimp only; decide +kernel)

theorem witness_OperatorPower_2 :
    (∃ (s : State) (ms : Nat), operatorReady s = true ∧ ms < 65536) ∧
    (∃ (s : State), operatorReady s = true ∧
      keepBad s = none ∧
      s.flight = [] ∧
      s.col.barge = none ∧
      s.col.island = none ∧
      (∀ b : BargeId, s.barge[b].migrating = false)) ∧
    (∃ (s : State), s.pins.porN = true ∧ s.slu.state ≠ .off ∧ mgmtUp s = true ∧ s.mer.halted = false ∧ (s.mer.phase ≠ .full ∨ operatorReady s = true)) ∧
    (∃ (s : State), s.pins.porN = true ∧ s.slu.state ≠ .off ∧ mgmtUp s = true ∧ s.mer.halted = false ∧ (s.mer.phase ≠ .full ∨ operatorReady s = true)) := by
  refine ⟨⟨up, 65535, ?_⟩,
    ⟨up, ?_⟩,
    ⟨up, ?_⟩,
    ⟨blank, ?_⟩⟩
  all_goals first | decide +kernel | (dsimp only; decide +kernel)

theorem witness_ReachCreate :
    ∃ (s : State) (n : ReachId) (a : CreateArgs) (y : Layout), layoutFor s a = some y ∧ operatorReady s = true ∧ createBad s n.val a = none := by
  refine ⟨fleet, 0, { flights := 1, units := 1, k := 64, base := 0, pages := 1, keys := 4, aqd := Vector.replicate 4 0 }, (layoutFor fleet { flights := 1, units := 1, k := 64, base := 0, pages := 1, keys := 4, aqd := Vector.replicate 4 0 }).get (by decide), (Option.some_get _).symm, ?_⟩
  all_goals first | decide +kernel | (dsimp only; decide +kernel)

theorem witness_OperatorReach_1 :
    (∃ (s : State) (n : ReachId) (en : Nat), operatorReady s = true ∧ en ≤ 1 ∧ s.reach[n].state ≠ .empty ∧ s.reach[n].state ≠ .dredging) ∧
    (∃ (s : State) (n : ReachId) (lv : Nat) (d : Debug), operatorReady s = true ∧
      lv ≤ 1 ∧
      debugOf lv = some d ∧
      (s.mer.lcMarginal = false ∨ lv = 0) ∧
      (s.reach[n].state = .loading ∨ s.reach[n].state = .sealed)) ∧
    (∃ (s : State) (n : ReachId) (lv : Nat) (d : Debug), operatorReady s = true ∧
      lv ≤ 1 ∧
      debugOf lv = some d ∧
      (s.mer.lcMarginal = false ∨ lv = 0) ∧
      (s.reach[n].state = .loading ∨ s.reach[n].state = .sealed)) ∧
    (∃ (s : State) (n : ReachId) (lv : Nat) (d : Debug), operatorReady s = true ∧
      debugOf lv = some d ∧
      (s.mer.lcMarginal = false ∨ lv = 0) ∧
      s.reach[n].state = .empty) ∧
    (∃ (s : State) (n : ReachId), operatorReady s = true ∧
      s.mer.lcMarginal = false ∧
      (s.reach[n].state = .loading ∨ s.reach[n].state = .sealed) ∧
      s.reach[n].debug ≠ .opened) ∧
    (∃ (s : State) (v : Nat), operatorReady s = true ∧ v ≤ 1 ∧ (s.mer.lcMarginal = false ∨ v = 0)) := by
  refine ⟨⟨tenant, 0, 1, ?_⟩,
    ⟨tenant, 0, 1, .observe, ?_⟩,
    ⟨tenant.onMer fun m => { m with lcMarginal := true }, 0, 0, .closed, ?_⟩,
    ⟨up, 0, 2, .opened, ?_⟩,
    ⟨tenant, 0, ?_⟩,
    ⟨up, 1, ?_⟩⟩
  all_goals first | decide +kernel | (dsimp only; decide +kernel)

theorem witness_OperatorReach_2 :
    (∃ (s : State) (v : Nat), operatorReady s = true ∧ v ≤ 1 ∧ (s.mer.lcMarginal = false ∨ v = 0)) ∧
    (∃ (s : State) (n : ReachId) (mode : Nat), operatorReady s = true ∧ mode ≤ 1 ∧ s.reach[n].state = .sealed) ∧
    (∃ (s : State) (n : ReachId) (mode : Nat), operatorReady s = true ∧ mode ≤ 1 ∧ s.reach[n].state = .sealed) ∧
    (∃ (s : State) (n : ReachId) (mode : Nat), operatorReady s = true ∧ mode ≤ 1 ∧ s.reach[n].state = .loading) ∧
    (∃ (s : State) (n : ReachId), operatorReady s = true ∧ s.reach[n].state = .draining ∧ s.reach[n].drainCancel = false) := by
  refine ⟨⟨up.onMer fun m => { m with lc := .test }, 0, ?_⟩,
    ⟨tenant, 0, 1, ?_⟩,
    ⟨tenant, 0, 0, ?_⟩,
    ⟨tenant.onReach 0 fun x => { x with state := .loading }, 0, 0, ?_⟩,
    ⟨tenant.onReach 0 fun x => { x with state := .draining }, 0, ?_⟩⟩
  all_goals first | decide +kernel | (dsimp only; decide +kernel)

theorem witness_OperatorReads_1 :
    (∃ (s : State) (a : Nat) (b : Nat), operatorReady s = true ∧ a < 2 ^ 16 ∧ b < 2 ^ 16) ∧
    (∃ (s : State) (a : Nat) (b : Nat), operatorReady s = true ∧ a < 2 ^ 16 ∧ b < 2 ^ 16) ∧
    (∃ (s : State) (off : Nat), operatorReady s = true ∧ off % 16 = 0 ∧ off < 2 ^ 32) ∧
    (∃ (s : State) (off : Nat), operatorReady s = true ∧ off % 16 = 0 ∧ off < 2 ^ 32) ∧
    (∃ (s : State) (off : Nat), operatorReady s = true ∧ off % 16 = 0 ∧ off < 2 ^ 32) ∧
    (∃ (s : State), operatorReady s = true) := by
  refine ⟨⟨up, 0, 65535, ?_⟩,
    ⟨up, 255, 1024, ?_⟩,
    ⟨up, 0, ?_⟩,
    ⟨alert 1 1 1 1 1 1 up, 0, ?_⟩,
    ⟨up, 4294967280, ?_⟩,
    ⟨up, ?_⟩⟩
  all_goals first | decide +kernel | (dsimp only; decide +kernel)

theorem witness_OperatorReads_2 :
    (∃ (s : State) (off : Nat) (n : Nat), operatorReady s = true ∧ 1 ≤ n ∧ n ≤ 64 ∧ off + 4 * n ≤ 2 ^ 24) ∧
    (∃ (s : State) (off : Nat) (n : Nat), operatorReady s = true ∧ 1 ≤ n ∧ n ≤ 64 ∧ off + 4 * n ≤ 2 ^ 24) ∧
    (∃ (s : State), operatorReady s = true) := by
  refine ⟨⟨up, 0, 64, ?_⟩,
    ⟨up, 16777212, 1, ?_⟩,
    ⟨up, ?_⟩⟩
  all_goals first | decide +kernel | (dsimp only; decide +kernel)

theorem witness_LinkCommands :
    (∃ (s : State) (l : LinkId) (c : Fin 9), operatorReady s = true ∧
      linkUp s l = true ∧
      s.link[l].chan[c].state = .closed ∧
      (∀ n : ReachId, n.val = c.val → s.reach[n].state = .sealed ∧
      0 < s.link[l].chan[c].share)) ∧
    (∃ (s : State) (l : LinkId) (c : Fin 9), operatorReady s = true ∧
      linkUp s l = true ∧
      s.link[l].chan[c].state = .closed ∧
      (∀ n : ReachId, n.val = c.val → s.reach[n].state = .sealed ∧
      0 < s.link[l].chan[c].share)) ∧
    (∃ (s : State), operatorReady s = true ∧ (∀ l : LinkId, s.link[l].chan[(8 : Fin 9)].state ≠ .opened ∨ s.link[l].chan[(8 : Fin 9)].gen2 = true)) := by
  refine ⟨⟨onChan0 1 { share := 2 } tenant, 1, 0, ?_⟩,
    ⟨onChan8 1 {} up, 1, 8, ?_⟩,
    ⟨up, ?_⟩⟩
  all_goals first | decide +kernel | (dsimp only; decide +kernel)

theorem witness_LifeCycle :
    (∃ (s : State), provisionReady s = true ∧ s.mer.lc ≠ .scrap ∧ s.eph.drbgOk = true) ∧
    (∃ (s : State) (tok : Bytes) (st : Nat), provisionReady s = true ∧ tokenBad s tok = some st) ∧
    (∃ (s : State) (tok : Bytes) (l : Lc), provisionReady s = true ∧
      tokenBad s tok = none ∧
      lcStep s.mer.lc (leAt tok 49 1) = some l ∧
      astHeld 0xE s = false ∧
      s.alm.busy = none ∧
      s.mer.step ≠ .almanac) ∧
    (∃ (s : State), provisionReady s = true ∧ s.mer.lc ≠ .scrap ∧ s.mer.lcBusy = false ∧ s.alm.busy = none) := by
  refine ⟨⟨blank, ?_⟩,
    ⟨up, [], Code.badDescriptor, ?_⟩,
    ⟨up.onMer fun m => { m with nonces := [zeros 32] }, zeros 48 ++ [lcByte .prod, 4] ++ zeros 32 ++ zeros 2 ++ zeros 4723, .rma, ?_⟩,
    ⟨up, ?_⟩⟩
  all_goals first | decide +kernel | (dsimp only; decide +kernel)

theorem witness_AlmanacRegisters_1 :
    (∃ (s : State) (w : Nat), controllerFree s = true ∧ s.alm.busy = none ∧ s.mer.step ≠ .almanac ∧ w < 2048) ∧
    (∃ (s : State) (w : Nat) (v : BitVec 64), controllerFree s = true ∧
      s.alm.busy = none ∧
      s.mer.step ≠ .almanac ∧
      listedWord w = true ∧
      jobBad s.alm [] (.program w v) = none) ∧
    (∃ (s : State) (w : Nat) (v : BitVec 64), controllerFree s = true ∧
      s.alm.busy = none ∧
      s.mer.step ≠ .almanac ∧
      listedWord w = true ∧
      jobBad s.alm [] (.program w v) = none) ∧
    (∃ (s : State) (p : Nat) (d : BitVec 64), jobBad s.alm [] (.lock p d) = none ∧
      controllerFree s = true ∧
      s.alm.busy = none ∧
      s.mer.step ≠ .almanac ∧
      1 ≤ p ∧
      p ≤ 5) ∧
    (∃ (s : State), controllerFree s = true ∧ s.alm.busy = none ∧ s.mer.step ≠ .almanac) ∧
    (∃ (s : State), controllerFree s = true ∧ s.alm.busy = none ∧ s.mer.step ≠ .almanac ∧ s.alm.part 3 = .unlocked ∧ s.eph.drbgOk = true) := by
  refine ⟨⟨up, 2047, ?_⟩,
    ⟨up, 8, 1, ?_⟩,
    ⟨up, 2047, 1, ?_⟩,
    ⟨up, 5, up.alm.partDigest 5, by decide +kernel, ?_⟩,
    ⟨up, ?_⟩,
    ⟨up, ?_⟩⟩
  all_goals first | decide +kernel | (dsimp only; decide +kernel)

theorem witness_AlmanacRegisters_2 :
    (∃ (s : State) (c : Instr) (d : BitVec 64) (n : Nat), (c = .almRead n ∧
      2048 ≤ n ∨ c = .almLockPart n d ∧
      (n < 1 ∨ 5 < n)) ∧
      controllerFree s = true ∧
      s.alm.busy = none ∧
      s.mer.step ≠ .almanac) ∧
    (∃ (s : State) (c : Instr) (d : BitVec 64) (n : Nat), (c = .almRead n ∧
      2048 ≤ n ∨ c = .almLockPart n d ∧
      (n < 1 ∨ 5 < n)) ∧
      controllerFree s = true ∧
      s.alm.busy = none ∧
      s.mer.step ≠ .almanac) := by
  refine ⟨⟨up, .almRead 2048, 0, 2048, .inl ⟨rfl, by decide⟩, ?_⟩,
    ⟨up, .almLockPart 6 1, 1, 6, .inr ⟨rfl, by decide⟩, ?_⟩⟩
  all_goals first | decide +kernel | (dsimp only; decide +kernel)

theorem witness_AlmanacCommands_1 :
    (∃ (s : State) (w : Nat) (v : BitVec 64), provisionReady s = true ∧
      s.alm.busy = none ∧
      s.mer.step ≠ .almanac ∧
      lcIn s provisionStates = true ∧
      (partOf w = some 1 ∨ partOf w = some 2 ∨ partOf w = some 4) ∧
      jobBad s.alm [] (.program w v) = none) ∧
    (∃ (s : State) (w : Nat) (v : BitVec 64), provisionReady s = true ∧
      s.alm.busy = none ∧
      s.mer.step ≠ .almanac ∧
      lcIn s provisionStates = true ∧
      (partOf w = some 1 ∨ partOf w = some 2 ∨ partOf w = some 4) ∧
      jobBad s.alm [] (.program w v) = none) ∧
    (∃ (s : State), provisionReady s = true ∧
      s.alm.busy = none ∧
      s.mer.step ≠ .almanac ∧
      lcIn s provisionStates = true ∧
      s.alm.part 3 = .unlocked ∧
      s.eph.drbgOk = true) ∧
    (∃ (s : State) (p : Nat) (d : BitVec 64), jobBad s.alm [] (.lock p d) = none ∧
      provisionReady s = true ∧
      s.alm.busy = none ∧
      s.mer.step ≠ .almanac ∧
      1 ≤ p ∧
      p ≤ 5 ∧
      lcIn s (if p = 5 then fieldStates else provisionStates) = true) ∧
    (∃ (s : State) (p : Nat) (d : BitVec 64), jobBad s.alm [] (.lock p d) = none ∧
      provisionReady s = true ∧
      s.alm.busy = none ∧
      s.mer.step ≠ .almanac ∧
      1 ≤ p ∧
      p ≤ 5 ∧
      lcIn s (if p = 5 then fieldStates else provisionStates) = true) ∧
    (∃ (s : State) (w : Nat) (v : BitVec 64), provisionReady s = true ∧
      s.alm.busy = none ∧
      s.mer.step ≠ .almanac ∧
      lcIn s fieldStates = true ∧
      partOf w = some 5 ∧
      jobBad s.alm [] (.program w v) = none) := by
  refine ⟨⟨blank, 64, 1, ?_⟩,
    ⟨blank, 255, 1, ?_⟩,
    ⟨blank, ?_⟩,
    ⟨blank, 1, blank.alm.partDigest 1, by decide +kernel, ?_⟩,
    ⟨up, 5, up.alm.partDigest 5, by decide +kernel, ?_⟩,
    ⟨up, 1024, 1, ?_⟩⟩
  all_goals first | decide +kernel | (dsimp only; decide +kernel)

theorem witness_AlmanacCommands_2 :
    (∃ (s : State) (i : Nat), provisionReady s = true ∧
      s.alm.busy = none ∧
      s.mer.step ≠ .almanac ∧
      lcIn s fieldStates = true ∧
      (i < 4 ∨ 8 ≤ i ∧
      i < 12) ∧
      s.alm.lastSigner i = false) ∧
    (∃ (s : State) (i : Nat), provisionReady s = true ∧
      s.alm.busy = none ∧
      s.mer.step ≠ .almanac ∧
      lcIn s fieldStates = true ∧
      (i < 4 ∨ 8 ≤ i ∧
      i < 12) ∧
      s.alm.lastSigner i = false) ∧
    (∃ (s : State) (c : Nat) (v : Nat), provisionReady s = true ∧
      s.alm.busy = none ∧
      s.mer.step ≠ .almanac ∧
      lcIn s fieldStates = true ∧
      1 ≤ c ∧
      c ≤ 7 ∧
      v ≤ 4096 ∧
      s.alm.counters.toList.getD c 0 ≤ v) ∧
    (∃ (s : State), provisionReady s = true ∧ s.alm.busy = none ∧ s.mer.step ≠ .almanac ∧ lcIn s fieldStates = true) ∧
    (∃ (s : State) (c : Instr) (w : Nat) (n : Nat) (v : BitVec 64), (lcIn s provisionStates = false ∧
      (c = .almProvisionWrite w v ∨ c = .almGenRoots) ∨ lcIn s fieldStates = false ∧
      (c = .almLicenseeWrite w v ∨ c = .almRevoke w ∨ c = .almCounterAdvance w n ∨ c = .almRepair)) ∧
      provisionReady s = true ∧
      s.alm.busy = none ∧
      s.mer.step ≠ .almanac) ∧
    (∃ (s : State) (c : Instr) (w : Nat) (n : Nat) (v : BitVec 64), (lcIn s provisionStates = false ∧
      (c = .almProvisionWrite w v ∨ c = .almGenRoots) ∨ lcIn s fieldStates = false ∧
      (c = .almLicenseeWrite w v ∨ c = .almRevoke w ∨ c = .almCounterAdvance w n ∨ c = .almRepair)) ∧
      provisionReady s = true ∧
      s.alm.busy = none ∧
      s.mer.step ≠ .almanac) := by
  refine ⟨⟨up, 0, ?_⟩,
    ⟨up, 11, ?_⟩,
    ⟨up, 7, 4096, ?_⟩,
    ⟨up, ?_⟩,
    ⟨up, .almGenRoots, 0, 0, 0, .inl ⟨by decide +kernel, .inr rfl⟩, ?_⟩,
    ⟨blank, .almCounterAdvance 1 2, 1, 2, 0, .inr ⟨by decide +kernel, .inr (.inr (.inl rfl))⟩, ?_⟩⟩
  all_goals first | decide +kernel | (dsimp only; decide +kernel)

theorem witness_AlmanacJobs_1 :
    (∃ (s : State) (who : AlmWho) (w : Nat), s.alm.busy = some (who, .read w)) ∧
    (∃ (s : State) (who : AlmWho) (w : Nat) (v : BitVec 64), s.alm.busy = some (who, .program w v) ∧
      jobBad s.alm [] (.program w v) = none ∧
      windowMet s = true ∧
      s.alm.marginalWords = [] ∧
      s.alm.row w = none) ∧
    (∃ (s : State) (who : AlmWho) (w : Nat) (v : BitVec 64) (o : ProgOutcome), s.alm.busy = some (who, .program w v) ∧
      jobBad s.alm [] (.program w v) = none ∧
      windowWaits s = false ∧
      (o = .windowLost ∨ windowMet s = false)) ∧
    (∃ (s : State) (who : AlmWho) (w : Nat) (v : BitVec 64) (o : ProgOutcome), s.alm.busy = some (who, .program w v) ∧
      jobBad s.alm [] (.program w v) = none ∧
      windowWaits s = false ∧
      (o = .windowLost ∨ windowMet s = false)) ∧
    (∃ (s : State) (who : AlmWho), s.alm.busy = some (who, .critical)) ∧
    (∃ (s : State) (c : CritCause), controllerFree s = true ∧ s.alm.busy = none ∧ s.alm.waiting = [] ∧ s.mer.step ≠ .almanac ∧ match c with | .crossing => crossed s = true | .daily => waited (secPs s) s.alm.readAt (86400 * secondPs) = true) := by
  refine ⟨⟨up.onAlm fun a => { a with busy := some (.mgmt, .read 128) }, .mgmt, 128, ?_⟩,
    ⟨(up.onSlu fun x => { x with rail := put x.rail 5 { on := true, targetMv := 1800, settled := true, heldMv := 1800 }, die := Vector.replicate 64 { quarterC := 100 } }).onAlm fun a => { a with busy := some (.regs, .program 64 5) }, .regs, 64, 5, ?_⟩,
    ⟨(up.onSlu fun x => { x with rail := put x.rail 5 { on := true, targetMv := 1800, settled := true, heldMv := 1800 }, die := Vector.replicate 64 { quarterC := 100 } }).onAlm fun a => { a with busy := some (.regs, .program 64 5) }, .regs, 64, 5, .windowLost, ?_⟩,
    ⟨(up.onSlu fun x => { x with rail := put x.rail 5 { on := true, targetMv := 1800, settled := true, heldMv := 0 }, die := Vector.replicate 64 { quarterC := 100 } }).onAlm fun a => { a with busy := some (.regs, .program 64 5) }, .regs, 64, 5, .verified, ?_⟩,
    ⟨up.onAlm fun a => { a with busy := some (.internal, .critical), marginal := [4, 1024] }, .internal, ?_⟩,
    ⟨up.onSlu fun x => { x with tempMean := 88 }, .crossing, ?_⟩⟩
  all_goals first | decide +kernel | (dsimp only; decide +kernel)

theorem witness_AlmanacJobs_2 :
    ∃ (s : State) (c : CritCause), controllerFree s = true ∧ s.alm.busy = none ∧ s.alm.waiting = [] ∧ s.mer.step ≠ .almanac ∧ match c with | .crossing => crossed s = true | .daily => waited (secPs s) s.alm.readAt (86400 * secondPs) = true := by
  refine ⟨secs 86401 up, .daily, ?_⟩
  all_goals first | decide +kernel | (dsimp only; decide +kernel)

theorem witness_EphemerisCommands_1 :
    (∃ (s : State) (i : SlotId), s.eph.busy = false ∧ securityUp s = true ∧ loadRootBad i s = none) ∧
    (∃ (s : State) (i : SlotId) (p : SlotId) (o : Nat) (lt : BitVec 2) (kl : BitVec 2) (u : Word), s.eph.busy = false ∧
      securityUp s = true ∧
      ephWriteBad i p o lt kl u s = none) ∧
    (∃ (s : State) (i : SlotId) (p : SlotId) (o : Nat) (lt : BitVec 2) (kl : BitVec 2) (u : Word), s.eph.busy = false ∧
      securityUp s = true ∧
      ephWriteBad i p o lt kl u s = none) ∧
    (∃ (s : State) (i : SlotId) (q : SlotId) (o : Nat) (lb : BitVec 4) (lt : BitVec 2) (kl : BitVec 2) (u : Word) (ctx : Bytes), s.eph.busy = false ∧
      securityUp s = true ∧
      ctx.length < 128 ∧
      deriveBad i q o lb lt kl u s = none) ∧
    (∃ (s : State) (c : Instr) (i : SlotId) (p : SlotId) (o : Nat) (lb : BitVec 4) (e : BitVec 7) (lt : BitVec 2) (kl : BitVec 2) (u : Word) (d : Bytes) (st : Nat), (c = .loadRoot i ∧
      loadRootBad i s = some st ∨ c = .ephWrite i p o e lt kl u d ∧
      ephWriteBad i p o lt kl u s = some st ∨ c = .derive i p o lb e lt kl u d ∧
      deriveBad i p o lb lt kl u s = some st) ∧
      s.eph.busy = false ∧
      securityUp s = true) ∧
    (∃ (s : State) (c : Instr) (i : SlotId) (p : SlotId) (o : Nat) (lb : BitVec 4) (e : BitVec 7) (lt : BitVec 2) (kl : BitVec 2) (u : Word) (d : Bytes) (st : Nat), (c = .loadRoot i ∧
      loadRootBad i s = some st ∨ c = .ephWrite i p o e lt kl u d ∧
      ephWriteBad i p o lt kl u s = some st ∨ c = .derive i p o lb e lt kl u d ∧
      deriveBad i p o lb lt kl u s = some st) ∧
      s.eph.busy = false ∧
      securityUp s = true) := by
  refine ⟨⟨up, 0, ?_⟩,
    ⟨up, 3, 3, 14, 0, 2, 0, ?_⟩,
    ⟨up, 3, 22, 14, 1, 0, 1, ?_⟩,
    ⟨onSlot 0 (slotFor 0xE .kdf) up, 3, 0, 14, 1, 0, 0, 0, [], ?_⟩,
    ⟨up, .loadRoot 2, 2, 0, 0, 0, 0, 0, 0, 0, [], Code.badDescriptor, .inl ⟨rfl, by decide⟩, ?_⟩,
    ⟨up, .ephWrite 22 22 14 0 0 0 0 [], 22, 22, 14, 0, 0, 0, 0, 0, [], Code.badState, .inr (.inl ⟨rfl, by decide⟩), ?_⟩⟩
  all_goals first | decide +kernel | (dsimp only; decide +kernel)

theorem witness_EphemerisCommands_2 :
    (∃ (s : State) (c : Instr) (i : SlotId) (p : SlotId) (o : Nat) (lb : BitVec 4) (e : BitVec 7) (lt : BitVec 2) (kl : BitVec 2) (u : Word) (d : Bytes) (st : Nat), (c = .loadRoot i ∧
      loadRootBad i s = some st ∨ c = .ephWrite i p o e lt kl u d ∧
      ephWriteBad i p o lt kl u s = some st ∨ c = .derive i p o lb e lt kl u d ∧
      deriveBad i p o lb lt kl u s = some st) ∧
      s.eph.busy = false ∧
      securityUp s = true) ∧
    (∃ (s : State), s.eph.busy = false ∧ securityUp s = true) ∧
    (∃ (s : State), s.eph.busy = false ∧ securityUp s = true) ∧
    (∃ (s : State), s.eph.busy = false ∧ securityUp s = true) := by
  refine ⟨⟨up, .derive 3 4 14 1 0 0 0 0 [], 3, 4, 14, 1, 0, 0, 0, 0, [], Code.badState, .inr (.inr ⟨rfl, by decide⟩), ?_⟩,
    ⟨onSlot 3 { slotFor 0xE .kdf with parent := some 22 } up, ?_⟩,
    ⟨up, ?_⟩,
    ⟨onSlot 3 { slotFor 0xE .kdf with lifetime := .expire } up, ?_⟩⟩
  all_goals first | decide +kernel | (dsimp only; decide +kernel)

theorem witness_EphemerisUse_1 :
    (∃ (s : State), s.eph.busy = true) ∧
    (∃ (s : State) (i : SlotId) (e : Engine) (o : Nat), securityUp s = true ∧ judgeUse s.eph.slots[i] e o = Code.done) ∧
    (∃ (s : State) (i : SlotId) (e : Engine) (o : Nat), securityUp s = true ∧ judgeUse s.eph.slots[i] e o = Code.done) ∧
    (∃ (s : State) (i : SlotId) (e : Engine) (o : Nat), securityUp s = true ∧ judgeUse s.eph.slots[i] e o = Code.done) ∧
    (∃ (s : State) (i : SlotId) (e : Engine) (o : Nat), securityUp s = true ∧ judgeUse s.eph.slots[i] e o ≠ Code.done) ∧
    (∃ (s : State) (i : SlotId) (e : Engine) (o : Nat), securityUp s = true ∧ judgeUse s.eph.slots[i] e o ≠ Code.done) := by
  refine ⟨⟨up.onEph fun e => { e with busy := true }, ?_⟩,
    ⟨up, 22, .meridianGcm, 14, ?_⟩,
    ⟨onSlot 3 { slotFor 0xE .kdf with uses := 1 } up, 3, .kdf, 14, ?_⟩,
    ⟨onSlot 3 { slotFor 0xE .kdf with lifetime := .unlimited } up, 3, .kdf, 14, ?_⟩,
    ⟨onSlot 3 { slotFor 0xE .kdf with state := .exhausted } up, 3, .kdf, 14, ?_⟩,
    ⟨up, 22, .aqueduct, 14, ?_⟩⟩
  all_goals first | decide +kernel | (dsimp only; decide +kernel)

theorem witness_EphemerisUse_2 :
    ∃ (s : State), securityUp s = true := by
  refine ⟨up, ?_⟩
  all_goals first | decide +kernel | (dsimp only; decide +kernel)

theorem witness_AstrolabeBegins_1 :
    (∃ (s : State) (o : Nat) (k : Nat) (c : Instr) (op : AstOp), (c = .p384Verify o k ∧
      op = .p384Verify ∨ c = .p384Sign o k ∧
      op = .p384Sign ∨ c = .p384Ecdh o k ∧
      op = .p384Ecdh ∨ c = .ed25519Verify o k ∧
      op = .ed25519Verify ∨ c = .rsa4096Verify o k ∧
      op = .rsa4096Verify ∨ c = .rsa4096Crt o k ∧
      op = .rsa4096Crt ∨ c = .mlkemKeygen o k ∧
      op = .mlkemKeygen ∨ c = .mlkemEncaps o k ∧
      op = .mlkemEncaps ∨ c = .mlkemDecaps o k ∧
      op = .mlkemDecaps ∨ c = .mldsaSign o k ∧
      op = .mldsaSign ∨ c = .mldsaVerify o k ∧
      op = .mldsaVerify ∨ c = .selftest o ∧
      op = .selftest ∧
      k = 0) ∧
      securityUp s = true ∧
      astRefusal op o k none s = none) ∧
    (∃ (s : State) (o : Nat) (k : Nat) (c : Instr) (op : AstOp), (c = .p384Verify o k ∧
      op = .p384Verify ∨ c = .p384Sign o k ∧
      op = .p384Sign ∨ c = .p384Ecdh o k ∧
      op = .p384Ecdh ∨ c = .ed25519Verify o k ∧
      op = .ed25519Verify ∨ c = .rsa4096Verify o k ∧
      op = .rsa4096Verify ∨ c = .rsa4096Crt o k ∧
      op = .rsa4096Crt ∨ c = .mlkemKeygen o k ∧
      op = .mlkemKeygen ∨ c = .mlkemEncaps o k ∧
      op = .mlkemEncaps ∨ c = .mlkemDecaps o k ∧
      op = .mlkemDecaps ∨ c = .mldsaSign o k ∧
      op = .mldsaSign ∨ c = .mldsaVerify o k ∧
      op = .mldsaVerify ∨ c = .selftest o ∧
      op = .selftest ∧
      k = 0) ∧
      securityUp s = true ∧
      astRefusal op o k none s = none) ∧
    (∃ (s : State) (o : Nat) (k : Nat) (c : Instr) (op : AstOp), (c = .p384Verify o k ∧
      op = .p384Verify ∨ c = .p384Sign o k ∧
      op = .p384Sign ∨ c = .p384Ecdh o k ∧
      op = .p384Ecdh ∨ c = .ed25519Verify o k ∧
      op = .ed25519Verify ∨ c = .rsa4096Verify o k ∧
      op = .rsa4096Verify ∨ c = .rsa4096Crt o k ∧
      op = .rsa4096Crt ∨ c = .mlkemKeygen o k ∧
      op = .mlkemKeygen ∨ c = .mlkemEncaps o k ∧
      op = .mlkemEncaps ∨ c = .mlkemDecaps o k ∧
      op = .mlkemDecaps ∨ c = .mldsaSign o k ∧
      op = .mldsaSign ∨ c = .mldsaVerify o k ∧
      op = .mldsaVerify ∨ c = .selftest o ∧
      op = .selftest ∧
      k = 0) ∧
      securityUp s = true ∧
      astRefusal op o k none s = none) ∧
    (∃ (s : State) (o : Nat) (k : Nat) (c : Instr) (op : AstOp), (c = .p384Verify o k ∧
      op = .p384Verify ∨ c = .p384Sign o k ∧
      op = .p384Sign ∨ c = .p384Ecdh o k ∧
      op = .p384Ecdh ∨ c = .ed25519Verify o k ∧
      op = .ed25519Verify ∨ c = .rsa4096Verify o k ∧
      op = .rsa4096Verify ∨ c = .rsa4096Crt o k ∧
      op = .rsa4096Crt ∨ c = .mlkemKeygen o k ∧
      op = .mlkemKeygen ∨ c = .mlkemEncaps o k ∧
      op = .mlkemEncaps ∨ c = .mlkemDecaps o k ∧
      op = .mlkemDecaps ∨ c = .mldsaSign o k ∧
      op = .mldsaSign ∨ c = .mldsaVerify o k ∧
      op = .mldsaVerify ∨ c = .selftest o ∧
      op = .selftest ∧
      k = 0) ∧
      securityUp s = true ∧
      astRefusal op o k none s = none) ∧
    (∃ (s : State) (o : Nat) (k : Nat) (c : Instr) (op : AstOp), (c = .p384Verify o k ∧
      op = .p384Verify ∨ c = .p384Sign o k ∧
      op = .p384Sign ∨ c = .p384Ecdh o k ∧
      op = .p384Ecdh ∨ c = .ed25519Verify o k ∧
      op = .ed25519Verify ∨ c = .rsa4096Verify o k ∧
      op = .rsa4096Verify ∨ c = .rsa4096Crt o k ∧
      op = .rsa4096Crt ∨ c = .mlkemKeygen o k ∧
      op = .mlkemKeygen ∨ c = .mlkemEncaps o k ∧
      op = .mlkemEncaps ∨ c = .mlkemDecaps o k ∧
      op = .mlkemDecaps ∨ c = .mldsaSign o k ∧
      op = .mldsaSign ∨ c = .mldsaVerify o k ∧
      op = .mldsaVerify ∨ c = .selftest o ∧
      op = .selftest ∧
      k = 0) ∧
      securityUp s = true ∧
      astRefusal op o k none s = none) ∧
    (∃ (s : State) (o : Nat) (k : Nat) (c : Instr) (op : AstOp), (c = .p384Verify o k ∧
      op = .p384Verify ∨ c = .p384Sign o k ∧
      op = .p384Sign ∨ c = .p384Ecdh o k ∧
      op = .p384Ecdh ∨ c = .ed25519Verify o k ∧
      op = .ed25519Verify ∨ c = .rsa4096Verify o k ∧
      op = .rsa4096Verify ∨ c = .rsa4096Crt o k ∧
      op = .rsa4096Crt ∨ c = .mlkemKeygen o k ∧
      op = .mlkemKeygen ∨ c = .mlkemEncaps o k ∧
      op = .mlkemEncaps ∨ c = .mlkemDecaps o k ∧
      op = .mlkemDecaps ∨ c = .mldsaSign o k ∧
      op = .mldsaSign ∨ c = .mldsaVerify o k ∧
      op = .mldsaVerify ∨ c = .selftest o ∧
      op = .selftest ∧
      k = 0) ∧
      securityUp s = true ∧
      astRefusal op o k none s = none) := by
  refine ⟨⟨(up.onEph fun e => { e with drbgOk := true }).onAst fun a => { a with owner := 0xE, entries := [{ line := 0, lines := 3, cls := .p384 }, { line := 0, lines := 3, cls := .mlkem }, { line := 0, lines := 3, cls := .mldsa }] }, 14, 0, .p384Verify 14 0, .p384Verify, .inl ⟨rfl, rfl⟩, ?_⟩,
    ⟨(up.onEph fun e => { e with drbgOk := true }).onAst fun a => { a with owner := 0xE, entries := [{ line := 0, lines := 3, cls := .p384 }, { line := 0, lines := 3, cls := .mlkem }, { line := 0, lines := 3, cls := .mldsa }] }, 14, 0, .p384Sign 14 0, .p384Sign, .inr (.inl ⟨rfl, rfl⟩), ?_⟩,
    ⟨(up.onEph fun e => { e with drbgOk := true }).onAst fun a => { a with owner := 0xE, entries := [{ line := 0, lines := 3, cls := .p384 }, { line := 0, lines := 3, cls := .mlkem }, { line := 0, lines := 3, cls := .mldsa }] }, 14, 0, .p384Ecdh 14 0, .p384Ecdh, .inr (.inr (.inl ⟨rfl, rfl⟩)), ?_⟩,
    ⟨(up.onEph fun e => { e with drbgOk := true }).onAst fun a => { a with owner := 0xE, entries := [{ line := 0, lines := 3, cls := .p384 }, { line := 0, lines := 3, cls := .mlkem }, { line := 0, lines := 3, cls := .mldsa }] }, 14, 0, .ed25519Verify 14 0, .ed25519Verify, .inr (.inr (.inr (.inl ⟨rfl, rfl⟩))), ?_⟩,
    ⟨(up.onEph fun e => { e with drbgOk := true }).onAst fun a => { a with owner := 0xE, entries := [{ line := 0, lines := 3, cls := .p384 }, { line := 0, lines := 3, cls := .mlkem }, { line := 0, lines := 3, cls := .mldsa }] }, 14, 0, .rsa4096Verify 14 0, .rsa4096Verify, .inr (.inr (.inr (.inr (.inl ⟨rfl, rfl⟩)))), ?_⟩,
    ⟨(up.onEph fun e => { e with drbgOk := true }).onAst fun a => { a with owner := 0xE, entries := [{ line := 0, lines := 3, cls := .p384 }, { line := 0, lines := 3, cls := .mlkem }, { line := 0, lines := 3, cls := .mldsa }] }, 14, 0, .rsa4096Crt 14 0, .rsa4096Crt, .inr (.inr (.inr (.inr (.inr (.inl ⟨rfl, rfl⟩))))), ?_⟩⟩
  all_goals first | decide +kernel | (dsimp only; decide +kernel)

theorem witness_AstrolabeBegins_2 :
    (∃ (s : State) (o : Nat) (k : Nat) (c : Instr) (op : AstOp), (c = .p384Verify o k ∧
      op = .p384Verify ∨ c = .p384Sign o k ∧
      op = .p384Sign ∨ c = .p384Ecdh o k ∧
      op = .p384Ecdh ∨ c = .ed25519Verify o k ∧
      op = .ed25519Verify ∨ c = .rsa4096Verify o k ∧
      op = .rsa4096Verify ∨ c = .rsa4096Crt o k ∧
      op = .rsa4096Crt ∨ c = .mlkemKeygen o k ∧
      op = .mlkemKeygen ∨ c = .mlkemEncaps o k ∧
      op = .mlkemEncaps ∨ c = .mlkemDecaps o k ∧
      op = .mlkemDecaps ∨ c = .mldsaSign o k ∧
      op = .mldsaSign ∨ c = .mldsaVerify o k ∧
      op = .mldsaVerify ∨ c = .selftest o ∧
      op = .selftest ∧
      k = 0) ∧
      securityUp s = true ∧
      astRefusal op o k none s = none) ∧
    (∃ (s : State) (o : Nat) (k : Nat) (c : Instr) (op : AstOp), (c = .p384Verify o k ∧
      op = .p384Verify ∨ c = .p384Sign o k ∧
      op = .p384Sign ∨ c = .p384Ecdh o k ∧
      op = .p384Ecdh ∨ c = .ed25519Verify o k ∧
      op = .ed25519Verify ∨ c = .rsa4096Verify o k ∧
      op = .rsa4096Verify ∨ c = .rsa4096Crt o k ∧
      op = .rsa4096Crt ∨ c = .mlkemKeygen o k ∧
      op = .mlkemKeygen ∨ c = .mlkemEncaps o k ∧
      op = .mlkemEncaps ∨ c = .mlkemDecaps o k ∧
      op = .mlkemDecaps ∨ c = .mldsaSign o k ∧
      op = .mldsaSign ∨ c = .mldsaVerify o k ∧
      op = .mldsaVerify ∨ c = .selftest o ∧
      op = .selftest ∧
      k = 0) ∧
      securityUp s = true ∧
      astRefusal op o k none s = none) ∧
    (∃ (s : State) (o : Nat) (k : Nat) (c : Instr) (op : AstOp), (c = .p384Verify o k ∧
      op = .p384Verify ∨ c = .p384Sign o k ∧
      op = .p384Sign ∨ c = .p384Ecdh o k ∧
      op = .p384Ecdh ∨ c = .ed25519Verify o k ∧
      op = .ed25519Verify ∨ c = .rsa4096Verify o k ∧
      op = .rsa4096Verify ∨ c = .rsa4096Crt o k ∧
      op = .rsa4096Crt ∨ c = .mlkemKeygen o k ∧
      op = .mlkemKeygen ∨ c = .mlkemEncaps o k ∧
      op = .mlkemEncaps ∨ c = .mlkemDecaps o k ∧
      op = .mlkemDecaps ∨ c = .mldsaSign o k ∧
      op = .mldsaSign ∨ c = .mldsaVerify o k ∧
      op = .mldsaVerify ∨ c = .selftest o ∧
      op = .selftest ∧
      k = 0) ∧
      securityUp s = true ∧
      astRefusal op o k none s = none) ∧
    (∃ (s : State) (o : Nat) (k : Nat) (c : Instr) (op : AstOp), (c = .p384Verify o k ∧
      op = .p384Verify ∨ c = .p384Sign o k ∧
      op = .p384Sign ∨ c = .p384Ecdh o k ∧
      op = .p384Ecdh ∨ c = .ed25519Verify o k ∧
      op = .ed25519Verify ∨ c = .rsa4096Verify o k ∧
      op = .rsa4096Verify ∨ c = .rsa4096Crt o k ∧
      op = .rsa4096Crt ∨ c = .mlkemKeygen o k ∧
      op = .mlkemKeygen ∨ c = .mlkemEncaps o k ∧
      op = .mlkemEncaps ∨ c = .mlkemDecaps o k ∧
      op = .mlkemDecaps ∨ c = .mldsaSign o k ∧
      op = .mldsaSign ∨ c = .mldsaVerify o k ∧
      op = .mldsaVerify ∨ c = .selftest o ∧
      op = .selftest ∧
      k = 0) ∧
      securityUp s = true ∧
      astRefusal op o k none s = none) ∧
    (∃ (s : State) (o : Nat) (k : Nat) (c : Instr) (op : AstOp), (c = .p384Verify o k ∧
      op = .p384Verify ∨ c = .p384Sign o k ∧
      op = .p384Sign ∨ c = .p384Ecdh o k ∧
      op = .p384Ecdh ∨ c = .ed25519Verify o k ∧
      op = .ed25519Verify ∨ c = .rsa4096Verify o k ∧
      op = .rsa4096Verify ∨ c = .rsa4096Crt o k ∧
      op = .rsa4096Crt ∨ c = .mlkemKeygen o k ∧
      op = .mlkemKeygen ∨ c = .mlkemEncaps o k ∧
      op = .mlkemEncaps ∨ c = .mlkemDecaps o k ∧
      op = .mlkemDecaps ∨ c = .mldsaSign o k ∧
      op = .mldsaSign ∨ c = .mldsaVerify o k ∧
      op = .mldsaVerify ∨ c = .selftest o ∧
      op = .selftest ∧
      k = 0) ∧
      securityUp s = true ∧
      astRefusal op o k none s = none) ∧
    (∃ (s : State) (o : Nat) (k : Nat) (c : Instr) (op : AstOp), (c = .p384Verify o k ∧
      op = .p384Verify ∨ c = .p384Sign o k ∧
      op = .p384Sign ∨ c = .p384Ecdh o k ∧
      op = .p384Ecdh ∨ c = .ed25519Verify o k ∧
      op = .ed25519Verify ∨ c = .rsa4096Verify o k ∧
      op = .rsa4096Verify ∨ c = .rsa4096Crt o k ∧
      op = .rsa4096Crt ∨ c = .mlkemKeygen o k ∧
      op = .mlkemKeygen ∨ c = .mlkemEncaps o k ∧
      op = .mlkemEncaps ∨ c = .mlkemDecaps o k ∧
      op = .mlkemDecaps ∨ c = .mldsaSign o k ∧
      op = .mldsaSign ∨ c = .mldsaVerify o k ∧
      op = .mldsaVerify ∨ c = .selftest o ∧
      op = .selftest ∧
      k = 0) ∧
      securityUp s = true ∧
      astRefusal op o k none s = none) := by
  refine ⟨⟨(up.onEph fun e => { e with drbgOk := true }).onAst fun a => { a with owner := 0xE, entries := [{ line := 0, lines := 3, cls := .p384 }, { line := 0, lines := 3, cls := .mlkem }, { line := 0, lines := 3, cls := .mldsa }] }, 14, 0, .mlkemKeygen 14 0, .mlkemKeygen, .inr (.inr (.inr (.inr (.inr (.inr (.inl ⟨rfl, rfl⟩)))))), ?_⟩,
    ⟨(up.onEph fun e => { e with drbgOk := true }).onAst fun a => { a with owner := 0xE, entries := [{ line := 0, lines := 3, cls := .p384 }, { line := 0, lines := 3, cls := .mlkem }, { line := 0, lines := 3, cls := .mldsa }] }, 14, 0, .mlkemEncaps 14 0, .mlkemEncaps, .inr (.inr (.inr (.inr (.inr (.inr (.inr (.inl ⟨rfl, rfl⟩))))))), ?_⟩,
    ⟨(up.onEph fun e => { e with drbgOk := true }).onAst fun a => { a with owner := 0xE, entries := [{ line := 0, lines := 3, cls := .p384 }, { line := 0, lines := 3, cls := .mlkem }, { line := 0, lines := 3, cls := .mldsa }] }, 14, 0, .mlkemDecaps 14 0, .mlkemDecaps, .inr (.inr (.inr (.inr (.inr (.inr (.inr (.inr (.inl ⟨rfl, rfl⟩)))))))), ?_⟩,
    ⟨(up.onEph fun e => { e with drbgOk := true }).onAst fun a => { a with owner := 0xE, entries := [{ line := 0, lines := 3, cls := .p384 }, { line := 0, lines := 3, cls := .mlkem }, { line := 0, lines := 3, cls := .mldsa }] }, 14, 0, .mldsaSign 14 0, .mldsaSign, .inr (.inr (.inr (.inr (.inr (.inr (.inr (.inr (.inr (.inl ⟨rfl, rfl⟩))))))))), ?_⟩,
    ⟨(up.onEph fun e => { e with drbgOk := true }).onAst fun a => { a with owner := 0xE, entries := [{ line := 0, lines := 3, cls := .p384 }, { line := 0, lines := 3, cls := .mlkem }, { line := 0, lines := 3, cls := .mldsa }] }, 14, 0, .mldsaVerify 14 0, .mldsaVerify, .inr (.inr (.inr (.inr (.inr (.inr (.inr (.inr (.inr (.inr (.inl ⟨rfl, rfl⟩)))))))))), ?_⟩,
    ⟨up, 8, 0, .selftest 8, .selftest, .inr (.inr (.inr (.inr (.inr (.inr (.inr (.inr (.inr (.inr (.inr (⟨rfl, rfl, rfl⟩))))))))))), ?_⟩⟩
  all_goals first | decide +kernel | (dsimp only; decide +kernel)

theorem witness_AstrolabeBegins_3 :
    (∃ (s : State) (o : Nat) (k : Nat) (c : Instr) (op : AstOp) (src : Bool) (lb : BitVec 4) (slot : SlotId), (c = .p384Keygen o k src lb slot ∧
      op = .p384Keygen ∨ c = .mldsaKeygen o k src lb slot ∧
      op = .mldsaKeygen) ∧
      securityUp s = true ∧
      astRefusal op o k (if src = true then some lb.toNat else none) s = none) ∧
    (∃ (s : State) (o : Nat) (k : Nat) (c : Instr) (op : AstOp) (src : Bool) (lb : BitVec 4) (slot : SlotId), (c = .p384Keygen o k src lb slot ∧
      op = .p384Keygen ∨ c = .mldsaKeygen o k src lb slot ∧
      op = .mldsaKeygen) ∧
      securityUp s = true ∧
      astRefusal op o k (if src = true then some lb.toNat else none) s = none) ∧
    (∃ (s : State) (o : Nat) (k : Nat) (c : Instr) (op : AstOp) (src : Bool) (lb : BitVec 4) (slot : SlotId), (c = .p384Keygen o k src lb slot ∧
      op = .p384Keygen ∨ c = .mldsaKeygen o k src lb slot ∧
      op = .mldsaKeygen) ∧
      securityUp s = true ∧
      astRefusal op o k (if src = true then some lb.toNat else none) s = none) := by
  refine ⟨⟨up, 14, 0, .p384Keygen 14 0 true 6 0, .p384Keygen, true, 6, 0, .inl ⟨rfl, rfl⟩, ?_⟩,
    ⟨up, 0, 0, .p384Keygen 0 0 false 0 0, .p384Keygen, false, 0, 0, .inl ⟨rfl, rfl⟩, ?_⟩,
    ⟨up, 14, 0, .mldsaKeygen 14 0 true 7 0, .mldsaKeygen, true, 7, 0, .inr ⟨rfl, rfl⟩, ?_⟩⟩
  all_goals first | decide +kernel | (dsimp only; decide +kernel)

theorem witness_AstrolabeEnds_1 :
    (∃ (s : State) (j : AstJob), s.ast.job = some j ∧ j.op ≠ .selftest ∧ j.keyStatus = Code.done ∧ s.ast.upset = false ∧ (astCompute j s.ast.mem).holds = true) ∧
    (∃ (s : State) (j : AstJob), s.ast.job = some j ∧ j.op ≠ .selftest ∧ j.keyStatus = Code.done) ∧
    (∃ (s : State) (j : AstJob), s.ast.job = some j ∧ j.op = .selftest ∧ s.ast.upset = false) ∧
    (∃ (s : State) (j : AstJob), s.ast.job = some j) ∧
    (∃ (s : State), securityUp s = true ∧ s.ast.state ≠ .faulted ∧ s.ast.progLoaded = true ∧ s.ast.job ≠ some ownSelftest) ∧
    (∃ (s : State), securityUp s = true ∧ s.ast.state ≠ .faulted ∧ s.ast.progLoaded = true ∧ s.ast.job ≠ some ownSelftest) := by
  refine ⟨⟨up.onAst fun a => { a with job := some { op := .p384Verify, owner := 0xE, keyline := 0 }, state := .running, owner := 0xE }, { op := .p384Verify, owner := 0xE, keyline := 0 }, ?_⟩,
    ⟨up.onAst fun a => { a with job := some { op := .mldsaVerify, owner := 0xE, keyline := 0 }, state := .running, owner := 0xE }, { op := .mldsaVerify, owner := 0xE, keyline := 0 }, ?_⟩,
    ⟨up.onAst fun a => { a with job := some { op := .selftest, owner := 0xE, keyline := 0 }, state := .running, owner := 0xE }, { op := .selftest, owner := 0xE, keyline := 0 }, ?_⟩,
    ⟨up.onAst fun a => { a with job := some { op := .mldsaVerify, owner := 0xE, keyline := 0 }, state := .running, owner := 0xE }, { op := .mldsaVerify, owner := 0xE, keyline := 0 }, ?_⟩,
    ⟨up.onAst fun a => { a with job := some { op := .mldsaVerify, owner := 0xE, keyline := 0 }, state := .running, owner := 0xE }, ?_⟩,
    ⟨up, ?_⟩⟩
  all_goals first | decide +kernel | (dsimp only; decide +kernel)

theorem witness_AstrolabeEnds_2 :
    (∃ (s : State), securityUp s = true ∧ astBusy s.ast = false ∧ s.ast.state ≠ .faulted ∧ waited (secPs s) s.ast.selftestAt (14400 * secondPs) = true) ∧
    (∃ (s : State) (a : Word) (out : Bool) (boot : Bool) (line : Nat) (n : Nat) (o : Nat), securityUp s = true ∧
      dmaBad out boot line n (a.toNat / 64 * 64) o s = none) ∧
    (∃ (s : State) (a : Word) (out : Bool) (boot : Bool) (line : Nat) (n : Nat) (o : Nat), securityUp s = true ∧
      dmaBad out boot line n (a.toNat / 64 * 64) o s = none) ∧
    (∃ (s : State), securityUp s = true ∧ astBusy s.ast = false) ∧
    (∃ (s : State) (m : AstDma), s.ast.dma = some m) ∧
    (∃ (s : State) (m : AstDma), s.ast.dma = some m) := by
  refine ⟨⟨secs 14401 up, ?_⟩,
    ⟨up, 0x80001, false, false, 0, 384, 14, ?_⟩,
    ⟨up, 0xFFFC0, true, true, 127, 1, 14, ?_⟩,
    ⟨up, ?_⟩,
    ⟨up.onAst fun a => { a with dma := some { out := true, line := 0, count := 1, addr := 0x80000, storeAddr := 0 } }, { out := true, line := 0, count := 1, addr := 0x80000, storeAddr := 0 }, ?_⟩,
    ⟨(up.onMer fun m => { m with sram := [(0x80001, 9)] }).onAst fun a => { a with dma := some { out := false, line := 1, count := 1, addr := 0x80000, storeAddr := 0 } }, { out := false, line := 1, count := 1, addr := 0x80000, storeAddr := 0 }, ?_⟩⟩
  all_goals first | decide +kernel | (dsimp only; decide +kernel)

theorem witness_TowpathMessages_1 :
    (∃ (s : State) (c : ChanId), s.slu.state ≠ .keep ∧ s.twp.chan[c].state = .empty) ∧
    (∃ (s : State) (c : ChanId) (e : Fin 13), s.slu.state ≠ .keep ∧ s.twp.chan[c].state = .empty ∧ s.twp.chan[c].receiver = e.val) ∧
    (∃ (s : State) (c : ChanId) (e : Fin 13), s.slu.state ≠ .keep ∧ s.twp.chan[c].state = .full ∧ s.twp.chan[c].sender = e.val ∧ s.stc.outcomes = []) ∧
    (∃ (s : State), s.slu.state ≠ .keep) ∧
    (∃ (s : State) (c : ChanId) (i : Instr) (w : Fin 16) (d : Word), (s.twp.chan[c].state = .full ∧
      (i = .twpMsgWrite s.twp.chan[c].sender c w d ∨ i = .send s.twp.chan[c].sender c) ∨ s.twp.chan[c].state = .empty ∧
      i = .taken s.twp.chan[c].receiver c) ∧
      s.slu.state ≠ .keep) ∧
    (∃ (s : State) (c : ChanId) (i : Instr) (w : Fin 16) (d : Word), (s.twp.chan[c].state = .full ∧
      (i = .twpMsgWrite s.twp.chan[c].sender c w d ∨ i = .send s.twp.chan[c].sender c) ∨ s.twp.chan[c].state = .empty ∧
      i = .taken s.twp.chan[c].receiver c) ∧
      s.slu.state ≠ .keep) := by
  refine ⟨⟨onTwpChan 5 { state := .empty, valid := true, sender := 3, receiver := 4 } up, 5, ?_⟩,
    ⟨onTwpChan 5 { state := .empty, valid := true, sender := 3, receiver := 4 } up, 5, 4, ?_⟩,
    ⟨onTwpChan 5 { state := .full, valid := true, sender := 3, receiver := 4 } up, 5, 3, ?_⟩,
    ⟨up, ?_⟩,
    ⟨onTwpChan 5 { state := .full, valid := true, sender := 3, receiver := 4 } up, 5, .twpMsgWrite 3 5 0 1, 0, 1, .inl ⟨by decide, .inl rfl⟩, ?_⟩,
    ⟨onTwpChan 5 { state := .full, valid := true, sender := 3, receiver := 4 } up, 5, .send 3 5, 0, 1, .inl ⟨by decide, .inr rfl⟩, ?_⟩⟩
  all_goals first | decide +kernel | (dsimp only; decide +kernel)

theorem witness_TowpathMessages_2 :
    ∃ (s : State) (c : ChanId) (i : Instr) (w : Fin 16) (d : Word), (s.twp.chan[c].state = .full ∧
      (i = .twpMsgWrite s.twp.chan[c].sender c w d ∨ i = .send s.twp.chan[c].sender c) ∨ s.twp.chan[c].state = .empty ∧
      i = .taken s.twp.chan[c].receiver c) ∧
      s.slu.state ≠ .keep := by
  refine ⟨onTwpChan 5 { state := .empty, valid := true, sender := 3, receiver := 4 } up, 5, .taken 4 5, 0, 1, .inr ⟨by decide, rfl⟩, ?_⟩
  all_goals first | decide +kernel | (dsimp only; decide +kernel)

theorem witness_TowpathBindings_1 :
    (∃ (s : State) (d : Word), s.twp.lock = false ∧
      bit d.toNat 16 = true ∧
      twpMaster (bits d.toNat 0 8) = true ∧
      twpMaster (bits d.toNat 8 8) = true ∧
      bits d.toNat 0 8 ≠ bits d.toNat 8 8) ∧
    (∃ (s : State) (d : Word), s.twp.lock = false ∧
      bit d.toNat 16 = true ∧
      twpMaster (bits d.toNat 0 8) = true ∧
      twpMaster (bits d.toNat 8 8) = true ∧
      bits d.toNat 0 8 ≠ bits d.toNat 8 8) ∧
    (∃ (s : State) (d : Word), s.twp.lock = false ∧
      bit d.toNat 16 = true ∧
      (twpMaster (bits d.toNat 0 8) = false ∨ twpMaster (bits d.toNat 8 8) = false ∨ bits d.toNat 0 8 = bits d.toNat 8 8)) ∧
    (∃ (s : State) (d : Word), s.twp.lock = false ∧
      bit d.toNat 16 = true ∧
      (twpMaster (bits d.toNat 0 8) = false ∨ twpMaster (bits d.toNat 8 8) = false ∨ bits d.toNat 0 8 = bits d.toNat 8 8)) ∧
    (∃ (s : State) (d : Word), s.twp.lock = false ∧
      bit d.toNat 16 = true ∧
      (twpMaster (bits d.toNat 0 8) = false ∨ twpMaster (bits d.toNat 8 8) = false ∨ bits d.toNat 0 8 = bits d.toNat 8 8)) ∧
    (∃ (s : State) (m : Nat), (m ≠ 3 ∨ s.twp.lock = true)) := by
  refine ⟨⟨up, 0x10403, ?_⟩,
    ⟨up, 0x10C00, ?_⟩,
    ⟨up, 0x10203, ?_⟩,
    ⟨up, 0x10D03, ?_⟩,
    ⟨up, 0x10303, ?_⟩,
    ⟨up, 4, ?_⟩⟩
  all_goals first | decide +kernel | (dsimp only; decide +kernel)

theorem witness_TowpathBindings_2 :
    (∃ (s : State) (m : Nat), (m ≠ 3 ∨ s.twp.lock = true)) ∧
    (∃ (m : Nat), m ≠ 3) ∧
    (∃ (s : State) (c : ChanId) (m : Nat), s.slu.state ≠ .keep ∧ (s.twp.chan[c].state = .unbound ∨ m ≠ s.twp.chan[c].sender)) ∧
    (∃ (s : State) (c : ChanId) (m : Nat), s.slu.state ≠ .keep ∧ (s.twp.chan[c].state = .unbound ∨ m ≠ s.twp.chan[c].sender)) ∧
    (∃ (s : State) (c : ChanId) (m : Nat), s.slu.state ≠ .keep ∧ (s.twp.chan[c].state = .unbound ∨ m ≠ s.twp.chan[c].receiver)) ∧
    (∃ (s : State) (c : ChanId) (m : Nat), s.slu.state ≠ .keep ∧ (s.twp.chan[c].state = .unbound ∨ m ≠ s.twp.chan[c].receiver)) := by
  refine ⟨⟨up.onTwp fun x => { x with lock := true }, 3, ?_⟩,
    ⟨4, ?_⟩,
    ⟨up, 5, 0, ?_⟩,
    ⟨onTwpChan 5 { state := .empty, valid := true, sender := 3, receiver := 4 } up, 5, 7, ?_⟩,
    ⟨up, 5, 0, ?_⟩,
    ⟨onTwpChan 5 { state := .full, valid := true, sender := 3, receiver := 4 } up, 5, 7, ?_⟩⟩
  all_goals first | decide +kernel | (dsimp only; decide +kernel)

theorem witness_StreamsBeginAndEnd_1 :
    (∃ (s : State) (d : Bytes), s.stc.job = none ∧ operatorReady s = true ∧ d ≠ [] ∧ d.length ≤ 4096) ∧
    (∃ (s : State) (d : Bytes), s.stc.job = none ∧ s.mer.phase = .drydock ∧ s.mer.halted = false ∧ d ≠ [] ∧ d.length ≤ 4096) ∧
    (∃ (s : State) (d : Bytes) (l : LinkId), s.stc.job = none ∧ s.mer.phase = .drydock ∧ s.mer.halted = false ∧ d ≠ [] ∧ d.length ≤ 4096 ∧ s.link[l].ready = true) ∧
    (∃ (s : State) (n : Nat), s.stc.job = none ∧
      s.twp.chan[(0 : ChanId)].state = .full ∧
      (s.mer.phase = .full ∨ s.mer.phase = .drydock) ∧
      s.mer.halted = false ∧
      s.twp.chan[(0 : ChanId)].words[(0 : Fin 16)] = 0 ∧
      s.twp.chan[(0 : ChanId)].words[(1 : Fin 16)] = BitVec.ofNat 32 (1 + 256 * n) ∧
      1 ≤ n ∧
      n ≤ 56) ∧
    (∃ (s : State) (n : Nat), s.stc.job = none ∧
      s.twp.chan[(0 : ChanId)].state = .full ∧
      (s.mer.phase = .full ∨ s.mer.phase = .drydock) ∧
      s.mer.halted = false ∧
      s.twp.chan[(0 : ChanId)].words[(0 : Fin 16)] = 0 ∧
      s.twp.chan[(0 : ChanId)].words[(1 : Fin 16)] = BitVec.ofNat 32 (1 + 256 * n) ∧
      1 ≤ n ∧
      n ≤ 56) ∧
    (∃ (s : State) (j : Stream) (out : Bytes), s.stc.job = some j ∧
      j.phase = .applying ∧
      j.drydock = false ∧
      buildSet (j.recvd.take manifestBytes) (runningSet s) (j.recvd.drop manifestBytes) = some out ∧
      s.mer.halted = false ∧
      s.stc.storeFaults = 0) := by
  refine ⟨⟨up, [1], ?_⟩,
    ⟨up.onMer fun m => { m with phase := .drydock }, [1], ?_⟩,
    ⟨onChan8 2 {} (up.onMer fun m => { m with phase := .drydock }), [1], 2, ?_⟩,
    ⟨onTwpChan 0 { state := .full, valid := true, sender := 1, receiver := 3, words := put (Vector.replicate 16 0) 1 14337 } (up), 56, ?_⟩,
    ⟨onTwpChan 0 { state := .full, valid := true, sender := 1, receiver := 3, words := put (Vector.replicate 16 0) 1 257 } (up.onMer fun m => { m with phase := .drydock }), 1, ?_⟩,
    ⟨up.onStc fun x => { x with job := some { route := .mgmt, number := 0, drydock := false, recvd := zeros 7667 ++ [1], phase := .applying } }, { route := .mgmt, number := 0, drydock := false, recvd := zeros 7667 ++ [1], phase := .applying }, [1], rfl, rfl, rfl, by rfl, ?_⟩⟩
  all_goals first | decide +kernel | (dsimp only; decide +kernel)

theorem witness_StreamsBeginAndEnd_2 :
    (∃ (s : State) (j : Stream) (out : Bytes), s.stc.job = some j ∧
      j.phase = .applying ∧
      j.drydock = false ∧
      buildSet (j.recvd.take manifestBytes) (runningSet s) (j.recvd.drop manifestBytes) = some out ∧
      s.mer.halted = false) ∧
    (∃ (s : State) (j : Stream), s.stc.job = some j ∧
      j.phase = .applying ∧
      j.drydock = false ∧
      buildSet (j.recvd.take manifestBytes) (runningSet s) (j.recvd.drop manifestBytes) = none ∧
      s.mer.halted = false) ∧
    (∃ (s : State) (j : Stream), s.stc.job = some j ∧
      j.phase = .applying ∧
      j.drydock = true ∧
      s.mer.halted = false ∧
      s.stc.storeFaults = 0 ∧
      sha384 (j.recvd.drop manifestBytes) = targetDigest (j.recvd.take manifestBytes)) ∧
    (∃ (s : State) (j : Stream), s.stc.job = some j ∧ j.phase ≠ .applying ∧ s.mer.halted = false ∧ waited (secPs s) j.lastAt (10 * secondPs) = true) ∧
    (∃ (s : State) (j : Stream), s.stc.job = some j ∧ (s.mer.phase = .drydock ∧ s.mer.halted = false ∨ operatorReady s = true)) ∧
    (∃ (s : State) (j : Stream), s.stc.job = some j ∧ (s.mer.phase = .drydock ∧ s.mer.halted = false ∨ operatorReady s = true)) := by
  refine ⟨⟨up.onStc fun x => { x with job := some { route := .mgmt, number := 0, drydock := false, recvd := zeros 7667 ++ [1], phase := .applying } }, { route := .mgmt, number := 0, drydock := false, recvd := zeros 7667 ++ [1], phase := .applying }, [1], rfl, rfl, rfl, by rfl, ?_⟩,
    ⟨up.onStc fun x => { x with job := some { route := .mgmt, number := 0, drydock := false, recvd := zeros 64 ++ [1] ++ zeros 7603, phase := .applying } }, { route := .mgmt, number := 0, drydock := false, recvd := zeros 64 ++ [1] ++ zeros 7603, phase := .applying }, rfl, rfl, rfl, by rfl, ?_⟩,
    ⟨(up.onMer fun m => { m with phase := .drydock }).onStc fun x => { x with job := some ({ route := .mgmt, number := 0, drydock := true, recvd := zeros 16 ++ sha384 [1] ++ zeros 7603 ++ [1], phase := .applying }) }, { route := .mgmt, number := 0, drydock := true, recvd := zeros 16 ++ sha384 [1] ++ zeros 7603 ++ [1], phase := .applying }, rfl, rfl, rfl, ?_⟩,
    ⟨secs 11 (up.onStc fun x => { x with job := some { route := .mgmt, number := 0, drydock := false, recvd := [1], phase := .receiving } }), { route := .mgmt, number := 0, drydock := false, recvd := [1], phase := .receiving }, ?_⟩,
    ⟨up.onStc fun x => { x with job := some { route := .mgmt, number := 0, drydock := false, recvd := [1], phase := .receiving } }, { route := .mgmt, number := 0, drydock := false, recvd := [1], phase := .receiving }, ?_⟩,
    ⟨(up.onMer fun m => { m with phase := .drydock }).onStc fun x => { x with job := some { route := .mgmt, number := 0, drydock := false, recvd := [1], phase := .receiving } }, { route := .mgmt, number := 0, drydock := false, recvd := [1], phase := .receiving }, ?_⟩⟩
  all_goals first | decide +kernel | (dsimp only; decide +kernel)

theorem witness_StaircaseCommands_1 :
    (∃ (s : State) (l : LinkId) (a : Bytes) (u : Bytes), s.mer.phase = .full ∧
      s.link[l].chan[(8 : Fin 9)].state = .opened ∧
      isAck a = true ∧
      u = a.take 60 ++ [BitVec.ofNat 8 (min 255 (leAt a 60 1 + 1))] ++ (a.drop 61).take 3 ∧
      s.stc.backRoute = .mgmt) ∧
    (∃ (s : State) (l : LinkId) (a : Bytes) (u : Bytes) (k : LinkId), s.mer.phase = .full ∧
      s.link[l].chan[(8 : Fin 9)].state = .opened ∧
      isAck a = true ∧
      u = a.take 60 ++ [BitVec.ofNat 8 (min 255 (leAt a 60 1 + 1))] ++ (a.drop 61).take 3 ∧
      s.stc.backRoute = .link k) ∧
    (∃ (s : State) (w : Nat), s.stc.committed = some w ∧
      s.alm.busy = none ∧
      s.mer.step ≠ .almanac ∧
      s.alm.counters[(0 : Fin 8)] < s.stc.running ∧
      s.mer.phase = .full ∧
      s.mer.halted = false ∧
      (if s.stc.cntPending = true then waited (secPs s) s.stc.triedAt (600 * secondPs) else waited (secPs s) w (3600 * secondPs)) = true) ∧
    (∃ (s : State) (w : Nat), s.stc.committed = some w ∧
      s.alm.busy = none ∧
      s.mer.step ≠ .almanac ∧
      s.alm.counters[(0 : Fin 8)] < s.stc.running ∧
      s.mer.phase = .full ∧
      s.mer.halted = false ∧
      (if s.stc.cntPending = true then waited (secPs s) s.stc.triedAt (600 * secondPs) else waited (secPs s) w (3600 * secondPs)) = true) ∧
    (∃ (s : State) (w : Nat), s.stc.committed = some w ∧
      s.alm.busy = none ∧
      s.mer.step ≠ .almanac ∧
      s.alm.counters[(0 : Fin 8)] < s.stc.running ∧
      operatorReady s = true) ∧
    (∃ (s : State) (m : Nat), operatorReady s = true ∧ s.stc.job = none ∧ s.stc.storeFaults = 0 ∧ m < 16) := by
  refine ⟨⟨onChan8 0 { state := .opened, gen2 := true } up, 0, [0x47, 0x58, 0x41, 0x4B] ++ zeros 56 ++ [255, 0, 0, 0], [0x47, 0x58, 0x41, 0x4B] ++ zeros 56 ++ [255, 0, 0, 0], ?_⟩,
    ⟨(onChan8 0 { state := .opened, gen2 := true } up).onStc fun x => { x with backRoute := .link 3 }, 0, [0x47, 0x58, 0x41, 0x4B] ++ zeros 56 ++ [0, 0, 0, 0], [0x47, 0x58, 0x41, 0x4B] ++ zeros 56 ++ [1, 0, 0, 0], 3, ?_⟩,
    ⟨secs 3601 (up.onStc fun x => { x with committed := some 0, running := 5 }), 0, ?_⟩,
    ⟨secs 601 (up.onStc fun x => { x with committed := some 0, running := 5, cntPending := true }), 0, ?_⟩,
    ⟨(up.onStc fun x => { x with committed := some 0, running := 5 }), 0, ?_⟩,
    ⟨up, 15, ?_⟩⟩
  all_goals first | decide +kernel | (dsimp only; decide +kernel)

theorem witness_StaircaseCommands_2 :
    (∃ (s : State) (off : Nat) (d : Bytes), operatorReady s = true ∧
      s.stc.job = none ∧
      s.stc.storeFaults = 0 ∧
      d ≠ [] ∧
      d.length ≤ 4096 ∧
      off + d.length ≤ watchBytes) ∧
    (∃ (s : State) (off : Nat) (d : Bytes), operatorReady s = true ∧
      s.stc.job = none ∧
      s.stc.storeFaults = 0 ∧
      d ≠ [] ∧
      d.length ≤ 4096 ∧
      off + d.length ≤ watchBytes) ∧
    (∃ (s : State), operatorReady s = true ∧ s.stc.job = none ∧ s.stc.storeFaults = 0) ∧
    (∃ (s : State) (l : LinkId), operatorReady s = true ∧
      s.stc.job = none ∧
      s.stc.storeFaults = 0 ∧
      s.link[l].chan[(8 : Fin 9)].state = .closed ∧
      s.link[l].ready = true ∧
      s.link[l].chan[(8 : Fin 9)].sendQ = [] ∧
      (s.mer.slot = .a ∨ s.mer.slot = .b)) := by
  refine ⟨⟨up, 0, [1], ?_⟩,
    ⟨up, watchBytes - 1, [1], ?_⟩,
    ⟨up, ?_⟩,
    ⟨onChan8 1 {} up, 1, ?_⟩⟩
  all_goals first | decide +kernel | (dsimp only; decide +kernel)

theorem witness_LinkWindows_1 :
    (∃ (s : State) (l : LinkId) (c : Fin 9) (bk : Bool), c = windowChan s.link[l] ∧
      linkUp s l = true ∧
      s.link[l].chan[c].closing = [] ∧
      (s.link[l].chan[c].sendQ = [] ∨ s.link[l].chan[c].rekeyHold = true ∧
      bk = false) ∧
      s.link[l].chan[c].owed = 0) ∧
    (∃ (s : State) (l : LinkId) (c : Fin 9) (bk : Bool), c = windowChan s.link[l] ∧
      linkUp s l = true ∧
      s.link[l].chan[c].closing = [] ∧
      (s.link[l].chan[c].sendQ = [] ∨ s.link[l].chan[c].rekeyHold = true ∧
      bk = false) ∧
      s.link[l].chan[c].owed = 0) ∧
    (∃ (s : State) (l : LinkId) (c : Fin 9) (bk : Bool), c = windowChan s.link[l] ∧
      linkUp s l = true ∧
      s.link[l].chan[c].closing = [] ∧
      (s.link[l].chan[c].sendQ = [] ∨ s.link[l].chan[c].rekeyHold = true ∧
      bk = false) ∧
      0 < s.link[l].chan[c].owed) ∧
    (∃ (s : State) (l : LinkId) (c : Fin 9) (w : Bytes) (q : List Bytes), c = windowChan s.link[l] ∧ linkUp s l = true ∧ s.link[l].chan[c].closing = w :: q) ∧
    (∃ (s : State) (l : LinkId) (c : Fin 9) (f : OutFrame) (q : List OutFrame), c = windowChan s.link[l] ∧
      linkUp s l = true ∧
      s.link[l].chan[c].closing = [] ∧
      s.link[l].chan[c].sendQ = f :: q ∧
      f.typ = FrameTyp.ctrl) ∧
    (∃ (s : State) (l : LinkId) (c : Fin 9) (f : OutFrame) (q : List OutFrame), c = windowChan s.link[l] ∧
      linkUp s l = true ∧
      s.link[l].chan[c].closing = [] ∧
      s.link[l].chan[c].sendQ = f :: q ∧
      sealedTyp f.typ = true ∧
      s.link[l].chan[c].credits ≠ 0 ∧
      keyReady s (chanKeySlot s l c false) .aqueduct (chanOwner c) = true ∧
      lastCounter s.link[l].chan[c].sendCtr = false) := by
  refine ⟨⟨onChan8 1 {} up, 1, 8, false, ?_⟩,
    ⟨onChan8 1 { rekeyHold := true, sendQ := [{ typ := 1, seq := 0, offset := 0, payload := [] }] } up, 1, 8, false, ?_⟩,
    ⟨onChan8 1 { owed := 17 } up, 1, 8, true, ?_⟩,
    ⟨onChan8 1 { closing := [[1], [2]] } up, 1, 8, [1], [[2]], ?_⟩,
    ⟨onChan8 1 { sendQ := [{ typ := 2, seq := 0, offset := 0, payload := [] }] } up, 1, 8, { typ := 2, seq := 0, offset := 0, payload := [] }, [], ?_⟩,
    ⟨onSlot 38 (slotFor 0 .aqueduct) ((onChan0 1 { state := .opened, gen2 := true, share := 1, credits := 1, sendCtr := 1, sendQ := [{ typ := 1, seq := 0, offset := 0, payload := [] }] } tenant).onLink 1 fun k => { k with wheel := put k.wheel 0 0 }), 1, 0, { typ := 1, seq := 0, offset := 0, payload := [] }, [], ?_⟩⟩
  all_goals first | decide +kernel | (dsimp only; decide +kernel)

theorem witness_LinkWindows_2 :
    (∃ (s : State) (l : LinkId) (c : Fin 9) (f : OutFrame) (q : List OutFrame), c = windowChan s.link[l] ∧
      linkUp s l = true ∧
      s.link[l].chan[c].closing = [] ∧
      s.link[l].chan[c].sendQ = f :: q ∧
      sealedTyp f.typ = true ∧
      s.link[l].chan[c].credits ≠ 0 ∧
      keyReady s (chanKeySlot s l c false) .aqueduct (chanOwner c) = true ∧
      lastCounter s.link[l].chan[c].sendCtr = true ∧
      s.link[l].chan[c].gen2 = true ∧
      c.val < 8) ∧
    (∃ (s : State) (l : LinkId) (c : Fin 9), c = windowChan s.link[l] ∧ s.link[l].ready = true) ∧
    (∃ (s : State) (l : LinkId) (c : Fin 9), c = windowChan s.link[l] ∧ s.link[l].ready = false) := by
  refine ⟨⟨onSlot 38 (slotFor 0 .aqueduct) ((onChan0 1 { state := .opened, gen2 := true, share := 1, credits := 1, sendCtr := 4294967295, sendQ := [{ typ := 1, seq := 0, offset := 0, payload := [] }] } tenant).onLink 1 fun k => { k with wheel := put k.wheel 0 0 }), 1, 0, { typ := 1, seq := 0, offset := 0, payload := [] }, [], ?_⟩,
    ⟨onChan8 1 { state := .opened } up, 1, 8, ?_⟩,
    ⟨up, 1, 8, ?_⟩⟩
  all_goals first | decide +kernel | (dsimp only; decide +kernel)

theorem witness_LinkHandshake :
    (∃ (s : State) (l : LinkId) (c : Fin 9) (m : Bytes), s.link[l].chan[c].state = .handshake ∧
      linkUp s l = true ∧
      s.link[l].chan[c].gen2 = true ∧
      m.length ≠ 4 ∧
      chanOfCode (leAt m 34 1) = some c ∧
      s.link[l].chan[c].responder = true ∧
      s.link[l].chan[c].msgInit = [] ∧
      canSign s = true) ∧
    (∃ (s : State) (l : LinkId) (c : Fin 9), s.link[l].chan[c].state = .handshake ∧
      linkUp s l = true ∧
      s.link[l].chan[c].gen2 = true ∧
      s.link[l].chan[c].responder = false ∧
      s.link[l].chan[c].msgResp = [] ∧
      canSign s = true) ∧
    (∃ (s : State) (l : LinkId) (c : Fin 9), s.link[l].chan[c].state = .handshake ∧
      linkUp s l = true ∧
      s.link[l].chan[c].gen2 = true ∧
      s.link[l].chan[c].responder = true ∧
      s.link[l].chan[c].msgResp ≠ [] ∧
      astReady s = true) ∧
    (∃ (s : State) (l : LinkId) (c : Fin 9) (m : Bytes), s.link[l].chan[c].state = .handshake ∧
      linkUp s l = true ∧
      c = 8 ∧
      m.length = 4 ∧
      s.link[l].chan[c].gen2 = false ∧
      s.link[l].chan[c].responder = true ∧
      s.mer.halted = false ∧
      slotValid s 5 = true) ∧
    (∃ (s : State) (l : LinkId) (c : Fin 9) (m : Bytes), s.link[l].chan[c].state = .handshake ∧
      linkUp s l = true ∧
      c = 8 ∧
      m.length = 4 ∧
      s.link[l].chan[c].gen2 = false ∧
      s.link[l].chan[c].responder = true ∧
      s.mer.halted = false ∧
      slotValid s 5 = true) ∧
    (∃ (s : State) (l : LinkId) (c : Fin 9), s.link[l].chan[c].state = .handshake ∧ s.mer.halted = false) := by
  refine ⟨⟨onSlot 4 (slotFor 0xE .kdf) (onChan8 1 { state := .handshake, gen2 := true, responder := true } (up.onEph fun e => { e with drbgOk := true })), 1, 8, zeros 34 ++ [0x0E], ?_⟩,
    ⟨onSlot 4 (slotFor 0xE .kdf) (onChan8 1 { state := .handshake, gen2 := true } (up.onEph fun e => { e with drbgOk := true })), 1, 8, ?_⟩,
    ⟨onSlot 4 (slotFor 0xE .kdf) (onChan8 1 { state := .handshake, gen2 := true, responder := true, msgResp := [1] } (up.onEph fun e => { e with drbgOk := true })), 1, 8, ?_⟩,
    ⟨onSlot 5 (slotFor 0xE .aqueduct) (onChan8 1 { state := .handshake, responder := true } up), 1, 8, [0, 0, 0, 0], ?_⟩,
    ⟨onSlot 5 (slotFor 0xE .aqueduct) (onChan8 1 { state := .handshake, responder := true } up), 1, 8, [255, 255, 255, 255], ?_⟩,
    ⟨onSlot 4 (slotFor 0xE .kdf) (onChan8 1 { state := .handshake, gen2 := true } (up.onEph fun e => { e with drbgOk := true })), 1, 8, ?_⟩⟩
  all_goals first | decide +kernel | (dsimp only; decide +kernel)

theorem witness_LinkFrames_1 :
    (∃ (s : State) (l : LinkId) (c : Fin 9) (win : Bytes) (i : Instr) (ty : Nat), (i = .aqdData l win ∧
      ty = FrameTyp.data ∧
      dataOutside s l win (leAt win 3 1) = false ∨ i = .aqdXack l win ∧
      ty = FrameTyp.xack ∧
      s.basin.bad = [] ∨ i = .aqdRekey l win ∧
      ty = FrameTyp.rekey ∧
      s.link[l].chan[c].gen2 = true) ∧
      linkUp s l = true ∧
      win.length = 1024 ∧
      chanOfCode (leAt win 3 1) = some c ∧
      s.link[l].chan[c].state = .opened ∧
      keyReady s (chanKeySlot s l c true) .aqueduct (chanOwner c) = true ∧
      leAt win 0 1 = ty ∧
      seqFails s.link[l].chan[c] c ty win = false) ∧
    (∃ (s : State) (l : LinkId) (c : Fin 9) (win : Bytes) (i : Instr) (ty : Nat), (i = .aqdData l win ∧
      ty = FrameTyp.data ∧
      dataOutside s l win (leAt win 3 1) = false ∨ i = .aqdXack l win ∧
      ty = FrameTyp.xack ∧
      s.basin.bad = [] ∨ i = .aqdRekey l win ∧
      ty = FrameTyp.rekey ∧
      s.link[l].chan[c].gen2 = true) ∧
      linkUp s l = true ∧
      win.length = 1024 ∧
      chanOfCode (leAt win 3 1) = some c ∧
      s.link[l].chan[c].state = .opened ∧
      keyReady s (chanKeySlot s l c true) .aqueduct (chanOwner c) = true ∧
      leAt win 0 1 = ty ∧
      seqFails s.link[l].chan[c] c ty win = false) ∧
    (∃ (s : State) (l : LinkId) (c : Fin 9) (win : Bytes) (i : Instr) (ty : Nat), (i = .aqdData l win ∧
      ty = FrameTyp.data ∧
      dataOutside s l win (leAt win 3 1) = false ∨ i = .aqdXack l win ∧
      ty = FrameTyp.xack ∧
      s.basin.bad = [] ∨ i = .aqdRekey l win ∧
      ty = FrameTyp.rekey ∧
      s.link[l].chan[c].gen2 = true) ∧
      linkUp s l = true ∧
      win.length = 1024 ∧
      chanOfCode (leAt win 3 1) = some c ∧
      s.link[l].chan[c].state = .opened ∧
      keyReady s (chanKeySlot s l c true) .aqueduct (chanOwner c) = true ∧
      leAt win 0 1 = ty ∧
      seqFails s.link[l].chan[c] c ty win = false) ∧
    (∃ (s : State) (l : LinkId) (c : Fin 9) (win : Bytes), linkUp s l = true ∧
      win.length = 1024 ∧
      chanOfCode (leAt win 3 1) = some c ∧
      s.link[l].chan[c].state = .opened ∧
      keyReady s (chanKeySlot s l c true) .aqueduct (chanOwner c) = true ∧
      leAt win 0 1 = FrameTyp.close ∧
      seqFails s.link[l].chan[c] c FrameTyp.close win = false ∧
      s.link[l].chan[c].gen2 = true) ∧
    (∃ (s : State) (l : LinkId) (c : Fin 9) (win : Bytes) (i : Instr) (ty : Nat), (i = .aqdData l win ∧
      ty = FrameTyp.data ∨ i = .aqdXack l win ∧
      ty = FrameTyp.xack ∨ i = .aqdRekey l win ∧
      ty = FrameTyp.rekey ∨ i = .aqdClose l win ∧
      ty = FrameTyp.close) ∧
      linkUp s l = true ∧
      win.length = 1024 ∧
      chanOfCode (leAt win 3 1) = some c ∧
      s.link[l].chan[c].state = .opened ∧
      keyReady s (chanKeySlot s l c true) .aqueduct (chanOwner c) = true ∧
      leAt win 0 1 = ty ∧
      seqFails s.link[l].chan[c] c ty win = true) ∧
    (∃ (s : State) (l : LinkId) (c : Fin 9) (win : Bytes) (i : Instr) (ty : Nat), (i = .aqdData l win ∧
      ty = FrameTyp.data ∨ i = .aqdXack l win ∧
      ty = FrameTyp.xack ∨ i = .aqdRekey l win ∧
      ty = FrameTyp.rekey ∨ i = .aqdClose l win ∧
      ty = FrameTyp.close) ∧
      linkUp s l = true ∧
      win.length = 1024 ∧
      chanOfCode (leAt win 3 1) = some c ∧
      s.link[l].chan[c].state = .opened ∧
      keyReady s (chanKeySlot s l c true) .aqueduct (chanOwner c) = true ∧
      leAt win 0 1 = ty ∧
      seqFails s.link[l].chan[c] c ty win = true) := by
  refine ⟨⟨onSlot 39 (slotFor 0 .aqueduct) ((onChan0 1 { state := .opened, gen2 := true, peer := 0, share := 1, recvCtr := 1 } tenant).onLink 1 fun k => { k with xchg := upd k.xchg 0 fun x => { x with en := true } }), 1, 0, window 1 0 0 1, .aqdData 1 (window 1 0 0 1), 1, .inl ⟨rfl, by decide, by decide⟩, ?_⟩,
    ⟨onSlot 39 (slotFor 0 .aqueduct) ((onChan0 1 { state := .opened, gen2 := true, peer := 0, share := 1, recvCtr := 1 } tenant).onLink 1 fun k => { k with xchg := upd k.xchg 0 fun x => { x with en := true } }), 1, 0, window 4 0 0 0, .aqdXack 1 (window 4 0 0 0), 4, .inr (.inl ⟨rfl, by decide, by decide⟩), ?_⟩,
    ⟨onSlot 39 (slotFor 0 .aqueduct) (onChan0 1 { state := .opened, gen2 := true, peer := 0, share := 1, recvCtr := 4294967295 } tenant), 1, 0, [5, 2, 0, 0] ++ zeros 8 ++ [255, 255, 255, 255] ++ zeros 1008, .aqdRekey 1 ([5, 2, 0, 0] ++ zeros 8 ++ [255, 255, 255, 255] ++ zeros 1008), 5, .inr (.inr ⟨rfl, by decide, by decide⟩), ?_⟩,
    ⟨onSlot 39 (slotFor 0 .aqueduct) ((onChan0 1 { state := .opened, gen2 := true, peer := 0, share := 1, recvCtr := 1 } tenant).onLink 1 fun k => { k with xchg := upd k.xchg 0 fun x => { x with en := true } }), 1, 0, window 6 0 0 0, ?_⟩,
    ⟨onSlot 39 (slotFor 0 .aqueduct) (onChan0 1 { state := .opened, gen2 := true, peer := 0, share := 1, recvCtr := 4294967295 } tenant), 1, 0, window 1 0 0 0, .aqdData 1 (window 1 0 0 0), 1, .inl ⟨rfl, by decide⟩, ?_⟩,
    ⟨onSlot 39 (slotFor 0 .aqueduct) (onChan0 1 { state := .opened, gen2 := true, peer := 0, share := 1, recvCtr := 4294967295 } tenant), 1, 0, window 4 0 0 0, .aqdXack 1 (window 4 0 0 0), 4, .inr (.inl ⟨rfl, by decide⟩), ?_⟩⟩
  all_goals first | decide +kernel | (dsimp only; decide +kernel)

theorem witness_LinkFrames_2 :
    (∃ (s : State) (l : LinkId) (c : Fin 9) (win : Bytes) (i : Instr) (ty : Nat), (i = .aqdData l win ∧
      ty = FrameTyp.data ∨ i = .aqdXack l win ∧
      ty = FrameTyp.xack ∨ i = .aqdRekey l win ∧
      ty = FrameTyp.rekey ∨ i = .aqdClose l win ∧
      ty = FrameTyp.close) ∧
      linkUp s l = true ∧
      win.length = 1024 ∧
      chanOfCode (leAt win 3 1) = some c ∧
      s.link[l].chan[c].state = .opened ∧
      keyReady s (chanKeySlot s l c true) .aqueduct (chanOwner c) = true ∧
      leAt win 0 1 = ty ∧
      seqFails s.link[l].chan[c] c ty win = true) ∧
    (∃ (s : State) (l : LinkId) (c : Fin 9) (win : Bytes) (i : Instr) (ty : Nat), (i = .aqdData l win ∧
      ty = FrameTyp.data ∨ i = .aqdXack l win ∧
      ty = FrameTyp.xack ∨ i = .aqdRekey l win ∧
      ty = FrameTyp.rekey ∨ i = .aqdClose l win ∧
      ty = FrameTyp.close) ∧
      linkUp s l = true ∧
      win.length = 1024 ∧
      chanOfCode (leAt win 3 1) = some c ∧
      s.link[l].chan[c].state = .opened ∧
      keyReady s (chanKeySlot s l c true) .aqueduct (chanOwner c) = true ∧
      leAt win 0 1 = ty ∧
      seqFails s.link[l].chan[c] c ty win = true) ∧
    (∃ (s : State) (l : LinkId) (win : Bytes) (c : Fin 9), linkUp s l = true ∧
      win.length = 1024 ∧
      leAt win 0 1 = FrameTyp.credit ∧
      leAt win 16 1 = 0 ∧
      chanOfCode (leAt win 3 1) = some c ∧
      s.link[l].chan[c].state = .opened) ∧
    (∃ (s : State) (l : LinkId), linkUp s l = true) ∧
    (∃ (s : State) (l : LinkId) (win : Bytes), linkUp s l = true ∧
      win.length = 1024 ∧
      leAt win 0 1 = FrameTyp.content ∧
      leAt win 1 1 = 2 ∧
      leAt win 3 1 = 0x0E ∧
      (s.mer.phase = .drydock ∧
      s.link[l].chan[(8 : Fin 9)].state = .closed ∨ s.mer.phase = .full ∧
      s.link[l].chan[(8 : Fin 9)].state = .opened ∧
      s.link[l].chan[(8 : Fin 9)].gen2 = true)) ∧
    (∃ (s : State) (l : LinkId) (win : Bytes), linkUp s l = true ∧
      win.length = 1024 ∧
      leAt win 0 1 = FrameTyp.content ∧
      leAt win 1 1 = 2 ∧
      leAt win 3 1 = 0x0E ∧
      (s.mer.phase = .drydock ∧
      s.link[l].chan[(8 : Fin 9)].state = .closed ∨ s.mer.phase = .full ∧
      s.link[l].chan[(8 : Fin 9)].state = .opened ∧
      s.link[l].chan[(8 : Fin 9)].gen2 = true)) := by
  refine ⟨⟨onSlot 39 (slotFor 0 .aqueduct) (onChan0 1 { state := .opened, gen2 := true, peer := 0, share := 1, recvCtr := 4294967295 } tenant), 1, 0, window 5 0 0 0, .aqdRekey 1 (window 5 0 0 0), 5, .inr (.inr (.inl ⟨rfl, by decide⟩)), ?_⟩,
    ⟨onSlot 39 (slotFor 0 .aqueduct) (onChan0 1 { state := .opened, gen2 := true, peer := 0, share := 1, recvCtr := 4294967295 } tenant), 1, 0, window 6 0 0 0, .aqdClose 1 (window 6 0 0 0), 6, .inr (.inr (.inr (⟨rfl, by decide⟩))), ?_⟩,
    ⟨onChan0 1 { state := .opened, share := 2 } up, 1, window 3 0 0 0, 0, ?_⟩,
    ⟨onChan8 1 {} up, 1, ?_⟩,
    ⟨(onChan8 1 {} up).onMer fun m => { m with phase := .drydock }, 1, window 7 0 14 0, ?_⟩,
    ⟨onChan8 1 { state := .opened, gen2 := true } up, 1, window 7 0 14 1, ?_⟩⟩
  all_goals first | decide +kernel | (dsimp only; decide +kernel)

theorem witness_LinkFrames_3 :
    ∃ (s : State) (l : LinkId) (c : Fin 9) (f : OutFrame) (q : List OutFrame), linkUp s l = true ∧
      s.link[l].chan[c].state = .opened ∧
      s.link[l].chan[c].credits = 0 ∧
      s.link[l].chan[c].sendQ = f :: q ∧
      usesCredit f.typ = true := by
  refine ⟨onChan0 1 { state := .opened, sendQ := [{ typ := 1, seq := 0, offset := 0, payload := [] }] } up, 1, 0, { typ := 1, seq := 0, offset := 0, payload := [] }, [], ?_⟩
  all_goals first | decide +kernel | (dsimp only; decide +kernel)

theorem witness_CollimatorTests_1 :
    (∃ (s : State), colRuns s = true ∧ pickFalls s = true ∧ testBusy s = true) ∧
    (∃ (s : State), colRuns s = true ∧ pickFalls s = true ∧ testBusy s = false ∧ pickOf s = none) ∧
    (∃ (s : State) (b : BargeId), colRuns s = true ∧
      pickFalls s = true ∧
      testBusy s = false ∧
      pickOf s = some b ∧
      (s.barge[b].role = .spare ∨ ownerDozes s b = true)) ∧
    (∃ (s : State) (b : BargeId), colRuns s = true ∧
      pickFalls s = true ∧
      testBusy s = false ∧
      pickOf s = some b ∧
      (s.barge[b].role = .spare ∨ ownerDozes s b = true)) ∧
    (∃ (s : State) (b : BargeId), colRuns s = true ∧
      pickFalls s = true ∧
      testBusy s = false ∧
      pickOf s = some b ∧
      s.barge[b].role = .active ∧
      ownerDozes s b = false) ∧
    (∃ (s : State) (b : BargeId), colRuns s = true ∧
      pickFalls s = true ∧
      testBusy s = false ∧
      pickOf s = some b ∧
      s.barge[b].role = .active ∧
      ownerDozes s b = false) := by
  refine ⟨⟨secs 421 (up.onCol fun c => { c with quickDone := true, barge := some 0 }), ?_⟩,
    ⟨secs 421 (up.onCol fun c => { c with quickDone := true }), ?_⟩,
    ⟨secs 421 (fleet.onCol fun c => { c with quickDone := true }), 0, ?_⟩,
    ⟨secs 421 ((sailing.onSlu fun x => { x with reach := upd x.reach 0 fun y => { y with dozing := true } }).onCol fun c => { c with quickDone := true }), 3, ?_⟩,
    ⟨secs 421 (sailing.onCol fun c => { c with quickDone := true }), 3, ?_⟩,
    ⟨secs 421 ((sailing.onBarge 4 fun g => { g with role := .spare }).onCol fun c => { c with quickDone := true, first := some 3 }), 3, ?_⟩⟩
  all_goals first | decide +kernel | (dsimp only; decide +kernel)

theorem witness_CollimatorTests_2 :
    (∃ (s : State) (i : Fin 64), (∀ j : Fin 64, j.val < i.val → sliceWaits s j = false ∨ sameInstant s i j = false) ∧
      colRuns s = true ∧
      sliceWaits s i = true ∧
      s.col.island = none) ∧
    (∃ (s : State) (i : Fin 64), (∀ j : Fin 64, j.val < i.val → sliceWaits s j = false ∨ sameInstant s i j = false) ∧
      colRuns s = true ∧
      sliceWaits s i = true ∧
      s.col.island = none) ∧
    (∃ (s : State) (i : Fin 64), s.col.island = some i) ∧
    (∃ (s : State) (i : Fin 64) (v : Option (BitVec 64)), v ≠ some (Config.sliceSignature i.val s.col.islSlice) ∧ s.col.island = some i) ∧
    (∃ (s : State) (i : Fin 64) (v : Option (BitVec 64)), v ≠ some (Config.sliceSignature i.val s.col.islSlice) ∧ s.col.island = some i) ∧
    (∃ (s : State) (b : BargeId), s.col.barge = some b ∧ sliceRuns s b = true ∧ s.col.island = none ∧ s.col.verdict = none) := by
  refine ⟨⟨secs 7700 (up.onCol fun c => { c with quickDone := true, islNext := Vector.replicate 64 1000 |>.set 34 0 }), 34, by decide +kernel, ?_⟩,
    ⟨secs 13960 (up.onCol fun c => { c with quickDone := true, islNext := Vector.replicate 64 1000 |>.set 62 0 }), 62, by decide +kernel, ?_⟩,
    ⟨up.onCol fun c => { c with quickDone := true, island := some 60 }, 60, ?_⟩,
    ⟨up.onCol fun c => { c with quickDone := true, island := some 60 }, 60, none, by simp, ?_⟩,
    ⟨up.onCol fun c => { c with quickDone := true, island := some 60, islRepeat := true }, 60, none, by simp, ?_⟩,
    ⟨up.onCol fun c => { c with quickDone := true, barge := some 0 }, 0, ?_⟩⟩
  all_goals first | decide +kernel | (dsimp only; decide +kernel)

theorem witness_CollimatorTests_3 :
    (∃ (s : State) (b : BargeId) (v : Option (BitVec 64)), v ≠ some (Config.sliceSignature b.val s.col.slice) ∧
      s.col.barge = some b ∧
      sliceRuns s b = true ∧
      s.col.island = none ∧
      s.col.verdict = none) ∧
    (∃ (s : State) (b : BargeId), s.col.barge = some b ∧
      sliceRuns s b = true ∧
      s.col.verdict = some true ∧
      s.barge[b].role = .underTest ∧
      s.col.slice < 15 ∧
      s.slu.keepPending = false) := by
  refine ⟨⟨up.onCol fun c => { c with quickDone := true, barge := some 0 }, 0, none, by simp, ?_⟩,
    ⟨(up.onBarge 0 fun g => { g with role := .underTest }).onCol fun c => { c with quickDone := true, barge := some 0, slice := 14, verdict := some true }, 0, ?_⟩⟩
  all_goals first | decide +kernel | (dsimp only; decide +kernel)

theorem witness_MemoryPorts_1 :
    (∃ (s : State) (p : PortId), portUp s p = true) ∧
    (∃ (s : State) (p : PortId), portUp s p = true) ∧
    (∃ (s : State) (p : PortId) (n : ReachId) (q : MemReq), portUp s p = true ∧
      s.port[p].nextWheel = none ∧
      s.port[p].wheel.toList.getD (s.port[p].count % 64) 0xF = n.val ∧
      s.port[p].queue[svcOf n] = [q] ∧
      s.port[p].backlog[svcOf n] = [] ∧
      q.block = none ∧
      s.port[p].txns = [] ∧
      0 < s.port[p].quota[n] ∧
      0 < s.port[p].rdCredits ∧
      0 < s.port[p].wrCredits ∧
      keyReady s (keySlot s n 0) .culvertXts n.val = true ∧
      keyReady s (keySlot s n 1) .culvertXts n.val = true) ∧
    (∃ (s : State) (p : PortId) (n : ReachId) (q : MemReq), portUp s p = true ∧
      s.port[p].nextWheel = none ∧
      s.port[p].wheel.toList.getD (s.port[p].count % 64) 0xF = n.val ∧
      s.port[p].queue[svcOf n] = [q] ∧
      s.port[p].backlog[svcOf n] = [] ∧
      q.block = none ∧
      s.port[p].txns = [] ∧
      0 < s.port[p].quota[n] ∧
      0 < s.port[p].rdCredits ∧
      0 < s.port[p].wrCredits ∧
      keyReady s (keySlot s n 0) .culvertXts n.val = true ∧
      keyReady s (keySlot s n 1) .culvertXts n.val = true) ∧
    (∃ (s : State) (p : PortId), portUp s p = true ∧
      s.port[p].nextWheel = none ∧
      s.port[p].wheel.toList.getD (s.port[p].count % 64) 0xF = 0xF ∧
      s.port[p].spillEn = Vector.replicate 8 false) ∧
    (∃ (s : State) (p : PortId) (tag : Nat) (st : BitVec 2) (x : MemTxn), portUp s p = true ∧
      findMem s p .rd tag = some x ∧
      x.answered = false ∧
      x.lost = false ∧
      x.discard = false ∧
      x.req.use ≠ .tagLine ∧
      x.req.block = none ∧
      x.due = false ∧
      st.toNat < 2) := by
  refine ⟨⟨up, 15, ?_⟩,
    ⟨onPort0 (fun p => { p with wrCredits := 64 }) up, 0, ?_⟩,
    ⟨onPort0 (fun p => { p with wheel := Vector.replicate 64 0, queue := put p.queue 0 [{ kind := .rd, addr := 0, use := .load }], quota := put p.quota 0 1, rdCredits := 1, wrCredits := 1 }) (onSlot 32 (slotFor 0 .culvertXts) (onSlot 33 (slotFor 0 .culvertXts) tenant)), 0, 0, { kind := .rd, addr := 0, use := .load }, ?_⟩,
    ⟨onPort0 (fun p => { p with wheel := Vector.replicate 64 0, queue := put p.queue 0 [{ kind := .wr, addr := 0, use := .load }], quota := put p.quota 0 1, rdCredits := 1, wrCredits := 1 }) (onSlot 32 (slotFor 0 .culvertXts) (onSlot 33 (slotFor 0 .culvertXts) tenant)), 0, 0, { kind := .wr, addr := 0, use := .load }, ?_⟩,
    ⟨up, 0, ?_⟩,
    ⟨onPort0 (fun p => { p with txns := [txn .rd] }) tenant, 0, 0, 1, txn .rd, ?_⟩⟩
  all_goals first | decide +kernel | (dsimp only; decide +kernel)

theorem witness_MemoryPorts_2 :
    (∃ (s : State) (p : PortId) (tag : Nat) (st : BitVec 2) (x : MemTxn), portUp s p = true ∧
      findMem s p .rd tag = some x ∧
      x.answered = false ∧
      x.lost = false ∧
      x.discard = false ∧
      x.req.use ≠ .tagLine ∧
      x.req.block = none ∧
      x.due = false ∧
      st.toNat < 2) ∧
    (∃ (s : State) (p : PortId) (tag : Nat) (st : BitVec 2) (x : MemTxn), portUp s p = true ∧
      findMem s p .rd tag = some x ∧
      x.answered = false ∧
      x.lost = false ∧
      x.discard = false ∧
      x.req.use ≠ .tagLine ∧
      x.req.block = none ∧
      2 ≤ st.toNat ∧
      x.svc ≠ twilightSvc ∧
      s.keeper[x.svc].form = none ∧
      stepEnding s x.svc = false ∧
      s.keeper[x.svc].resuming = []) ∧
    (∃ (s : State) (p : PortId) (tag : Nat), portUp s p = true ∧ findMem s p .rd tag = none) ∧
    (∃ (s : State) (p : PortId) (tag : Nat) (st : BitVec 2) (x : MemTxn), portUp s p = true ∧
      findMem s p .wr tag = some x ∧
      x.answered = false ∧
      x.discard = false ∧
      st.toNat < 2 ∧
      x.due = false) ∧
    (∃ (s : State) (p : PortId) (k : Rw) (tag : Nat) (x : MemTxn), portUp s p = true ∧
      findMem s p k tag = some x ∧
      x.due = false ∧
      x.req.block = none ∧
      x.answered = false) ∧
    (∃ (s : State) (p : PortId) (k : Rw) (tag : Nat) (x : MemTxn), portUp s p = true ∧
      findMem s p k tag = some x ∧
      x.due = false ∧
      x.req.block = none ∧
      x.answered = true ∧
      x.discard = true) := by
  refine ⟨⟨onSlot 32 (slotFor 0 .culvertXts) (onSlot 33 (slotFor 0 .culvertXts) (onPort0 (fun p => { p with txns := [txn .rd] }) tenant)), 0, 0, 0, txn .rd, ?_⟩,
    ⟨onPort0 (fun p => { p with txns := [txn .rd] }) tenant, 0, 0, 2, txn .rd, ?_⟩,
    ⟨up, 0, 5, ?_⟩,
    ⟨onPort0 (fun p => { p with txns := [txn .wr] }) tenant, 0, 0, 1, txn .wr, ?_⟩,
    ⟨onPort0 (fun p => { p with txns := [txn .rd] }) tenant, 0, .rd, 0, txn .rd, ?_⟩,
    ⟨onPort0 (fun p => { p with txns := [{ txn .rd with answered := true, discard := true }] }) tenant, 0, .rd, 0, { txn .rd with answered := true, discard := true }, ?_⟩⟩
  all_goals first | decide +kernel | (dsimp only; decide +kernel)

theorem witness_Timeouts :
    (∃ (s : State) (p : PortId) (tag : Nat) (x : MemTxn), portUp s p = true ∧
      findMem s p .rd tag = some x ∧
      x.answered = false ∧
      x.lost = false ∧
      x.discard = false ∧
      x.req.use ≠ .tagLine ∧
      x.req.block = none ∧
      x.svc ≠ twilightSvc ∧
      s.keeper[x.svc].form = none ∧
      stepEnding s x.svc = false ∧
      s.keeper[x.svc].resuming = []) ∧
    (∃ (s : State) (p : PortId) (tag : Nat) (x : MemTxn), portUp s p = true ∧ findMem s p .rd tag = some x ∧ x.answered = false ∧ x.lost = true) ∧
    (∃ (s : State) (k : Rw) (tag : Nat) (x : SysTxn), sysUp s = true ∧ findTxn s k tag = some x ∧ x.answered = false ∧ x.lost = false ∧ x.discard = true) ∧
    (∃ (s : State) (k : Rw) (tag : Nat) (x : SysTxn), sysUp s = true ∧ findTxn s k tag = some x ∧ x.answered = false ∧ x.lost = false ∧ x.discard = true) ∧
    (∃ (s : State) (tag : Nat) (x : SysTxn) (r : SvcId) (q : Fin 2), sysUp s = true ∧
      findTxn s .rd tag = some x ∧
      x.answered = false ∧
      x.lost = false ∧
      x.discard = false ∧
      x.failed = false ∧
      x.req.use = .fetch r q) := by
  refine ⟨⟨onPort0 (fun p => { p with txns := [txn .rd] }) tenant, 0, 0, txn .rd, ?_⟩,
    ⟨onPort0 (fun p => { p with txns := [{ txn .rd with lost := true }] }) tenant, 0, 0, { txn .rd with lost := true }, ?_⟩,
    ⟨tenant.onSys fun y => { y with txns := [{ sysTxn .wr with discard := true }] }, .wr, 0, { sysTxn .wr with discard := true }, ?_⟩,
    ⟨tenant.onSys fun y => { y with txns := [{ sysTxn .rd with discard := true, failed := true }] }, .rd, 0, { sysTxn .rd with discard := true, failed := true }, ?_⟩,
    ⟨tenant.onSys fun y => { y with txns := [sysTxn .rd] }, 0, sysTxn .rd, 0, 0, ?_⟩⟩
  all_goals first | decide +kernel | (dsimp only; decide +kernel)

theorem witness_SystemPortTransactions_1 :
    (∃ (s : State), sysUp s = true) ∧
    (∃ (s : State) (r : SvcId) (q : SysReq), sysUp s = true ∧
      s.sys.wheel.toList.getD (s.sys.count % 64) 0xF = r.val ∧
      s.sys.requests[r] = [q] ∧
      q.kind = .rd ∧
      s.sys.txns = [] ∧
      0 < s.sys.rdCredits ∧
      s.sys.wrCredits = 0) ∧
    (∃ (s : State) (i : Fin 16), sysUp s = true ∧
      s.sys.wheel.toList.getD (s.sys.count % 64) 0xF = 0xF ∧
      s.sys.wrCredits ≠ 0 ∧
      strayMessage s = some i ∧
      s.sys.txns = []) ∧
    (∃ (s : State), sysUp s = true ∧ s.sys.wheel.toList.getD (s.sys.count % 64) 0xF = 0xF ∧ (s.sys.wrCredits = 0 ∨ strayMessage s = none)) ∧
    (∃ (s : State), sysUp s = true ∧ s.sys.wheel.toList.getD (s.sys.count % 64) 0xF = 0xF ∧ (s.sys.wrCredits = 0 ∨ strayMessage s = none)) ∧
    (∃ (s : State) (tag : Nat) (x : SysTxn), sysUp s = true ∧ findTxn s .rd tag = some x ∧ x.answered = false ∧ x.lost = false ∧ x.due = false) := by
  refine ⟨⟨up, ?_⟩,
    ⟨tenant.onSys fun y => { y with wheel := Vector.replicate 64 0, requests := put y.requests 0 [{ kind := .rd, addr := 0, len := 64, use := .fetch 0 0 }], rdCredits := 1 }, 0, { kind := .rd, addr := 0, len := 64, use := .fetch 0 0 }, ?_⟩,
    ⟨up.onSys fun y => { y with wrCredits := 1, route := upd y.route 12 fun r => { r with mode := 2, due := 2, addrHi := 1, addrLo := 4, data := 7 } }, 12, ?_⟩,
    ⟨up, ?_⟩,
    ⟨up.onSys fun y => { y with wrCredits := 1 }, ?_⟩,
    ⟨tenant.onSys fun y => { y with txns := [sysTxn .rd] }, 0, sysTxn .rd, ?_⟩⟩
  all_goals first | decide +kernel | (dsimp only; decide +kernel)

theorem witness_SystemPortTransactions_2 :
    (∃ (s : State) (tag : Nat) (x : SysTxn), sysUp s = true ∧ findTxn s .wr tag = some x ∧ x.answered = false ∧ x.lost = false ∧ x.due = false) ∧
    (∃ (s : State) (tag : Nat), sysUp s = true ∧ findTxn s .wr tag = none) ∧
    (∃ (s : State) (k : Rw) (tag : Nat) (x : SysTxn), sysUp s = true ∧ findTxn s k tag = some x ∧ x.due = false ∧ x.answered = false) ∧
    (∃ (s : State) (k : Rw) (tag : Nat) (x : SysTxn), sysUp s = true ∧
      findTxn s k tag = some x ∧
      x.due = false ∧
      x.answered = true ∧
      x.ok = true ∧
      x.discard = true) ∧
    (∃ (s : State) (k : Rw) (tag : Nat) (x : SysTxn) (r : SvcId) (q : Fin 2), sysUp s = true ∧
      findTxn s k tag = some x ∧
      x.due = false ∧
      x.answered = true ∧
      x.ok = true ∧
      x.discard = false ∧
      x.req.use = .fetch r q) ∧
    (∃ (s : State) (k : Rw) (tag : Nat) (x : SysTxn) (i : Fin 16), sysUp s = true ∧
      findTxn s k tag = some x ∧
      x.due = false ∧
      x.answered = true ∧
      x.ok = false ∧
      x.discard = false ∧
      x.failed = false ∧
      x.req.use = .message i) := by
  refine ⟨⟨tenant.onSys fun y => { y with txns := [sysTxn .wr] }, 0, sysTxn .wr, ?_⟩,
    ⟨up, 3, ?_⟩,
    ⟨tenant.onSys fun y => { y with txns := [sysTxn .wr] }, .wr, 0, sysTxn .wr, ?_⟩,
    ⟨tenant.onSys fun y => { y with txns := [{ sysTxn .wr with answered := true, discard := true }] }, .wr, 0, { sysTxn .wr with answered := true, discard := true }, ?_⟩,
    ⟨tenant.onSys fun y => { y with txns := [{ sysTxn .rd with answered := true, data := [1] }] }, .rd, 0, { sysTxn .rd with answered := true, data := [1] }, 0, 0, ?_⟩,
    ⟨tenant.onSys fun y => { y with txns := [{ tag := 0, owner := 0xF, req := { kind := .wr, addr := 0, len := 4, use := .message 12 }, answered := true, ok := false }] }, .wr, 0, { tag := 0, owner := 0xF, req := { kind := .wr, addr := 0, len := 4, use := .message 12 }, answered := true, ok := false }, 12, ?_⟩⟩
  all_goals first | decide +kernel | (dsimp only; decide +kernel)

theorem witness_SystemPortWrites_1 :
    (∃ (s : State) (a : BitVec 24) (n : Nat), sysUp s = true ∧ (n ≠ 4 ∨ a.toNat % 4 ≠ 0)) ∧
    (∃ (s : State) (a : BitVec 24) (n : Nat), sysUp s = true ∧ (n ≠ 4 ∨ a.toNat % 4 ≠ 0)) ∧
    (∃ (s : State) (i : Fin 16) (a : BitVec 24) (d : Word), sysUp s = true ∧ a.toNat = 0x940 + 4 * i.val ∧ bits d.toNat 0 2 ≠ 3) ∧
    (∃ (s : State) (i : Fin 16) (a : BitVec 24) (d : Word), sysUp s = true ∧ a.toNat = 0x940 + 4 * i.val ∧ bits d.toNat 0 2 ≠ 3) ∧
    (∃ (s : State) (i : Fin 16) (a : BitVec 24) (d : Word), sysUp s = true ∧ a.toNat = 0x940 + 4 * i.val ∧ bits d.toNat 0 2 = 3) ∧
    (∃ (s : State), sysUp s = true) := by
  refine ⟨⟨up, 1, 4, ?_⟩,
    ⟨up, 0, 8, ?_⟩,
    ⟨up, 0, 0x940, 2, ?_⟩,
    ⟨up, 15, 0x97C, 0, ?_⟩,
    ⟨up, 15, 0x97C, 3, ?_⟩,
    ⟨up, ?_⟩⟩
  all_goals first | decide +kernel | (dsimp only; decide +kernel)

theorem witness_SystemPortWrites_2 :
    ∃ (s : State), sysUp s = true := by
  refine ⟨onTwpChan 3 {} (up.onSys fun y => { y with irqPend := Vector.replicate 16 true }), ?_⟩
  all_goals first | decide +kernel | (dsimp only; decide +kernel)

theorem witness_RingRegisters_1 :
    (∃ (s : State) (r : SvcId) (d : Word) (q : Fin 2), sysUp s = true ∧
      s.slu.state ≠ .keep ∧
      s.mer.twilightEnding = false ∧
      s.ring[r].sq[q].state = .enabled ∧
      bits d.toNat 0 16 < 2 ^ s.ring[r].sq[q].sizeLog2) ∧
    (∃ (s : State) (r : SvcId) (d : Word) (q : Fin 2), sysUp s = true ∧
      s.slu.state ≠ .keep ∧
      s.mer.twilightEnding = false ∧
      s.ring[r].sq[q].state = .enabled ∧
      bits d.toNat 0 16 < 2 ^ s.ring[r].sq[q].sizeLog2) ∧
    (∃ (s : State) (r : SvcId) (d : Word) (q : Fin 2), sysUp s = true ∧
      s.slu.state ≠ .keep ∧
      s.mer.twilightEnding = false ∧
      (s.ring[r].sq[q].state ≠ .enabled ∨ 2 ^ s.ring[r].sq[q].sizeLog2 ≤ bits d.toNat 0 16)) ∧
    (∃ (s : State) (r : SvcId) (d : Word) (q : Fin 2), sysUp s = true ∧
      s.slu.state ≠ .keep ∧
      s.mer.twilightEnding = false ∧
      (s.ring[r].sq[q].state ≠ .enabled ∨ 2 ^ s.ring[r].sq[q].sizeLog2 ≤ bits d.toNat 0 16)) ∧
    (∃ (s : State) (r : SvcId) (d : Word), sysUp s = true ∧
      s.slu.state ≠ .keep ∧
      s.mer.twilightEnding = false ∧
      s.ring[r].cq.state = .enabled ∧
      bits d.toNat 0 16 < 2 ^ s.ring[r].cq.sizeLog2 ∧
      ringUsed s.ring[r].cq.sizeLog2 s.ring[r].cq.head (bits d.toNat 0 16) ≤ ringUsed s.ring[r].cq.sizeLog2 s.ring[r].cq.head s.ring[r].cq.tail) ∧
    (∃ (s : State) (r : SvcId) (d : Word), sysUp s = true ∧
      s.slu.state ≠ .keep ∧
      s.mer.twilightEnding = false ∧
      s.ring[r].cq.state = .enabled ∧
      ringUsed s.ring[r].cq.sizeLog2 s.ring[r].cq.head s.ring[r].cq.tail < ringUsed s.ring[r].cq.sizeLog2 s.ring[r].cq.head (bits d.toNat 0 16)) := by
  refine ⟨⟨onCq { enable := true, state := .enabled } (onSq 0 { enable := true, state := .enabled } (onSq 1 { enable := true, state := .enabled } tenant)), 0, 63, 0, ?_⟩,
    ⟨onSq 1 { enable := true, state := .enabled, tail := 3, fetched := [[1], [2], [3]] } (onCq { enable := true, state := .enabled } (onSq 0 { enable := true, state := .enabled } (onSq 1 { enable := true, state := .enabled } tenant))), 0, 1, 1, ?_⟩,
    ⟨onCq { enable := true, state := .enabled } (onSq 0 { enable := true, state := .enabled } (onSq 1 { enable := true, state := .enabled } tenant)), 0, 64, 0, ?_⟩,
    ⟨tenant, 0, 3, 1, ?_⟩,
    ⟨onCq { enable := true, state := .enabled } (onSq 0 { enable := true, state := .enabled } (onSq 1 { enable := true, state := .enabled } tenant)), 0, 0, ?_⟩,
    ⟨onCq { enable := true, state := .enabled } (onSq 0 { enable := true, state := .enabled } (onSq 1 { enable := true, state := .enabled } tenant)), 0, 1, ?_⟩⟩
  all_goals first | decide +kernel | (dsimp only; decide +kernel)

theorem witness_RingRegisters_2 :
    (∃ (s : State) (r : SvcId) (d : Word) (q : Fin 2), sysUp s = true ∧
      s.slu.state ≠ .keep ∧
      s.mer.twilightEnding = false ∧
      bit d.toNat 0 = true ∧
      s.ring[r].sq[q].enable = false) ∧
    (∃ (s : State) (r : SvcId) (d : Word) (q : Fin 2), sysUp s = true ∧
      s.slu.state ≠ .keep ∧
      s.mer.twilightEnding = false ∧
      bit d.toNat 0 = true ∧
      s.ring[r].sq[q].enable = false) ∧
    (∃ (s : State) (r : SvcId) (d : Word) (q : Fin 2), sysUp s = true ∧
      s.slu.state ≠ .keep ∧
      s.mer.twilightEnding = false ∧
      bit d.toNat 0 = true ∧
      s.ring[r].sq[q].enable = false) ∧
    (∃ (s : State) (r : SvcId) (d : Word) (q : Fin 2), sysUp s = true ∧
      s.slu.state ≠ .keep ∧
      s.mer.twilightEnding = false ∧
      bit d.toNat 0 = true ∧
      s.ring[r].sq[q].enable = false) ∧
    (∃ (s : State) (r : SvcId) (d : Word), sysUp s = true ∧
      s.slu.state ≠ .keep ∧
      s.mer.twilightEnding = false ∧
      bit d.toNat 0 = true ∧
      s.ring[r].cq.enable = false ∧
      mayEnable s r (bit d.toNat 1) = true) ∧
    (∃ (s : State) (r : SvcId) (d : Word), sysUp s = true ∧
      s.slu.state ≠ .keep ∧
      s.mer.twilightEnding = false ∧
      bit d.toNat 0 = true ∧
      s.ring[r].cq.enable = false ∧
      mayEnable s r (bit d.toNat 1) = true) := by
  refine ⟨⟨tenant, 0, 0x103, 1, ?_⟩,
    ⟨tenant, 0, 0x1F1, 0, ?_⟩,
    ⟨up, 0, 0x51, 0, ?_⟩,
    ⟨up, 0, 0x61, 1, ?_⟩,
    ⟨tenant, 0, 0x101, ?_⟩,
    ⟨onCq { recs := [record] } tenant, 0, 0x63, ?_⟩⟩
  all_goals first | decide +kernel | (dsimp only; decide +kernel)

theorem witness_RingRegisters_3 :
    (∃ (s : State) (r : SvcId) (d : Word) (q : Fin 2), sysUp s = true ∧
      s.slu.state ≠ .keep ∧
      s.mer.twilightEnding = false ∧
      bit d.toNat 0 = true ∧
      s.ring[r].sq[q].enable = true ∧
      s.ring[r].sq[q].state = .faulted) ∧
    (∃ (s : State) (r : SvcId) (d : Word) (q : Fin 2), sysUp s = true ∧
      s.slu.state ≠ .keep ∧
      s.mer.twilightEnding = false ∧
      bit d.toNat 0 = false ∧
      s.ring[r].sq[q].enable = true) ∧
    (∃ (s : State) (r : SvcId) (d : Word), sysUp s = true ∧
      s.slu.state ≠ .keep ∧
      s.mer.twilightEnding = false ∧
      bit d.toNat 0 = false ∧
      s.ring[r].cq.enable = true ∧
      (s.ring[r].cq.state ≠ .enabled ∨ s.keeper[r].reqs = [] ∧
      s.ring[r].cq.recs = [])) ∧
    (∃ (s : State) (r : SvcId) (d : Word), sysUp s = true ∧
      s.slu.state ≠ .keep ∧
      s.mer.twilightEnding = false ∧
      bit d.toNat 0 = false ∧
      s.ring[r].cq.enable = true ∧
      (s.ring[r].cq.state ≠ .enabled ∨ s.keeper[r].reqs = [] ∧
      s.ring[r].cq.recs = [])) ∧
    (∃ (s : State) (r : SvcId) (d : Word), sysUp s = true ∧
      s.slu.state ≠ .keep ∧
      s.mer.twilightEnding = false ∧
      bit d.toNat 0 = false ∧
      s.ring[r].cq.enable = true ∧
      s.ring[r].cq.state = .enabled ∧
      (s.keeper[r].reqs ≠ [] ∨ s.ring[r].cq.recs ≠ [])) ∧
    (∃ (s : State) (r : SvcId) (d : Word), sysUp s = true ∧
      s.slu.state ≠ .keep ∧
      s.mer.twilightEnding = false ∧
      bit d.toNat 0 = false ∧
      s.ring[r].cq.enable = true ∧
      s.ring[r].cq.state = .enabled ∧
      (s.keeper[r].reqs ≠ [] ∨ s.ring[r].cq.recs ≠ [])) := by
  refine ⟨⟨onSq 1 { enable := true, state := .faulted } tenant, 0, 1, 1, ?_⟩,
    ⟨onCq { enable := true, state := .enabled } (onSq 0 { enable := true, state := .enabled } (onSq 1 { enable := true, state := .enabled } tenant)), 0, 0, 0, ?_⟩,
    ⟨onCq { enable := true, state := .enabled } (onSq 0 { enable := true, state := .enabled } (onSq 1 { enable := true, state := .enabled } tenant)), 0, 0, ?_⟩,
    ⟨onCq { enable := true, state := .faulted, recs := [record] } tenant, 0, 0, ?_⟩,
    ⟨(onCq { enable := true, state := .enabled } (onSq 0 { enable := true, state := .enabled } (onSq 1 { enable := true, state := .enabled } tenant))).onKeeper 0 fun k => { k with reqs := [request] }, 0, 0, ?_⟩,
    ⟨onCq { enable := true, state := .enabled, recs := [record] } tenant, 0, 0, ?_⟩⟩
  all_goals first | decide +kernel | (dsimp only; decide +kernel)

theorem witness_Descriptors_1 :
    (∃ (s : State) (r : SvcId) (q : Fin 2) (l : Bytes), s.ring[r].sq[q].line = some l) ∧
    (∃ (s : State) (r : SvcId) (q : Fin 2) (l : Bytes), s.ring[r].sq[q].line = some l) ∧
    (∃ (s : State) (r : SvcId) (q : Fin 2), canTake s r q = true ∧ opcodeOf (frontDesc s r q) = 0) ∧
    (∃ (s : State) (r : SvcId) (q : Fin 2), canTake s r q = true ∧
      opcodeOf (frontDesc s r q) = 2 ∧
      cancelForm s.ring[r].sq[q].gen2 (frontDesc s r q) = true ∧
      s.ring[r].cq.recs = [] ∧
      cancels s r = true ∧
      (∀ n : ReachId, r = svcOf n → s.reach[n].state = .sealed) ∧
      (∀ x ∈ s.keeper[r].reqs, x.tag ≠ tagOf (frontDesc s r q))) ∧
    (∃ (s : State) (r : SvcId) (q : Fin 2), canTake s r q = true ∧
      opcodeOf (frontDesc s r q) = 2 ∧
      cancelForm s.ring[r].sq[q].gen2 (frontDesc s r q) = true ∧
      s.ring[r].cq.recs = [] ∧
      cancels s r = true ∧
      (∀ n : ReachId, r = svcOf n → s.reach[n].state = .sealed) ∧
      (∀ x ∈ s.keeper[r].reqs, x.tag ≠ tagOf (frontDesc s r q))) ∧
    (∃ (s : State) (r : SvcId) (q : Fin 2) (x : Req), canTake s r q = true ∧
      opcodeOf (frontDesc s r q) = 2 ∧
      cancelForm s.ring[r].sq[q].gen2 (frontDesc s r q) = true ∧
      s.ring[r].cq.recs = [] ∧
      cancels s r = true ∧
      (∀ n : ReachId, r = svcOf n → s.reach[n].state = .sealed) ∧
      s.keeper[r].reqs = [x] ∧
      x.tag = tagOf (frontDesc s r q) ∧
      x.state ≠ .ended ∧
      s.keeper[r].form = none) := by
  refine ⟨⟨onSq 0 { line := some (zeros 64), lineWant := 1, gen2 := true, tail := 3, enable := true, state := .enabled } tenant, 0, 0, zeros 64, ?_⟩,
    ⟨onSq 1 { line := some (zeros 63 ++ [1]), lineWant := 1, head := 1, tail := 2, enable := true, state := .enabled } tenant, 0, 1, zeros 63 ++ [1], ?_⟩,
    ⟨ready (zeros 64) false {}, 0, 0, ?_⟩,
    ⟨ready ([2] ++ zeros 63) false {}, 0, 0, ?_⟩,
    ⟨ready ([2] ++ zeros 63) true { finals := [0] }, 0, 0, ?_⟩,
    ⟨ready ([2, 0, 0, 0, 9] ++ zeros 59) true { reqs := [request] }, 0, 0, request, ?_⟩⟩
  all_goals first | decide +kernel | (dsimp only; decide +kernel)

theorem witness_Descriptors_2 :
    (∃ (s : State) (r : SvcId) (q : Fin 2) (b : Bucket) (ctx : Nat) (x : Req), canTake s r q = true ∧
      x = parseSubmit s.ring[r].sq[q].gen2 q (frontDesc s r q) ∧
      opcodeOf (frontDesc s r q) = 1 ∧
      submits s r = true ∧
      restaging s r = false ∧
      (∀ n : ReachId, r = svcOf n → s.slu.reach[n].dozing = false) ∧
      (r = twilightSvc → s.mer.step ≠ .derived) ∧
      submitForm s.ring[r].sq[q].gen2 (frontDesc s r q) x = true ∧
      (∀ y ∈ s.keeper[r].reqs, y.tag ≠ x.tag) ∧
      (pkgOf s r).bind (fun p => bucketFor p x) = some b ∧
      freeCtx s r = some ctx) ∧
    (∃ (s : State) (r : SvcId) (q : Fin 2) (b : Bucket) (ctx : Nat) (x : Req), canTake s r q = true ∧
      x = parseSubmit s.ring[r].sq[q].gen2 q (frontDesc s r q) ∧
      opcodeOf (frontDesc s r q) = 1 ∧
      submits s r = true ∧
      restaging s r = false ∧
      (∀ n : ReachId, r = svcOf n → s.slu.reach[n].dozing = false) ∧
      (r = twilightSvc → s.mer.step ≠ .derived) ∧
      submitForm s.ring[r].sq[q].gen2 (frontDesc s r q) x = true ∧
      (∀ y ∈ s.keeper[r].reqs, y.tag ≠ x.tag) ∧
      (pkgOf s r).bind (fun p => bucketFor p x) = some b ∧
      freeCtx s r = some ctx) ∧
    (∃ (s : State) (r : SvcId) (q : Fin 2) (x : Req), canTake s r q = true ∧
      x = parseSubmit s.ring[r].sq[q].gen2 q (frontDesc s r q) ∧
      opcodeOf (frontDesc s r q) ≠ 0 ∧
      opcodeOf (frontDesc s r q) ≠ 2 ∧
      opcodeOf (frontDesc s r q) ≠ 3 ∧
      s.ring[r].cq.recs = [] ∧
      (opcodeOf (frontDesc s r q) = 1 → restaging s r = false) ∧
      (opcodeOf (frontDesc s r q) ≠ 1 ∨ submitForm s.ring[r].sq[q].gen2 (frontDesc s r q) x = false ∨ submits s r = false ∨ (∃ y ∈ s.keeper[r].reqs, y.tag = x.tag) ∨ (pkgOf s r).bind (fun p => bucketFor p x) = none ∨ freeCtx s r = none)) ∧
    (∃ (s : State) (r : SvcId) (q : Fin 2) (x : Req), canTake s r q = true ∧
      x = parseSubmit s.ring[r].sq[q].gen2 q (frontDesc s r q) ∧
      opcodeOf (frontDesc s r q) ≠ 0 ∧
      opcodeOf (frontDesc s r q) ≠ 2 ∧
      opcodeOf (frontDesc s r q) ≠ 3 ∧
      s.ring[r].cq.recs = [] ∧
      (opcodeOf (frontDesc s r q) = 1 → restaging s r = false) ∧
      (opcodeOf (frontDesc s r q) ≠ 1 ∨ submitForm s.ring[r].sq[q].gen2 (frontDesc s r q) x = false ∨ submits s r = false ∨ (∃ y ∈ s.keeper[r].reqs, y.tag = x.tag) ∨ (pkgOf s r).bind (fun p => bucketFor p x) = none ∨ freeCtx s r = none)) ∧
    (∃ (s : State) (r : SvcId) (q : Fin 2) (x : Req), canTake s r q = true ∧
      x = parseSubmit s.ring[r].sq[q].gen2 q (frontDesc s r q) ∧
      opcodeOf (frontDesc s r q) ≠ 0 ∧
      opcodeOf (frontDesc s r q) ≠ 2 ∧
      opcodeOf (frontDesc s r q) ≠ 3 ∧
      s.ring[r].cq.recs = [] ∧
      (opcodeOf (frontDesc s r q) = 1 → restaging s r = false) ∧
      (opcodeOf (frontDesc s r q) ≠ 1 ∨ submitForm s.ring[r].sq[q].gen2 (frontDesc s r q) x = false ∨ submits s r = false ∨ (∃ y ∈ s.keeper[r].reqs, y.tag = x.tag) ∨ (pkgOf s r).bind (fun p => bucketFor p x) = none ∨ freeCtx s r = none)) ∧
    (∃ (s : State) (r : SvcId) (q : Fin 2) (x : Req), canTake s r q = true ∧
      x = parseSubmit s.ring[r].sq[q].gen2 q (frontDesc s r q) ∧
      opcodeOf (frontDesc s r q) ≠ 0 ∧
      opcodeOf (frontDesc s r q) ≠ 2 ∧
      opcodeOf (frontDesc s r q) ≠ 3 ∧
      s.ring[r].cq.recs = [] ∧
      (opcodeOf (frontDesc s r q) = 1 → restaging s r = false) ∧
      (opcodeOf (frontDesc s r q) ≠ 1 ∨ submitForm s.ring[r].sq[q].gen2 (frontDesc s r q) x = false ∨ submits s r = false ∨ (∃ y ∈ s.keeper[r].reqs, y.tag = x.tag) ∨ (pkgOf s r).bind (fun p => bucketFor p x) = none ∨ freeCtx s r = none)) := by
  refine ⟨⟨ready submitDesc true {}, 0, 0, bucket, 0, parseSubmit true 0 (submitDesc), ?_⟩,
    ⟨ready ([1, 0, 1, 0] ++ zeros 18 ++ [1] ++ zeros 9) false {}, 0, 0, bucket, 0, parseSubmit false 0 (([1, 0, 1, 0] ++ zeros 18 ++ [1] ++ zeros 9)), ?_⟩,
    ⟨ready ([4] ++ zeros 63) true {}, 0, 0, parseSubmit true 0 (([4] ++ zeros 63)), ?_⟩,
    ⟨ready ([1] ++ zeros 63) true {}, 0, 0, parseSubmit true 0 (([1] ++ zeros 63)), ?_⟩,
    ⟨(ready submitDesc true {}).onReach 0 fun x => { x with state := .loading }, 0, 0, parseSubmit true 0 (submitDesc), ?_⟩,
    ⟨ready submitDesc true { reqs := [{ request with tag := 0 }] }, 0, 0, parseSubmit true 0 (submitDesc), ?_⟩⟩
  all_goals first | decide +kernel | (dsimp only; decide +kernel)

theorem witness_Descriptors_3 :
    (∃ (s : State) (r : SvcId) (q : Fin 2) (x : Req), canTake s r q = true ∧
      x = parseSubmit s.ring[r].sq[q].gen2 q (frontDesc s r q) ∧
      opcodeOf (frontDesc s r q) ≠ 0 ∧
      opcodeOf (frontDesc s r q) ≠ 2 ∧
      opcodeOf (frontDesc s r q) ≠ 3 ∧
      s.ring[r].cq.recs = [] ∧
      (opcodeOf (frontDesc s r q) = 1 → restaging s r = false) ∧
      (opcodeOf (frontDesc s r q) ≠ 1 ∨ submitForm s.ring[r].sq[q].gen2 (frontDesc s r q) x = false ∨ submits s r = false ∨ (∃ y ∈ s.keeper[r].reqs, y.tag = x.tag) ∨ (pkgOf s r).bind (fun p => bucketFor p x) = none ∨ freeCtx s r = none)) ∧
    (∃ (s : State) (r : SvcId) (q : Fin 2) (x : Req), canTake s r q = true ∧
      x = parseSubmit s.ring[r].sq[q].gen2 q (frontDesc s r q) ∧
      opcodeOf (frontDesc s r q) ≠ 0 ∧
      opcodeOf (frontDesc s r q) ≠ 2 ∧
      opcodeOf (frontDesc s r q) ≠ 3 ∧
      s.ring[r].cq.recs = [] ∧
      (opcodeOf (frontDesc s r q) = 1 → restaging s r = false) ∧
      (opcodeOf (frontDesc s r q) ≠ 1 ∨ submitForm s.ring[r].sq[q].gen2 (frontDesc s r q) x = false ∨ submits s r = false ∨ (∃ y ∈ s.keeper[r].reqs, y.tag = x.tag) ∨ (pkgOf s r).bind (fun p => bucketFor p x) = none ∨ freeCtx s r = none)) ∧
    (∃ (s : State) (r : SvcId) (q : Fin 2) (n : ReachId) (j : LoadJob), canTake s r q = true ∧
      opcodeOf (frontDesc s r q) = 3 ∧
      r = svcOf n ∧
      s.ring[r].sq[q].gen2 = true ∧
      loadForm (frontDesc s r q) = true ∧
      loadOk s n = true ∧
      s.loader.job = some j) ∧
    (∃ (s : State) (r : SvcId) (q : Fin 2) (n : ReachId), canTake s r q = true ∧
      opcodeOf (frontDesc s r q) = 3 ∧
      r = svcOf n ∧
      s.ring[r].sq[q].gen2 = true ∧
      loadForm (frontDesc s r q) = true ∧
      loadOk s n = true ∧
      s.loader.job = none ∧
      s.loader.queue = [] ∧
      49 ≤ leAt (frontDesc s r q) 40 8) ∧
    (∃ (s : State) (r : SvcId) (q : Fin 2) (n : ReachId), canTake s r q = true ∧
      opcodeOf (frontDesc s r q) = 3 ∧
      r = svcOf n ∧
      s.ring[r].sq[q].gen2 = true ∧
      loadForm (frontDesc s r q) = true ∧
      loadOk s n = true ∧
      s.loader.job = none ∧
      s.loader.queue = [] ∧
      49 ≤ leAt (frontDesc s r q) 40 8) ∧
    (∃ (s : State) (r : SvcId) (q : Fin 2) (n : ReachId), canTake s r q = true ∧
      opcodeOf (frontDesc s r q) = 3 ∧
      r = svcOf n ∧
      s.ring[r].sq[q].gen2 = true ∧
      loadForm (frontDesc s r q) = true ∧
      loadOk s n = false ∧
      s.ring[r].cq.recs = []) := by
  refine ⟨⟨(ready submitDesc true {}).onReach 0 fun x => { x with pkg := none }, 0, 0, parseSubmit true 0 (submitDesc), ?_⟩,
    ⟨(ready submitDesc true {}).onReach 0 fun x => { x with flights := 0 }, 0, 0, parseSubmit true 0 (submitDesc), ?_⟩,
    ⟨{ (onSlot 35 (slotFor 0 .loadGcm) ((ready ([3] ++ zeros 63) true {}).onReach 0 fun x => { x with state := .loading })) with loader := { job := some { reach := 1, tag := 0, sq := 0, imageAddr := 0, imageBytes := 0 } } }, 0, 0, 0, { reach := 1, tag := 0, sq := 0, imageAddr := 0, imageBytes := 0 }, ?_⟩,
    ⟨(onSlot 35 (slotFor 0 .loadGcm) ((ready ([3] ++ zeros 39 ++ [49, 0, 0, 0] ++ zeros 20) true {}).onReach 0 fun x => { x with state := .loading })), 0, 0, 0, ?_⟩,
    ⟨(onSlot 35 (slotFor 0 .loadGcm) ((ready ([3] ++ zeros 39 ++ [0, 0, 1, 1] ++ zeros 20) true {}).onReach 0 fun x => { x with state := .loading })), 0, 0, 0, ?_⟩,
    ⟨ready ([3] ++ zeros 63) true {}, 0, 0, 0, ?_⟩⟩
  all_goals first | decide +kernel | (dsimp only; decide +kernel)

theorem witness_Descriptors_4 :
    (∃ (s : State) (r : SvcId) (x : Rec) (rest : List Rec), s.ring[r].cq.stage = .written ∧ s.ring[r].cq.recs = x :: rest ∧ s.mer.twilightEnding = false) ∧
    (∃ (s : State) (r : SvcId) (x : Rec) (rest : List Rec), s.ring[r].cq.stage = .written ∧ s.ring[r].cq.recs = x :: rest ∧ s.mer.twilightEnding = false) := by
  refine ⟨⟨onCq { enable := true, state := .enabled, stage := .written, tail := 63, recs := [record] } (working { reqs := [request], finals := List.replicate 256 5 }), 0, record, [], ?_⟩,
    ⟨onCq { enable := true, state := .enabled, stage := .written, tail := 0, recs := [{ record with frees := none, groupEnd := false }] } (working { reqs := [request], finals := List.replicate 256 5 }), 0, { record with frees := none, groupEnd := false }, [], ?_⟩⟩
  all_goals first | decide +kernel | (dsimp only; decide +kernel)

theorem witness_LockCycles_1 :
    (∃ (s : State) (r : SvcId) (q : Req), keeperRuns s r = true ∧
      formGate s r = true ∧
      s.keeper[r].reqs = [q] ∧
      q.deadlineUs = 0 ∧
      q.moorLimitMs = 0 ∧
      s.keeper[r].tolls[q.cust].en = false ∧
      1 ≤ q.bucket.maxRows ∧
      (∀ n : ReachId, r = svcOf n → s.reach[n].state = .sealed) ∧
      q.prompt ≤ q.prefilled ∧
      q.state = .active) ∧
    (∃ (s : State) (r : SvcId) (q : Req), keeperRuns s r = true ∧
      formGate s r = true ∧
      s.keeper[r].reqs = [q] ∧
      q.deadlineUs = 0 ∧
      q.moorLimitMs = 0 ∧
      s.keeper[r].tolls[q.cust].en = false ∧
      1 ≤ q.bucket.maxRows ∧
      (∀ n : ReachId, r = svcOf n → s.reach[n].state = .sealed) ∧
      q.prefilled < q.prompt ∧
      q.state = .queued ∧
      1 ≤ q.bucket.chunk) ∧
    (∃ (s : State) (r : SvcId) (q : Req), keeperRuns s r = true ∧
      formGate s r = true ∧
      s.keeper[r].reqs = [q] ∧
      q.deadlineUs = 0 ∧
      q.moorLimitMs = 0 ∧
      s.keeper[r].tolls[q.cust].en = false ∧
      1 ≤ q.bucket.maxRows ∧
      (∀ n : ReachId, r = svcOf n → s.reach[n].state = .sealed) ∧
      q.prefilled < q.prompt ∧
      q.state = .queued ∧
      1 ≤ q.bucket.chunk) ∧
    (∃ (s : State) (r : SvcId) (c : LockCycle), canStart s r = true ∧ s.keeper[r].form = some c) ∧
    (∃ (s : State) (b : BargeId) (c : Nat) (e : Nat) (rest : List Msg) (r : SvcId) (p : Package) (x : Sched), s.slu.keepPending = false ∧
      takeStepToken b s.flight = some ((c, e), rest) ∧
      s.col.barge ≠ some b ∧
      receives s b = true ∧
      svcOfBarge s.barge[b] = some r ∧
      acceptsStep s b e = true ∧
      pkgOf s r = some p ∧
      schedOf p s.keeper[r].liveSched s.barge[b].logical = some x ∧
      s.basin.weak = [] ∧
      s.basin.bad = []) ∧
    (∃ (s : State) (b : BargeId) (c : Nat) (e : Nat) (rest : List Msg) (r : SvcId), s.slu.keepPending = false ∧
      takeStepToken b s.flight = some ((c, e), rest) ∧
      s.col.barge ≠ some b ∧
      receives s b = true ∧
      svcOfBarge s.barge[b] = some r ∧
      acceptsStep s b e = false) := by
  refine ⟨⟨working { reqs := [request] }, 0, request, ?_⟩,
    ⟨working { reqs := [{ request with state := .queued, nPrompt := 300, prefilled := 0, bucket := { bucket with chunk := 300, maxRows := 255 } }] }, 0, { request with state := .queued, nPrompt := 300, prefilled := 0, bucket := { bucket with chunk := 300, maxRows := 255 } }, ?_⟩,
    ⟨working { reqs := [{ request with state := .queued, nPrompt := 3, prefilled := 2 }] }, 0, { request with state := .queued, nPrompt := 3, prefilled := 2 }, ?_⟩,
    ⟨working { reqs := [request], form := some { number := 0, entries := [entry] } }, 0, { number := 0, entries := [entry] }, ?_⟩,
    ⟨{ (working {}) with flight := [.stepToken 3 0 5] }, 3, 0, 5, [], 0, package, { progSection := 0, descSection := 0, init := 0, step := 7, resume := 0, progLen := 9 }, ?_⟩,
    ⟨{ (working {}) with flight := [.stepToken 3 0 4] }, 3, 0, 4, [], 0, ?_⟩⟩
  all_goals first | decide +kernel | (dsimp only; decide +kernel)

theorem witness_LockCycles_2 :
    (∃ (s : State) (r : SvcId) (b : BargeId), s.slu.keepPending = false ∧ Msg.refusal b r ∈ s.flight) ∧
    (∃ (s : State) (r : SvcId) (b : BargeId) (c : LockCycle), s.slu.keepPending = false ∧
      Msg.stepDone b r ∈ s.flight ∧
      b ∉ s.keeper[r].resuming ∧
      s.keeper[r].form = some c ∧
      c.started = true) ∧
    (∃ (s : State) (r : SvcId), canCommit s r = true ∧ s.basin.bad = []) ∧
    (∃ (s : State) (r : SvcId) (kc : Nat), keeperRuns s r = true ∧
      s.keeper[r].lastTick < keeperNow s r kc / 100000 ∧
      (∀ n : ReachId, r = svcOf n → s.reach[n].state ≠ .draining) ∧
      (∀ x ∈ s.keeper[r].reqs, x.deadlineUs = 0 ∧
      x.moorLimitMs = 0)) ∧
    (∃ (s : State) (r : SvcId) (kc : Nat) (x : Req), keeperRuns s r = true ∧
      s.keeper[r].lastTick < keeperNow s r kc / 100000 ∧
      (∀ n : ReachId, r = svcOf n → s.reach[n].state ≠ .draining) ∧
      s.keeper[r].reqs = [x] ∧
      s.keeper[r].form = none ∧
      s.ring[r].cq.recs = [] ∧
      x.state = .active ∧
      x.deadlineUs ≠ 0 ∧
      x.acceptCus + x.deadlineUs * 100 ≤ keeperNow s r kc ∧
      x.policyDone = false) ∧
    (∃ (s : State) (r : SvcId) (kc : Nat) (x : Req), keeperRuns s r = true ∧
      s.keeper[r].lastTick < keeperNow s r kc / 100000 ∧
      (∀ n : ReachId, r = svcOf n → s.reach[n].state ≠ .draining) ∧
      s.keeper[r].reqs = [x] ∧
      s.keeper[r].form = none ∧
      s.ring[r].cq.recs = [] ∧
      x.state = .active ∧
      x.deadlineUs ≠ 0 ∧
      x.acceptCus + x.deadlineUs * 100 ≤ keeperNow s r kc ∧
      x.policyDone = false) := by
  refine ⟨⟨{ (working {}) with flight := [.refusal 3 0] }, 0, 3, ?_⟩,
    ⟨{ (working { form := some { number := 0, entries := [entry], started := true } }) with flight := [.stepDone 3 0] }, 0, 3, { number := 0, entries := [entry], started := true }, ?_⟩,
    ⟨working { reqs := [request], form := some { number := 0, entries := [entry], started := true } }, 0, ?_⟩,
    ⟨working { nowCus := 100000 }, 0, 7, ?_⟩,
    ⟨working { nowCus := 100000, reqs := [{ request with deadlineUs := 1000, policy := .continue }] }, 0, 0, { request with deadlineUs := 1000, policy := .continue }, ?_⟩,
    ⟨working { nowCus := 100000, reqs := [{ request with deadlineUs := 1000, policy := .moor }] }, 0, 0, { request with deadlineUs := 1000, policy := .moor }, ?_⟩⟩
  all_goals first | decide +kernel | (dsimp only; decide +kernel)

theorem witness_LockCycles_3 :
    ∃ (s : State) (r : SvcId) (kc : Nat) (x : Req), keeperRuns s r = true ∧
      s.keeper[r].lastTick < keeperNow s r kc / 100000 ∧
      (∀ n : ReachId, r = svcOf n → s.reach[n].state ≠ .draining) ∧
      s.keeper[r].reqs = [x] ∧
      s.keeper[r].form = none ∧
      s.ring[r].cq.recs = [] ∧
      x.state = .active ∧
      x.deadlineUs ≠ 0 ∧
      x.acceptCus + x.deadlineUs * 100 ≤ keeperNow s r kc ∧
      x.policyDone = false := by
  refine ⟨working { nowCus := 100000, reqs := [{ request with deadlineUs := 1000, policy := .cancel }] }, 0, 0, { request with deadlineUs := 1000, policy := .cancel }, ?_⟩
  all_goals first | decide +kernel | (dsimp only; decide +kernel)

theorem witness_CommitToken :
    (∃ (s : State) (r : SvcId) (c : LockCycle) (e : Entry) (q : Req), canCommit s r = true ∧
      s.keeper[r].form = some c ∧
      c.entries = [e] ∧
      e.dropped = false ∧
      e.decode = true ∧
      e.sample = true ∧
      s.keeper[r].reqs = [q] ∧
      q.ctx = e.ctx ∧
      q.state = .active ∧
      q.deadlineUs = 0 ∧
      q.moorLimitMs = 0 ∧
      s.ring[r].cq.recs = [] ∧
      liveCount s r = s.keeper[r].liveSched ∧
      s.basin.bad = [] ∧
      (∀ n : ReachId, r = svcOf n → s.reach[n].state = .sealed ∧
      ∀ l : LinkId, s.link[l].xchg[n].en = false ∧
      s.link[l].chan[(⟨n.val, by omega⟩ : Fin 9)].ordered = none)) ∧
    (∃ (s : State) (r : SvcId) (c : LockCycle) (e : Entry) (q : Req), canCommit s r = true ∧
      s.keeper[r].form = some c ∧
      c.entries = [e] ∧
      e.dropped = false ∧
      e.decode = true ∧
      e.sample = true ∧
      s.keeper[r].reqs = [q] ∧
      q.ctx = e.ctx ∧
      q.state = .active ∧
      q.deadlineUs = 0 ∧
      q.moorLimitMs = 0 ∧
      s.ring[r].cq.recs = [] ∧
      liveCount s r = s.keeper[r].liveSched ∧
      s.basin.bad = [] ∧
      (∀ n : ReachId, r = svcOf n → s.reach[n].state = .sealed ∧
      ∀ l : LinkId, s.link[l].xchg[n].en = false ∧
      s.link[l].chan[(⟨n.val, by omega⟩ : Fin 9)].ordered = none)) := by
  refine ⟨⟨working { reqs := [request], form := some { number := 0, entries := [entry], started := true } }, 0, { number := 0, entries := [entry], started := true }, entry, request, ?_⟩,
    ⟨working { reqs := [{ request with maxNew := 2 }], form := some { number := 0, entries := [entry], started := true }, tolls := put ({} : Keeper).tolls 0 { en := true, balance := 5 } }, 0, { number := 0, entries := [entry], started := true }, entry, { request with maxNew := 2 }, ?_⟩⟩
  all_goals first | decide +kernel | (dsimp only; decide +kernel)

theorem witness_Tolls :
    (∃ (s : State), sysUp s = true) ∧
    (∃ (s : State), sysUp s = true) ∧
    (∃ (s : State), sysUp s = true) := by
  refine ⟨⟨up, ?_⟩,
    ⟨up.onKeeper 3 fun k => { k with tolls := put k.tolls 2 { en := true, balance := 7 } }, ?_⟩,
    ⟨up.onKeeper 0 fun k => { k with tolls := put k.tolls 3 { balance := 9 } }, ?_⟩⟩
  all_goals first | decide +kernel | (dsimp only; decide +kernel)

theorem witness_ScalarInstructions :
    (∃ (s : State) (b : BargeId) (d : SReg) (i : Instr) (v : Word), (i = .li b d v ∨ (∃ ra rb fn, i = .salu b d ra rb fn ∧
      v = sfn fn s.barge[b].sregs[ra] s.barge[b].sregs[rb]) ∨ (∃ off : BitVec 14, i = .sld b d off ∧
      v = BitVec.ofNat 32 (leNat (memBytes s.barge[b].spad (0x17C000 + 4 * off.toNat % 0x4000) 4)))) ∧
      issues s b i = true) ∧
    (∃ (s : State) (b : BargeId) (d : SReg) (i : Instr) (v : Word), (i = .li b d v ∨ (∃ ra rb fn, i = .salu b d ra rb fn ∧
      v = sfn fn s.barge[b].sregs[ra] s.barge[b].sregs[rb]) ∨ (∃ off : BitVec 14, i = .sld b d off ∧
      v = BitVec.ofNat 32 (leNat (memBytes s.barge[b].spad (0x17C000 + 4 * off.toNat % 0x4000) 4)))) ∧
      issues s b i = true) ∧
    (∃ (s : State) (b : BargeId) (d : SReg) (i : Instr) (v : Word), (i = .li b d v ∨ (∃ ra rb fn, i = .salu b d ra rb fn ∧
      v = sfn fn s.barge[b].sregs[ra] s.barge[b].sregs[rb]) ∨ (∃ off : BitVec 14, i = .sld b d off ∧
      v = BitVec.ofNat 32 (leNat (memBytes s.barge[b].spad (0x17C000 + 4 * off.toNat % 0x4000) 4)))) ∧
      issues s b i = true) := by
  refine ⟨⟨sees (.li 3 1 5) (sailing), 3, 1, .li 3 1 5, 5, .inl rfl, ?_⟩,
    ⟨sees (.salu 3 0 3 3 .add) (sailing), 3, 0, .salu 3 0 3 3 .add, 2, .inr (.inl ⟨3, 3, .add, rfl, by decide +kernel⟩), ?_⟩,
    ⟨sees (.sld 3 31 0x3FFF) (sailing), 3, 31, .sld 3 31 0x3FFF, 0, .inr (.inr ⟨0x3FFF, rfl, by decide +kernel⟩), ?_⟩⟩
  all_goals first | decide +kernel | (dsimp only; decide +kernel)

theorem witness_SequencerControl_1 :
    (∃ (s : State) (b : BargeId), issues s b (.nop b) = true) ∧
    (∃ (s : State) (b : BargeId) (l : LoopFrame) (ls : List LoopFrame), issues s b (.nop b) = true ∧
      s.barge[b].loops = l :: ls ∧
      s.barge[b].pc + 1 = l.stop ∧
      1 < l.left) ∧
    (∃ (s : State) (b : BargeId) (l : LoopFrame) (ls : List LoopFrame), issues s b (.nop b) = true ∧
      s.barge[b].loops = l :: ls ∧
      s.barge[b].pc + 1 = l.stop ∧
      l.left ≤ 1 ∧
      ls = []) ∧
    (∃ (s : State) (b : BargeId) (l : LoopFrame) (ls : List LoopFrame), issues s b (.nop b) = true ∧
      s.barge[b].loops = l :: ls ∧
      s.barge[b].pc + 1 = l.stop ∧
      l.left ≤ 1 ∧
      ls = []) ∧
    (∃ (s : State) (b : BargeId), issues s b (.fence b) = true ∧ s.barge[b].moves = []) ∧
    (∃ (s : State) (b : BargeId), issues s b (.fence b) = true ∧ s.barge[b].moves ≠ []) := by
  refine ⟨⟨sailing, 3, ?_⟩,
    ⟨onB3 (fun g => { g with loops := [{ first := 4, stop := 1, left := 2 }] }) sailing, 3, { first := 4, stop := 1, left := 2 }, [], ?_⟩,
    ⟨onB3 (fun g => { g with loops := [{ first := 4, stop := 1, left := 0 }] }) sailing, 3, { first := 4, stop := 1, left := 0 }, [], ?_⟩,
    ⟨onB3 (fun g => { g with loops := [{ first := 4, stop := 1, left := 1 }] }) sailing, 3, { first := 4, stop := 1, left := 1 }, [], ?_⟩,
    ⟨sees (.fence 3) (sailing), 3, ?_⟩,
    ⟨sees (.fence 3) (onB3 (fun g => { g with moves := [{ id := 0, left := 1, tok := none }] }) sailing), 3, ?_⟩⟩
  all_goals first | decide +kernel | (dsimp only; decide +kernel)

theorem witness_SequencerControl_2 :
    (∃ (s : State) (b : BargeId) (r : SvcId), issues s b (.stepdone b) = true ∧ svcOfBarge s.barge[b] = some r ∧ s.barge[b].moves = []) ∧
    (∃ (s : State) (b : BargeId) (r : SvcId), issues s b (.stepdone b) = true ∧ svcOfBarge s.barge[b] = some r ∧ s.barge[b].moves ≠ []) ∧
    (∃ (s : State) (b : BargeId) (ra : SReg) (rb : SReg) (c : BrCond) (off : BitVec 16), issues s b (.br b ra rb c off) = true ∧ s.barge[b].loops = []) ∧
    (∃ (s : State) (b : BargeId) (ra : SReg) (rb : SReg) (c : BrCond) (off : BitVec 16), issues s b (.br b ra rb c off) = true ∧ s.barge[b].loops = []) ∧
    (∃ (s : State) (b : BargeId) (ra : SReg) (rb : SReg) (c : BrCond) (off : BitVec 16), issues s b (.br b ra rb c off) = true ∧ s.barge[b].loops = []) ∧
    (∃ (s : State) (b : BargeId) (ra : SReg) (rb : SReg) (c : BrCond) (off : BitVec 16), issues s b (.br b ra rb c off) = true ∧ s.barge[b].loops = []) := by
  refine ⟨⟨sees (.stepdone 3) (sailing), 3, 0, ?_⟩,
    ⟨sees (.stepdone 3) (onB3 (fun g => { g with moves := [{ id := 0, left := 1, tok := none }] }) sailing), 3, 0, ?_⟩,
    ⟨sees (.br 3 3 0 .eq 0xFFFF) (sailing), 3, 3, 0, .eq, 0xFFFF, ?_⟩,
    ⟨sees (.br 3 3 0 .ne 0xFFFF) (sailing), 3, 3, 0, .ne, 0xFFFF, ?_⟩,
    ⟨sees (.br 3 3 0 .ltu 0xFFFF) (sailing), 3, 3, 0, .ltu, 0xFFFF, ?_⟩,
    ⟨sees (.br 3 3 0 .geu 0xFFFF) (sailing), 3, 3, 0, .geu, 0xFFFF, ?_⟩⟩
  all_goals first | decide +kernel | (dsimp only; decide +kernel)

theorem witness_SequencerControl_3 :
    (∃ (s : State) (b : BargeId) (ra : SReg) (len : BitVec 16), issues s b (.loop b ra len) = true ∧
      len ≠ 0 ∧
      s.barge[b].sregs[ra] ≠ 0 ∧
      s.barge[b].loops.length < 4) ∧
    (∃ (s : State) (b : BargeId) (ra : SReg) (len : BitVec 16), issues s b (.loop b ra len) = true ∧
      len ≠ 0 ∧
      s.barge[b].sregs[ra] ≠ 0 ∧
      s.barge[b].loops.length < 4) ∧
    (∃ (s : State) (b : BargeId) (ra : SReg) (len : BitVec 16), issues s b (.loop b ra len) = true ∧ (len = 0 ∨ s.barge[b].sregs[ra] = 0) ∧ s.barge[b].loops = []) ∧
    (∃ (s : State) (b : BargeId) (ra : SReg) (len : BitVec 16), issues s b (.loop b ra len) = true ∧ (len = 0 ∨ s.barge[b].sregs[ra] = 0) ∧ s.barge[b].loops = []) ∧
    (∃ (s : State) (b : BargeId) (ra : SReg) (a : BitVec 21), issues s b (.sst b ra a) = true ∧ inReach s b (.sst b ra a) = true ∧ a.toNat % 4 = 0) ∧
    (∃ (s : State) (b : BargeId) (ra : SReg) (a : BitVec 21), issues s b (.sst b ra a) = true ∧ inReach s b (.sst b ra a) = true ∧ a.toNat % 4 = 0) := by
  refine ⟨⟨sees (.loop 3 3 1) (sailing), 3, 3, 1, ?_⟩,
    ⟨sees (.loop 3 3 1) (onB3 (fun g => { g with loops := [{ first := 4, stop := 1, left := 2 }, { first := 4, stop := 1, left := 2 }, { first := 4, stop := 1, left := 2 }] }) sailing), 3, 3, 1, ?_⟩,
    ⟨sees (.loop 3 0 9) (sailing), 3, 0, 9, ?_⟩,
    ⟨sees (.loop 3 3 0) (sailing), 3, 3, 0, ?_⟩,
    ⟨sees (.sst 3 3 0x15FFFC) (sailing), 3, 3, 0x15FFFC, ?_⟩,
    ⟨sees (.sst 3 3 0) (sailing), 3, 3, 0, ?_⟩⟩
  all_goals first | decide +kernel | (dsimp only; decide +kernel)

theorem witness_SequencerControl_4 :
    ∃ (s : State) (b : BargeId) (desc : DescId) (dim : Fin 4) (ra : SReg), issues s b (.tdset b desc dim ra) = true := by
  refine ⟨sees (.tdset 3 255 3 3) (sailing), 3, 255, 3, 3, ?_⟩
  all_goals first | decide +kernel | (dsimp only; decide +kernel)

theorem witness_TokensAndCredits_1 :
    (∃ (s : State) (b : BargeId) (ta : Fin 16) (tb : Fin 16) (tc : Fin 16) (ca : BitVec 12) (cb : BitVec 12) (cc : BitVec 12), issues s b (.wait b ta ca tb cb tc cc) = true) ∧
    (∃ (s : State) (b : BargeId) (ta : Fin 16) (tb : Fin 16) (tc : Fin 16) (ca : BitVec 12) (cb : BitVec 12) (cc : BitVec 12), issues s b (.wait b ta ca tb cb tc cc) = true) ∧
    (∃ (s : State) (b : BargeId) (tgt : SigTgt) (lb : Fin 32) (ch : Fin 16) (cc : Fin 16) (n : BitVec 12) (cv : Bool), issues s b (.signal b tgt lb ch n cv cc) = true ∧
      (cv = true → s.barge[b].credits[cc] ≠ 0) ∧
      tgt = .self ∧
      s.barge[b].tokens[ch] + n.toNat ≤ 4095) ∧
    (∃ (s : State) (b : BargeId) (tgt : SigTgt) (lb : Fin 32) (ch : Fin 16) (cc : Fin 16) (n : BitVec 12) (cv : Bool), issues s b (.signal b tgt lb ch n cv cc) = true ∧
      (cv = true → s.barge[b].credits[cc] ≠ 0) ∧
      tgt = .self ∧
      s.barge[b].tokens[ch] + n.toNat ≤ 4095) ∧
    (∃ (s : State) (b : BargeId) (tgt : SigTgt) (lb : Fin 32) (ch : Fin 16) (cc : Fin 16) (n : BitVec 12) (cv : Bool) (d : BargeId), issues s b (.signal b tgt lb ch n cv cc) = true ∧
      (cv = true → s.barge[b].credits[cc] ≠ 0) ∧
      tgt = .logical ∧
      target s b lb.val = some d) ∧
    (∃ (s : State) (b : BargeId) (tgt : SigTgt) (lb : Fin 32) (ch : Fin 16) (cc : Fin 16) (n : BitVec 12) (cv : Bool) (d : BargeId), issues s b (.signal b tgt lb ch n cv cc) = true ∧
      (cv = true → s.barge[b].credits[cc] ≠ 0) ∧
      tgt = .logical ∧
      target s b lb.val = some d) := by
  refine ⟨⟨sees (.wait 3 1 2 1 2 3 0) (onB3 (fun g => { g with tokens := put g.tokens 1 5 }) sailing), 3, 1, 1, 3, 2, 2, 0, ?_⟩,
    ⟨sees (.wait 3 1 2 1 3 3 0) (onB3 (fun g => { g with tokens := put g.tokens 1 5 }) sailing), 3, 1, 1, 3, 2, 3, 0, ?_⟩,
    ⟨sees (.signal 3 .self 0 1 4090 false 0) (onB3 (fun g => { g with tokens := put g.tokens 1 5 }) sailing), 3, .self, 0, 1, 0, 4090, false, ?_⟩,
    ⟨sees (.signal 3 .self 0 1 4090 true 2) (onB3 (fun g => { g with credits := put g.credits 2 1 }) sailing), 3, .self, 0, 1, 2, 4090, true, ?_⟩,
    ⟨sees (.signal 3 .logical 0 1 7 true 2) (onB3 (fun g => { g with credits := put g.credits 2 1 }) sailing), 3, .logical, 0, 1, 2, 7, true, 3, ?_⟩,
    ⟨sees (.signal 3 .logical 0 1 7 false 2) (sailing), 3, .logical, 0, 1, 2, 7, false, 3, ?_⟩⟩
  all_goals first | decide +kernel | (dsimp only; decide +kernel)

theorem witness_TokensAndCredits_2 :
    (∃ (s : State) (b : BargeId) (tgt : SigTgt) (lb : Fin 32) (ch : Fin 16) (cc : Fin 16) (n : BitVec 12), issues s b (.signal b tgt lb ch n true cc) = true ∧
      s.barge[b].credits[cc] = 0 ∧
      (tgt = .logical → (target s b lb.val).isSome = true)) ∧
    (∃ (s : State) (b : BargeId) (tgt : SigTgt) (lb : Fin 32) (ch : Fin 16) (cc : Fin 16) (n : BitVec 12), issues s b (.signal b tgt lb ch n true cc) = true ∧
      s.barge[b].credits[cc] = 0 ∧
      (tgt = .logical → (target s b lb.val).isSome = true)) ∧
    (∃ (s : State) (b : BargeId) (lb : Fin 32) (ch : Fin 16) (n : BitVec 12) (d : BargeId), issues s b (.cgive b lb ch n) = true ∧ target s b lb.val = some d) ∧
    (∃ (s : State) (b : BargeId) (ch : Fin 16) (n : BitVec 12), issues s b (.clim b ch n) = true) ∧
    (∃ (s : State) (a : BargeId) (b : BargeId) (ch : Fin 16) (n : Nat) (pre : List Msg) (post : List Msg), (∀ m ∈ pre, m.route ≠ some (some a, b)) ∧
      (∀ c k, Msg.token c b ch k ∉ pre) ∧
      s.flight = pre ++ .token a b ch n :: post ∧
      receives s b = true ∧
      (∀ m ∈ pre ++ post, m.isData = false) ∧
      s.slu.keepPending = false ∧
      s.barge[b].held = none ∧
      s.barge[b].tokens[ch] + n ≤ 4095) ∧
    (∃ (s : State) (a : BargeId) (b : BargeId) (ch : Fin 16) (n : Nat) (pre : List Msg) (post : List Msg) (k : Nat), (∀ m ∈ pre, m.route ≠ some (some a, b)) ∧
      (∀ c k, Msg.token c b ch k ∉ pre) ∧
      s.flight = pre ++ .token a b ch n :: post ∧
      receives s b = true ∧
      (∀ m ∈ pre ++ post, m.isData = false) ∧
      s.slu.keepPending = false ∧
      s.barge[b].held = some (.wait [(ch, k)]) ∧
      k ≤ s.barge[b].tokens[ch] + n ∧
      s.barge[b].tokens[ch] + n ≤ 4095) := by
  refine ⟨⟨sees (.signal 3 .logical 0 1 7 true 2) (sailing), 3, .logical, 0, 1, 2, 7, ?_⟩,
    ⟨sees (.signal 3 .self 31 1 7 true 2) (sailing), 3, .self, 31, 1, 2, 7, ?_⟩,
    ⟨sees (.cgive 3 0 1 7) (sailing), 3, 0, 1, 7, 3, ?_⟩,
    ⟨sees (.clim 3 1 4095) (sailing), 3, 1, 4095, ?_⟩,
    ⟨{ (sailing) with flight := [.token 5 3 1 4095, .token 5 3 2 1] }, 5, 3, 1, 4095, [], [.token 5 3 2 1], by intro m h; simp at h, by intro c k h; simp at h, ?_⟩,
    ⟨{ (onB3 (fun g => { g with held := some (.wait [(1, 9)]) }) sailing) with flight := [.token 5 3 1 4095, .token 5 3 2 1] }, 5, 3, 1, 4095, [], [.token 5 3 2 1], 9, by intro m h; simp at h, by intro c k h; simp at h, ?_⟩⟩
  all_goals first | decide +kernel | (dsimp only; decide +kernel)

theorem witness_TokensAndCredits_3 :
    (∃ (s : State) (a : BargeId) (b : BargeId) (ch : Fin 16) (n : Nat) (pre : List Msg) (post : List Msg), (∀ m ∈ pre, m.route ≠ some (some a, b)) ∧
      (∀ c k, Msg.token c b ch k ∉ pre) ∧
      s.flight = pre ++ .token a b ch n :: post ∧
      receives s b = true ∧
      (∀ m ∈ pre ++ post, m.isData = false) ∧
      s.slu.keepPending = false ∧
      4095 < s.barge[b].tokens[ch] + n ∧
      s.barge[b].role = .underTest ∧
      s.col.deferred = false) ∧
    (∃ (s : State) (a : BargeId) (b : BargeId) (ch : Fin 16) (n : Nat) (pre : List Msg) (post : List Msg), (∀ m ∈ pre, m.route ≠ some (some a, b)) ∧
      (∀ c k, Msg.credit c b ch k ∉ pre) ∧
      s.flight = pre ++ .credit a b ch n :: post ∧
      receives s b = true ∧
      (∀ m ∈ pre ++ post, m.isData = false) ∧
      s.slu.keepPending = false ∧
      s.barge[b].credits[ch] + n ≤ s.barge[b].limits[ch] ∧
      s.barge[b].held = none) ∧
    (∃ (s : State) (a : BargeId) (b : BargeId) (ch : Fin 16) (n : Nat) (pre : List Msg) (post : List Msg) (lb : Fin 32) (tch : Fin 16) (m : BitVec 12) (d : BargeId), (∀ m ∈ pre, m.route ≠ some (some a, b)) ∧
      (∀ c k, Msg.credit c b ch k ∉ pre) ∧
      s.flight = pre ++ .credit a b ch n :: post ∧
      receives s b = true ∧
      (∀ m ∈ pre ++ post, m.isData = false) ∧
      s.slu.keepPending = false ∧
      s.barge[b].held = some (.credit ch (.signal b .logical lb tch m true ch)) ∧
      target s b lb.val = some d ∧
      0 < s.barge[b].credits[ch] + n ∧
      s.barge[b].credits[ch] + n ≤ s.barge[b].limits[ch]) ∧
    (∃ (s : State) (a : BargeId) (b : BargeId) (ch : Fin 16) (n : Nat) (pre : List Msg) (post : List Msg), (∀ m ∈ pre, m.route ≠ some (some a, b)) ∧
      (∀ c k, Msg.credit c b ch k ∉ pre) ∧
      s.flight = pre ++ .credit a b ch n :: post ∧
      receives s b = true ∧
      (∀ m ∈ pre ++ post, m.isData = false) ∧
      s.slu.keepPending = false ∧
      s.barge[b].limits[ch] < s.barge[b].credits[ch] + n ∧
      s.barge[b].role = .underTest ∧
      s.col.deferred = false) := by
  refine ⟨⟨{ (sailing.onBarge 4 fun g => { g with role := .underTest }) with flight := [.token 5 4 1 4096, .token 5 3 2 1] }, 5, 4, 1, 4096, [], [.token 5 3 2 1], by intro m h; simp at h, by intro c k h; simp at h, ?_⟩,
    ⟨{ (onB3 (fun g => { g with limits := Vector.replicate 16 9 }) sailing) with flight := [.credit 5 3 1 9, .token 5 3 2 1] }, 5, 3, 1, 9, [], [.token 5 3 2 1], by intro m h; simp at h, by intro c k h; simp at h, ?_⟩,
    ⟨{ (onB3 (fun g => { g with held := some (.credit 1 (.signal 3 .logical 0 4 7 true 1)) }) (onB3 (fun g => { g with limits := Vector.replicate 16 9 }) sailing)) with flight := [.credit 5 3 1 9, .token 5 3 2 1] }, 5, 3, 1, 9, [], [.token 5 3 2 1], 0, 4, 7, 3, by intro m h; simp at h, by intro c k h; simp at h, ?_⟩,
    ⟨{ (onB3 (fun g => g) (sailing.onBarge 4 fun g => { g with role := .underTest, limits := Vector.replicate 16 3 })) with flight := [.credit 5 4 1 4, .token 5 3 2 1] }, 5, 4, 1, 4, [], [.token 5 3 2 1], by intro m h; simp at h, by intro c k h; simp at h, ?_⟩⟩
  all_goals first | decide +kernel | (dsimp only; decide +kernel)

theorem witness_VectorRegisters :
    (∃ (s : State) (b : BargeId) (vd : VReg) (i : Instr) (lm1 : Fin 128) (f : Nat → Word), ((∃ fn va vb vc, i = .vop b fn vd va vb vc lm1 ∧
      f = fun k => vfn fn (s.barge[b].vregs[va].toList.getD k 0) (s.barge[b].vregs[vb].toList.getD k 0) (s.barge[b].vregs[vc].toList.getD k 0)) ∨ (∃ (seed tok draw : SReg) (dom : BitVec 8), i = .vrng b vd seed tok draw dom lm1 ∧
      seed.val % 2 = 0 ∧
      f = fun k => uniform s.barge[b].sregs[seed] s.barge[b].sregs[seed + 1] s.barge[b].sregs[tok] (s.barge[b].sregs[draw] + BitVec.ofNat 32 k) dom.toNat)) ∧
      issues s b i = true) ∧
    (∃ (s : State) (b : BargeId) (vd : VReg) (i : Instr) (lm1 : Fin 128) (f : Nat → Word), ((∃ fn va vb vc, i = .vop b fn vd va vb vc lm1 ∧
      f = fun k => vfn fn (s.barge[b].vregs[va].toList.getD k 0) (s.barge[b].vregs[vb].toList.getD k 0) (s.barge[b].vregs[vc].toList.getD k 0)) ∨ (∃ (seed tok draw : SReg) (dom : BitVec 8), i = .vrng b vd seed tok draw dom lm1 ∧
      seed.val % 2 = 0 ∧
      f = fun k => uniform s.barge[b].sregs[seed] s.barge[b].sregs[seed + 1] s.barge[b].sregs[tok] (s.barge[b].sregs[draw] + BitVec.ofNat 32 k) dom.toNat)) ∧
      issues s b i = true) ∧
    (∃ (s : State) (b : BargeId) (vd : VReg) (i : Instr) (w : Word), ((∃ (va : VReg) (lane : Fin 128), i = .vbc b vd va lane ∧
      w = s.barge[b].vregs[va][lane]) ∨ (∃ ra : SReg, i = .vspl b vd ra ∧
      w = s.barge[b].sregs[ra])) ∧
      issues s b i = true) ∧
    (∃ (s : State) (b : BargeId) (vd : VReg) (i : Instr) (w : Word), ((∃ (va : VReg) (lane : Fin 128), i = .vbc b vd va lane ∧
      w = s.barge[b].vregs[va][lane]) ∨ (∃ ra : SReg, i = .vspl b vd ra ∧
      w = s.barge[b].sregs[ra])) ∧
      issues s b i = true) := by
  refine ⟨⟨sees (.vop 3 .add 2 1 1 1 9) (onB3 (fun g => { g with vregs := put g.vregs 1 (Vector.replicate 128 0x3F800000) }) sailing), 3, 2, .vop 3 .add 2 1 1 1 9, 9, fun k => vfn .add ((sees (.vop 3 .add 2 1 1 1 9) (onB3 (fun g => { g with vregs := put g.vregs 1 (Vector.replicate 128 0x3F800000) }) sailing)).barge[3].vregs[1].toList.getD k 0) ((sees (.vop 3 .add 2 1 1 1 9) (onB3 (fun g => { g with vregs := put g.vregs 1 (Vector.replicate 128 0x3F800000) }) sailing)).barge[3].vregs[1].toList.getD k 0) ((sees (.vop 3 .add 2 1 1 1 9) (onB3 (fun g => { g with vregs := put g.vregs 1 (Vector.replicate 128 0x3F800000) }) sailing)).barge[3].vregs[1].toList.getD k 0), .inl ⟨.add, 1, 1, 1, rfl, rfl⟩, ?_⟩,
    ⟨sees (.vrng 3 2 4 6 7 8 127) (onB3 (fun g => { g with vregs := put g.vregs 1 (Vector.replicate 128 0x3F800000) }) sailing), 3, 2, .vrng 3 2 4 6 7 8 127, 127, fun k => uniform (sees (.vrng 3 2 4 6 7 8 127) (onB3 (fun g => { g with vregs := put g.vregs 1 (Vector.replicate 128 0x3F800000) }) sailing)).barge[3].sregs[4] (sees (.vrng 3 2 4 6 7 8 127) (onB3 (fun g => { g with vregs := put g.vregs 1 (Vector.replicate 128 0x3F800000) }) sailing)).barge[3].sregs[5] (sees (.vrng 3 2 4 6 7 8 127) (onB3 (fun g => { g with vregs := put g.vregs 1 (Vector.replicate 128 0x3F800000) }) sailing)).barge[3].sregs[6] ((sees (.vrng 3 2 4 6 7 8 127) (onB3 (fun g => { g with vregs := put g.vregs 1 (Vector.replicate 128 0x3F800000) }) sailing)).barge[3].sregs[7] + BitVec.ofNat 32 k) 8, .inr ⟨4, 6, 7, 8, rfl, rfl, rfl⟩, ?_⟩,
    ⟨sees (.vbc 3 2 1 127) (onB3 (fun g => { g with vregs := put g.vregs 1 (Vector.replicate 128 0x3F800000) }) sailing), 3, 2, .vbc 3 2 1 127, 0x3F800000, .inl ⟨1, 127, rfl, by decide +kernel⟩, ?_⟩,
    ⟨sees (.vspl 3 2 3) (onB3 (fun g => { g with vregs := put g.vregs 1 (Vector.replicate 128 0x3F800000) }) sailing), 3, 2, .vspl 3 2 3, 1, .inr ⟨3, rfl, by decide +kernel⟩, ?_⟩⟩
  all_goals first | decide +kernel | (dsimp only; decide +kernel)

theorem witness_VectorTensors_1 :
    (∃ (s : State) (b : BargeId) (r : SvcId) (desc : DescId) (v : VReg) (o : SReg) (lm1 : Fin 128) (ws : List Word), let g := s.barge[b]; let d := readDesc g desc; let k := d.org0 + g.sregs[o].toNat; let row := rowAddr d 0 0 0; svcOfBarge s.barge[b] = some r ∧
      d.part = false ∧
      d.sp = false ∧
      d.space ≠ 3 ∧
      d.fmt ≤ 0xA ∧
      issues s b (.vld b desc v o lm1) = true ∧
      inReach s b (.vld b desc v o lm1) = true ∧
      loadLanes s g d 0 0 0 k (lm1.val + 1) = some ws) ∧
    (∃ (s : State) (b : BargeId) (r : SvcId) (desc : DescId) (v : VReg) (o : SReg) (lm1 : Fin 128) (ws : List Word), let g := s.barge[b]; let d := readDesc g desc; let k := d.org0 + g.sregs[o].toNat; let row := rowAddr d 0 0 0; svcOfBarge s.barge[b] = some r ∧
      d.part = false ∧
      d.sp = false ∧
      d.space ≠ 3 ∧
      d.fmt ≤ 0xA ∧
      issues s b (.vld b desc v o lm1) = true ∧
      inReach s b (.vld b desc v o lm1) = true ∧
      loadLanes s g d 0 0 0 k (lm1.val + 1) = some ws) ∧
    (∃ (s : State) (b : BargeId) (r : SvcId) (desc : DescId) (v : VReg) (o : SReg) (lm1 : Fin 128) (ws : List Word), let g := s.barge[b]; let d := readDesc g desc; let k := d.org0 + g.sregs[o].toNat; let row := rowAddr d 0 0 0; svcOfBarge s.barge[b] = some r ∧
      d.part = false ∧
      d.sp = false ∧
      d.space ≠ 3 ∧
      d.fmt ≤ 0xA ∧
      issues s b (.vld b desc v o lm1) = true ∧
      inReach s b (.vld b desc v o lm1) = true ∧
      loadLanes s g d 0 0 0 k (lm1.val + 1) = some ws) ∧
    (∃ (s : State) (b : BargeId) (r : SvcId) (desc : DescId) (v : VReg) (o : SReg) (lm1 : Fin 128), let g := s.barge[b]; let d := readDesc g desc; let k := d.org0 + g.sregs[o].toNat; let row := rowAddr d 0 0 0; svcOfBarge s.barge[b] = some r ∧
      d.part = false ∧
      d.sp = false ∧
      d.space ≠ 3 ∧
      d.fmt ≤ 0xA ∧
      issues s b (.vld b desc v o lm1) = true ∧
      d.space = 2 ∧
      g.operandsIn = false ∧
      g.moves = [] ∧
      (tensorsRead g (.vld b desc v o lm1)).all (rangeOk s g false) = true) ∧
    (∃ (s : State) (b : BargeId) (r : SvcId) (desc : DescId) (v : VReg) (o : SReg) (lm1 : Fin 128), let g := s.barge[b]; let d := readDesc g desc; let k := d.org0 + g.sregs[o].toNat; let row := rowAddr d 0 0 0; svcOfBarge s.barge[b] = some r ∧
      d.part = false ∧
      d.sp = false ∧
      d.space ≠ 3 ∧
      d.fmt ≤ 0xA ∧
      issues s b (.vst b desc v o lm1) = true ∧
      inReach s b (.vst b desc v o lm1) = true ∧
      d.bs = false) ∧
    (∃ (s : State) (b : BargeId) (r : SvcId) (desc : DescId) (v : VReg) (o : SReg) (lm1 : Fin 128), let g := s.barge[b]; let d := readDesc g desc; let k := d.org0 + g.sregs[o].toNat; let row := rowAddr d 0 0 0; svcOfBarge s.barge[b] = some r ∧
      d.part = false ∧
      d.sp = false ∧
      d.space ≠ 3 ∧
      d.fmt ≤ 0xA ∧
      issues s b (.vst b desc v o lm1) = true ∧
      inReach s b (.vst b desc v o lm1) = true ∧
      d.bs = false) := by
  refine ⟨⟨sees (.vld 3 0 2 0 3) (withDescs [tdesc 0 0xA 0 16 2 0x1000 0, tdesc 0 0x14 0 128 1 0x2000 0x3000, tdesc 1 0xA 0 16 2 0 0, tdesc 6 0xA 0 16 2 0 0, tdesc 0 0x4A 1 1 1 0x1400 0, tdesc 1 0x14 0 128 1 0x2000 0x3000, tdesc 6 0x14 0 128 1 0 0x800, tdesc 1 8 0 16 2 0x40 0, tdesc 0 0x4A 2 1 1 0x1400 0] (onB3 (fun g => { g with spad := memPut g.spad 0x1000 [0, 0, 0x80, 0x3F], sregs := put g.sregs 5 2 }) (sailing.onReach 0 fun x => { x with pkg := some package }))), 3, 0, 0, 2, 0, 3, [0x3F800000, 0, 0, 0], ?_⟩,
    ⟨sees (.vld 3 2 2 0 3) (withDescs [tdesc 0 0xA 0 16 2 0x1000 0, tdesc 0 0x14 0 128 1 0x2000 0x3000, tdesc 1 0xA 0 16 2 0 0, tdesc 6 0xA 0 16 2 0 0, tdesc 0 0x4A 1 1 1 0x1400 0, tdesc 1 0x14 0 128 1 0x2000 0x3000, tdesc 6 0x14 0 128 1 0 0x800, tdesc 1 8 0 16 2 0x40 0, tdesc 0 0x4A 2 1 1 0x1400 0] (onB3 (fun g => { g with spad := memPut g.spad 0x1000 [0, 0, 0x80, 0x3F], sregs := put g.sregs 5 2 }) (sailing.onReach 0 fun x => { x with pkg := some package }))), 3, 0, 2, 2, 0, 3, [0, 0, 0, 0], ?_⟩,
    ⟨sees (.vld 3 3 2 0 3) (onB3 (fun g => { g with operandsIn := true, operands := memPut [] (operandKey 0 0) [0, 0, 0x80, 0x3F] }) (withDescs [tdesc 0 0xA 0 16 2 0x1000 0, tdesc 0 0x14 0 128 1 0x2000 0x3000, tdesc 1 0xA 0 16 2 0 0, tdesc 2 0xA 0 16 2 0 0, tdesc 0 0x4A 1 1 1 0x1400 0, tdesc 1 0x14 0 128 1 0x2000 0x3000, tdesc 6 0x14 0 128 1 0 0x800, tdesc 1 8 0 16 2 0x40 0, tdesc 0 0x4A 2 1 1 0x1400 0] (onB3 (fun g => { g with spad := memPut g.spad 0x1000 [0, 0, 0x80, 0x3F], sregs := put g.sregs 5 2 }) (sailing.onReach 0 fun x => { x with pkg := some package })))), 3, 0, 3, 2, 0, 3, [0x3F800000, 0, 0, 0], ?_⟩,
    ⟨sees (.vld 3 3 2 0 3) (withDescs [tdesc 0 0xA 0 16 2 0x1000 0, tdesc 0 0x14 0 128 1 0x2000 0x3000, tdesc 1 0xA 0 16 2 0 0, tdesc 2 0xA 0 16 2 0 0, tdesc 0 0x4A 1 1 1 0x1400 0, tdesc 1 0x14 0 128 1 0x2000 0x3000, tdesc 6 0x14 0 128 1 0 0x800, tdesc 1 8 0 16 2 0x40 0, tdesc 0 0x4A 2 1 1 0x1400 0] (onB3 (fun g => { g with spad := memPut g.spad 0x1000 [0, 0, 0x80, 0x3F], sregs := put g.sregs 5 2 }) (sailing.onReach 0 fun x => { x with pkg := some package }))), 3, 0, 3, 2, 0, 3, ?_⟩,
    ⟨sees (.vst 3 0 2 0 3) (withDescs [tdesc 0 0xA 0 16 2 0x1000 0, tdesc 0 0x14 0 128 1 0x2000 0x3000, tdesc 1 0xA 0 16 2 0 0, tdesc 6 0xA 0 16 2 0 0, tdesc 0 0x4A 1 1 1 0x1400 0, tdesc 1 0x14 0 128 1 0x2000 0x3000, tdesc 6 0x14 0 128 1 0 0x800, tdesc 1 8 0 16 2 0x40 0, tdesc 0 0x4A 2 1 1 0x1400 0] (onB3 (fun g => { g with spad := memPut g.spad 0x1000 [0, 0, 0x80, 0x3F], sregs := put g.sregs 5 2 }) (sailing.onReach 0 fun x => { x with pkg := some package }))), 3, 0, 0, 2, 0, 3, ?_⟩,
    ⟨sees (.vst 3 2 2 0 3) (withDescs [tdesc 0 0xA 0 16 2 0x1000 0, tdesc 0 0x14 0 128 1 0x2000 0x3000, tdesc 1 0xA 0 16 2 0 0, tdesc 6 0xA 0 16 2 0 0, tdesc 0 0x4A 1 1 1 0x1400 0, tdesc 1 0x14 0 128 1 0x2000 0x3000, tdesc 6 0x14 0 128 1 0 0x800, tdesc 1 8 0 16 2 0x40 0, tdesc 0 0x4A 2 1 1 0x1400 0] (onB3 (fun g => { g with spad := memPut g.spad 0x1000 [0, 0, 0x80, 0x3F], sregs := put g.sregs 5 2 }) (sailing.onReach 0 fun x => { x with pkg := some package }))), 3, 0, 2, 2, 0, 3, ?_⟩⟩
  all_goals first | decide +kernel | (dsimp only; decide +kernel)

theorem witness_VectorTensors_2 :
    (∃ (s : State) (b : BargeId) (r : SvcId) (desc : DescId) (v : VReg) (o : SReg) (lm1 : Fin 128), let g := s.barge[b]; let d := readDesc g desc; let k := d.org0 + g.sregs[o].toNat; let row := rowAddr d 0 0 0; svcOfBarge s.barge[b] = some r ∧
      d.part = false ∧
      d.sp = false ∧
      d.space ≠ 3 ∧
      d.fmt ≤ 0xA ∧
      issues s b (.vst b desc v o lm1) = true ∧
      inReach s b (.vst b desc v o lm1) = true ∧
      d.bs = false) ∧
    (∃ (s : State) (b : BargeId) (r : SvcId) (desc : DescId) (v : VReg) (o : SReg) (lm1 : Fin 128), let g := s.barge[b]; let d := readDesc g desc; let k := d.org0 + g.sregs[o].toNat; let row := rowAddr d 0 0 0; svcOfBarge s.barge[b] = some r ∧
      d.part = false ∧
      d.sp = false ∧
      d.space ≠ 3 ∧
      d.fmt ≤ 0xA ∧
      issues s b (.vst b desc v o lm1) = true ∧
      inReach s b (.vst b desc v o lm1) = true ∧
      d.bs = false) ∧
    (∃ (s : State) (b : BargeId) (r : SvcId) (desc : DescId) (v : VReg) (o : SReg), let g := s.barge[b]; let d := readDesc g desc; let k := d.org0 + g.sregs[o].toNat; let row := rowAddr d 0 0 0; svcOfBarge s.barge[b] = some r ∧
      d.part = false ∧
      d.sp = false ∧
      d.space ≠ 3 ∧
      d.fmt ≤ 0xA ∧
      issues s b (.vqst b desc v o) = true ∧
      inReach s b (.vqst b desc v o) = true ∧
      d.bs = true ∧
      g.sregs[o].toNat % 32 = 0 ∧
      d.org0 % 32 = 0) ∧
    (∃ (s : State) (b : BargeId) (r : SvcId) (desc : DescId) (v : VReg) (o : SReg), let g := s.barge[b]; let d := readDesc g desc; let k := d.org0 + g.sregs[o].toNat; let row := rowAddr d 0 0 0; svcOfBarge s.barge[b] = some r ∧
      d.part = false ∧
      d.sp = false ∧
      d.space ≠ 3 ∧
      d.fmt ≤ 0xA ∧
      issues s b (.vqst b desc v o) = true ∧
      inReach s b (.vqst b desc v o) = true ∧
      d.bs = true ∧
      g.sregs[o].toNat % 32 = 0 ∧
      d.org0 % 32 = 0) ∧
    (∃ (s : State) (b : BargeId) (r : SvcId) (desc : DescId) (v : VReg) (o : SReg), let g := s.barge[b]; let d := readDesc g desc; let k := d.org0 + g.sregs[o].toNat; let row := rowAddr d 0 0 0; svcOfBarge s.barge[b] = some r ∧
      d.part = false ∧
      d.sp = false ∧
      d.space ≠ 3 ∧
      d.fmt ≤ 0xA ∧
      issues s b (.vqst b desc v o) = true ∧
      inReach s b (.vqst b desc v o) = true ∧
      d.bs = true ∧
      g.sregs[o].toNat % 32 = 0 ∧
      d.org0 % 32 = 0) ∧
    (∃ (s : State) (b : BargeId) (r : SvcId) (desc : DescId) (v : VReg) (o : SReg) (kind : RedKind) (n : SReg) (depth : Fin 8) (p : Fin 32) (pd : DescId) (lo : Nat) (len : Nat) (ws : List Word), let g := s.barge[b]; let d := readDesc g desc; let k := d.org0 + g.sregs[o].toNat; let row := rowAddr d 0 0 0; let e := readDesc g pd; svcOfBarge s.barge[b] = some r ∧
      d.part = false ∧
      d.sp = false ∧
      d.space ≠ 3 ∧
      d.fmt ≤ 0xA ∧
      issues s b (.vred b desc v kind n depth p pd) = true ∧
      (depth ≠ 0 → resultOk e depth.val p.val = true ∧
      e.sp = false ∧
      e.space < 2 ∧
      (e.space = 1 → (unitsOf s r).Nodup)) ∧
      (parts depth.val 0 g.sregs[n].toNat)[if depth = 0 then 0 else p.val]? = some (lo, len) ∧
      0 < len ∧
      inReach s b (.vred b desc v kind n depth p pd) = true ∧
      loadLanes s g d 0 0 0 (d.org0 + lo) len = some ws) := by
  refine ⟨⟨sees (.vst 3 7 2 0 3) (withDescs [tdesc 0 0xA 0 16 2 0x1000 0, tdesc 0 0x14 0 128 1 0x2000 0x3000, tdesc 1 0xA 0 16 2 0 0, tdesc 6 0xA 0 16 2 0 0, tdesc 0 0x4A 1 1 1 0x1400 0, tdesc 1 0x14 0 128 1 0x2000 0x3000, tdesc 6 0x14 0 128 1 0 0x800, tdesc 1 8 0 16 2 0x40 0, tdesc 0 0x4A 2 1 1 0x1400 0] (onB3 (fun g => { g with spad := memPut g.spad 0x1000 [0, 0, 0x80, 0x3F], sregs := put g.sregs 5 2 }) (sailing.onReach 0 fun x => { x with pkg := some package }))), 3, 0, 7, 2, 0, 3, ?_⟩,
    ⟨sees (.vst 3 3 2 0 3) (withDescs [tdesc 0 0xA 0 16 2 0x1000 0, tdesc 0 0x14 0 128 1 0x2000 0x3000, tdesc 1 0xA 0 16 2 0 0, tdesc 6 0xA 0 16 2 0 0, tdesc 0 0x4A 1 1 1 0x1400 0, tdesc 1 0x14 0 128 1 0x2000 0x3000, tdesc 6 0x14 0 128 1 0 0x800, tdesc 1 8 0 16 2 0x40 0, tdesc 0 0x4A 2 1 1 0x1400 0] (onB3 (fun g => { g with spad := memPut g.spad 0x1000 [0, 0, 0x80, 0x3F], sregs := put g.sregs 5 2 }) (sailing.onReach 0 fun x => { x with pkg := some package }))), 3, 0, 3, 2, 0, 3, ?_⟩,
    ⟨sees (.vqst 3 1 2 0) (withDescs [tdesc 0 0xA 0 16 2 0x1000 0, tdesc 0 0x14 0 128 1 0x2000 0x3000, tdesc 1 0xA 0 16 2 0 0, tdesc 6 0xA 0 16 2 0 0, tdesc 0 0x4A 1 1 1 0x1400 0, tdesc 1 0x14 0 128 1 0x2000 0x3000, tdesc 6 0x14 0 128 1 0 0x800, tdesc 1 8 0 16 2 0x40 0, tdesc 0 0x4A 2 1 1 0x1400 0] (onB3 (fun g => { g with spad := memPut g.spad 0x1000 [0, 0, 0x80, 0x3F], sregs := put g.sregs 5 2 }) (sailing.onReach 0 fun x => { x with pkg := some package }))), 3, 0, 1, 2, 0, ?_⟩,
    ⟨sees (.vqst 3 5 2 0) (withDescs [tdesc 0 0xA 0 16 2 0x1000 0, tdesc 0 0x14 0 128 1 0x2000 0x3000, tdesc 1 0xA 0 16 2 0 0, tdesc 6 0xA 0 16 2 0 0, tdesc 0 0x4A 1 1 1 0x1400 0, tdesc 1 0x14 0 128 1 0x2000 0x3000, tdesc 6 0x14 0 128 1 0 0x800, tdesc 1 8 0 16 2 0x40 0, tdesc 0 0x4A 2 1 1 0x1400 0] (onB3 (fun g => { g with spad := memPut g.spad 0x1000 [0, 0, 0x80, 0x3F], sregs := put g.sregs 5 2 }) (sailing.onReach 0 fun x => { x with pkg := some package }))), 3, 0, 5, 2, 0, ?_⟩,
    ⟨sees (.vqst 3 6 2 0) (withDescs [tdesc 0 0xA 0 16 2 0x1000 0, tdesc 0 0x14 0 128 1 0x2000 0x3000, tdesc 1 0xA 0 16 2 0 0, tdesc 6 0xA 0 16 2 0 0, tdesc 0 0x4A 1 1 1 0x1400 0, tdesc 1 0x14 0 128 1 0x2000 0x3000, tdesc 6 0x14 0 128 1 0 0x800, tdesc 1 8 0 16 2 0x40 0, tdesc 0 0x4A 2 1 1 0x1400 0] (onB3 (fun g => { g with spad := memPut g.spad 0x1000 [0, 0, 0x80, 0x3F], sregs := put g.sregs 5 2 }) (sailing.onReach 0 fun x => { x with pkg := some package }))), 3, 0, 6, 2, 0, ?_⟩,
    ⟨sees (.vred 3 0 2 .sum 5 0 0 0) (withDescs [tdesc 0 0xA 0 16 2 0x1000 0, tdesc 0 0x14 0 128 1 0x2000 0x3000, tdesc 1 0xA 0 16 2 0 0, tdesc 6 0xA 0 16 2 0 0, tdesc 0 0x4A 1 1 1 0x1400 0, tdesc 1 0x14 0 128 1 0x2000 0x3000, tdesc 6 0x14 0 128 1 0 0x800, tdesc 1 8 0 16 2 0x40 0, tdesc 0 0x4A 2 1 1 0x1400 0] (onB3 (fun g => { g with spad := memPut g.spad 0x1000 [0, 0, 0x80, 0x3F], sregs := put g.sregs 5 2 }) (sailing.onReach 0 fun x => { x with pkg := some package }))), 3, 0, 0, 2, 0, .sum, 5, 0, 0, 0, 0, 2, [0x3F800000, 0], ?_⟩⟩
  all_goals first | decide +kernel | (dsimp only; decide +kernel)

theorem witness_VectorTensors_3 :
    (∃ (s : State) (b : BargeId) (r : SvcId) (desc : DescId) (v : VReg) (o : SReg) (kind : RedKind) (n : SReg) (depth : Fin 8) (p : Fin 32) (pd : DescId) (lo : Nat) (len : Nat) (ws : List Word), let g := s.barge[b]; let d := readDesc g desc; let k := d.org0 + g.sregs[o].toNat; let row := rowAddr d 0 0 0; let e := readDesc g pd; svcOfBarge s.barge[b] = some r ∧
      d.part = false ∧
      d.sp = false ∧
      d.space ≠ 3 ∧
      d.fmt ≤ 0xA ∧
      issues s b (.vred b desc v kind n depth p pd) = true ∧
      (depth ≠ 0 → resultOk e depth.val p.val = true ∧
      e.sp = false ∧
      e.space < 2 ∧
      (e.space = 1 → (unitsOf s r).Nodup)) ∧
      (parts depth.val 0 g.sregs[n].toNat)[if depth = 0 then 0 else p.val]? = some (lo, len) ∧
      0 < len ∧
      inReach s b (.vred b desc v kind n depth p pd) = true ∧
      loadLanes s g d 0 0 0 (d.org0 + lo) len = some ws) ∧
    (∃ (s : State) (b : BargeId) (r : SvcId) (desc : DescId) (v : VReg) (o : SReg) (kind : RedKind) (n : SReg) (depth : Fin 8) (p : Fin 32) (pd : DescId), let g := s.barge[b]; let d := readDesc g desc; let k := d.org0 + g.sregs[o].toNat; let row := rowAddr d 0 0 0; let e := readDesc g pd; svcOfBarge s.barge[b] = some r ∧
      d.part = false ∧
      d.sp = false ∧
      d.space ≠ 3 ∧
      d.fmt ≤ 0xA ∧
      issues s b (.vred b desc v kind n depth p pd) = true ∧
      (depth ≠ 0 → resultOk e depth.val p.val = true ∧
      e.sp = false ∧
      e.space < 2 ∧
      (e.space = 1 → (unitsOf s r).Nodup)) ∧
      (parts depth.val 0 g.sregs[n].toNat)[if depth = 0 then 0 else p.val]? = none) := by
  refine ⟨⟨sees (.vred 3 0 2 .max 5 1 1 4) (withDescs [tdesc 0 0xA 0 16 2 0x1000 0, tdesc 0 0x14 0 128 1 0x2000 0x3000, tdesc 1 0xA 0 16 2 0 0, tdesc 6 0xA 0 16 2 0 0, tdesc 0 0x4A 1 1 1 0x1400 0, tdesc 1 0x14 0 128 1 0x2000 0x3000, tdesc 6 0x14 0 128 1 0 0x800, tdesc 1 8 0 16 2 0x40 0, tdesc 0 0x4A 2 1 1 0x1400 0] (onB3 (fun g => { g with spad := memPut g.spad 0x1000 [0, 0, 0x80, 0x3F], sregs := put g.sregs 5 2 }) (sailing.onReach 0 fun x => { x with pkg := some package }))), 3, 0, 0, 2, 0, .max, 5, 1, 1, 4, 1, 1, [0], ?_⟩,
    ⟨sees (.vred 3 0 2 .max 5 2 3 8) (withDescs [tdesc 0 0xA 0 16 2 0x1000 0, tdesc 0 0x14 0 128 1 0x2000 0x3000, tdesc 1 0xA 0 16 2 0 0, tdesc 6 0xA 0 16 2 0 0, tdesc 0 0x4A 1 1 1 0x1400 0, tdesc 1 0x14 0 128 1 0x2000 0x3000, tdesc 6 0x14 0 128 1 0 0x800, tdesc 1 8 0 16 2 0x40 0, tdesc 0 0x4A 2 1 1 0x1400 0] (onB3 (fun g => { g with spad := memPut g.spad 0x1000 [0, 0, 0x80, 0x3F], sregs := put g.sregs 5 2 }) (sailing.onReach 0 fun x => { x with pkg := some package }))), 3, 0, 0, 2, 0, .max, 5, 2, 3, 8, ?_⟩⟩
  all_goals first | decide +kernel | (dsimp only; decide +kernel)

theorem witness_TilesAndJoins :
    (∃ (s : State) (b : BargeId) (dst : DescId) (srcA : DescId) (srcB : DescId) (mm1 : Fin 64) (nm1 : Fin 64) (kr : SReg) (depth : Fin 8) (part : Fin 32) (slot : Nat) (lo : Nat) (len : Nat) (ta : List TileRow) (tb : List TileRow), let g := s.barge[b]; let i : Instr := .mma b dst srcA srcB mm1 nm1 kr depth part; let d := readDesc g dst; let x := readDesc g srcA; let y := readDesc g srcB; let k := g.sregs[kr].toNat; let narrow := isNarrow x.fmt; issues s b i = true ∧
      matrixOk d x y depth.val part.val = true ∧
      slot = (if depth = 0 then 0 else part.val) ∧
      (parts depth.val 0 (if narrow then (k + 31) / 32 else k))[slot]? = some (lo, len) ∧
      0 < len ∧
      len ≤ 511 ∧
      inReach s b i = true ∧
      d.sp = false ∧
      4 * (nm1.val + 1) ≤ d.stride1 ∧
      readTile s g x (mm1.val + 1) (if narrow then 32 * lo else lo) (if narrow then min (32 * (lo + len)) k else lo + len) = some ta ∧
      readTile s g y (nm1.val + 1) (if narrow then 32 * lo else lo) (if narrow then min (32 * (lo + len)) k else lo + len) = some tb) ∧
    (∃ (s : State) (b : BargeId) (dst : DescId) (srcA : DescId) (srcB : DescId) (mm1 : Fin 64) (nm1 : Fin 64) (kr : SReg) (depth : Fin 8) (part : Fin 32) (slot : Nat) (lo : Nat) (len : Nat) (ta : List TileRow) (tb : List TileRow), let g := s.barge[b]; let i : Instr := .mma b dst srcA srcB mm1 nm1 kr depth part; let d := readDesc g dst; let x := readDesc g srcA; let y := readDesc g srcB; let k := g.sregs[kr].toNat; let narrow := isNarrow x.fmt; issues s b i = true ∧
      matrixOk d x y depth.val part.val = true ∧
      slot = (if depth = 0 then 0 else part.val) ∧
      (parts depth.val 0 (if narrow then (k + 31) / 32 else k))[slot]? = some (lo, len) ∧
      0 < len ∧
      len ≤ 511 ∧
      inReach s b i = true ∧
      d.sp = false ∧
      4 * (nm1.val + 1) ≤ d.stride1 ∧
      readTile s g x (mm1.val + 1) (if narrow then 32 * lo else lo) (if narrow then min (32 * (lo + len)) k else lo + len) = some ta ∧
      readTile s g y (nm1.val + 1) (if narrow then 32 * lo else lo) (if narrow then min (32 * (lo + len)) k else lo + len) = some tb) ∧
    (∃ (s : State) (b : BargeId) (dst : DescId) (srcA : DescId) (srcB : DescId) (mm1 : Fin 64) (nm1 : Fin 64) (kr : SReg) (depth : Fin 8) (part : Fin 32) (slot : Nat), let g := s.barge[b]; let i : Instr := .mma b dst srcA srcB mm1 nm1 kr depth part; let d := readDesc g dst; let x := readDesc g srcA; let y := readDesc g srcB; let k := g.sregs[kr].toNat; let narrow := isNarrow x.fmt; issues s b i = true ∧
      matrixOk d x y depth.val part.val = true ∧
      slot = (if depth = 0 then 0 else part.val) ∧
      (parts depth.val 0 (if narrow then (k + 31) / 32 else k))[slot]? = none) ∧
    (∃ (s : State) (b : BargeId) (r : SvcId) (dst : DescId) (src : DescId) (nr : SReg) (depth : Fin 8), let g := s.barge[b]; let i : Instr := .vjoin b dst src nr depth; let d := readDesc g dst; let x := readDesc g src; let n := g.sregs[nr].toNat; issues s b i = true ∧
      inReach s b i = true ∧
      (d.space = 1 → (unitsOf s r).Nodup) ∧
      (∀ i1 < x.dim1, ∀ i2 < x.dim2, (joinRow s g x depth.val n (parts depth.val 0 n).length i1 i2).isSome = true) ∧
      (∀ i1 < x.dim1, ∀ i2 < x.dim2, ∀ j1 < x.dim1, ∀ j2 < x.dim2, (i1, i2) ≠ (j1, j2) → apart (rowAddr d i1 i2 0, 4 * x.dim0) (rowAddr d j1 j2 0, 4 * x.dim0) = true) ∧
      svcOfBarge g = some r ∧
      x.part = true ∧
      x.pdepth = depth.val ∧
      x.fmt = 0xA ∧
      d.part = false ∧
      d.fmt = 0xA ∧
      d.sp = false ∧
      x.space ≠ 3 ∧
      d.space < 2 ∧
      0 < n ∧
      0 < x.dim0) ∧
    (∃ (s : State) (b : BargeId) (r : SvcId) (dst : DescId) (src : DescId) (nr : SReg) (depth : Fin 8), let g := s.barge[b]; let i : Instr := .vjoin b dst src nr depth; let d := readDesc g dst; let x := readDesc g src; let n := g.sregs[nr].toNat; issues s b i = true ∧
      inReach s b i = true ∧
      (d.space = 1 → (unitsOf s r).Nodup) ∧
      (∀ i1 < x.dim1, ∀ i2 < x.dim2, (joinRow s g x depth.val n (parts depth.val 0 n).length i1 i2).isSome = true) ∧
      (∀ i1 < x.dim1, ∀ i2 < x.dim2, ∀ j1 < x.dim1, ∀ j2 < x.dim2, (i1, i2) ≠ (j1, j2) → apart (rowAddr d i1 i2 0, 4 * x.dim0) (rowAddr d j1 j2 0, 4 * x.dim0) = true) ∧
      svcOfBarge g = some r ∧
      x.part = true ∧
      x.pdepth = depth.val ∧
      x.fmt = 0xA ∧
      d.part = false ∧
      d.fmt = 0xA ∧
      d.sp = false ∧
      x.space ≠ 3 ∧
      d.space < 2 ∧
      0 < n ∧
      0 < x.dim0) ∧
    (∃ (s : State) (b : BargeId) (pd : DescId) (idd : DescId) (nr : SReg) (d : SReg) (va : VReg) (greedy : Bool) (ps : List Nat) (is : List Nat) (id : Word), let g := s.barge[b]; let i : Instr := .vsel b pd idd nr va d greedy; let p := readDesc g pd; let q := readDesc g idd; let n := g.sregs[nr].toNat; issues s b i = true ∧
      inReach s b i = true ∧
      p.fmt = 0xA ∧
      p.part = false ∧
      p.space ≠ 3 ∧
      q.fmt = 0xA ∧
      q.part = false ∧
      q.space ≠ 3 ∧
      0 < n ∧
      n ≤ p.dim0 ∧
      n ≤ q.dim0 ∧
      readCodes s g p (rowAddr p 0 0 0) p.org0 n = some ps ∧
      readCodes s g q (rowAddr q 0 0 0) q.org0 n = some is ∧
      selectToken (List.zipWith (fun x y => (BitVec.ofNat 32 x, BitVec.ofNat 32 y)) ps is) (g.vregs[va][(0 : Fin 128)]) greedy = some id) := by
  refine ⟨⟨sees (.mma 3 5 4 4 0 0 5 0 0) (withDescs [tdesc 0 0xA 0 1 1 0x1000 0, tdesc 0 0x4A 1 1 1 0x1400 0, tdesc 0 0xA 0 2 1 0x1800 0, tdesc 0 0xA 0 2 1 0x1C00 0, tdesc 0 8 0 2 1 0x2000 0, tdesc 0 0xA 0 1 1 0x2400 0, tdesc 1 0xA 0 1 1 0x100 0, tdesc 0 0x4A 2 1 1 0x1400 0] (onB3 (fun g => { g with spad := memPut (memPut g.spad 0x1800 (leBytes 4 0x3F000000)) 0x1C00 (leBytes 4 7), sregs := put g.sregs 5 2 }) sailing)), 3, 5, 4, 4, 0, 0, 5, 0, 0, 0, 0, 2, [{ vals := [.fin false 0 (-133), .fin false 0 (-133)], scales := [127], sparse := none }], [{ vals := [.fin false 0 (-133), .fin false 0 (-133)], scales := [127], sparse := none }], ?_⟩,
    ⟨sees (.mma 3 1 4 4 0 0 5 1 1) (withDescs [tdesc 0 0xA 0 1 1 0x1000 0, tdesc 0 0x4A 1 1 1 0x1400 0, tdesc 0 0xA 0 2 1 0x1800 0, tdesc 0 0xA 0 2 1 0x1C00 0, tdesc 0 8 0 2 1 0x2000 0, tdesc 0 0xA 0 1 1 0x2400 0, tdesc 1 0xA 0 1 1 0x100 0, tdesc 0 0x4A 2 1 1 0x1400 0] (onB3 (fun g => { g with spad := memPut (memPut g.spad 0x1800 (leBytes 4 0x3F000000)) 0x1C00 (leBytes 4 7), sregs := put g.sregs 5 2 }) sailing)), 3, 1, 4, 4, 0, 0, 5, 1, 1, 1, 1, 1, [{ vals := [.fin false 0 (-133)], scales := [127], sparse := none }], [{ vals := [.fin false 0 (-133)], scales := [127], sparse := none }], ?_⟩,
    ⟨sees (.mma 3 7 4 4 0 0 5 2 3) (withDescs [tdesc 0 0xA 0 1 1 0x1000 0, tdesc 0 0x4A 1 1 1 0x1400 0, tdesc 0 0xA 0 2 1 0x1800 0, tdesc 0 0xA 0 2 1 0x1C00 0, tdesc 0 8 0 2 1 0x2000 0, tdesc 0 0xA 0 1 1 0x2400 0, tdesc 1 0xA 0 1 1 0x100 0, tdesc 0 0x4A 2 1 1 0x1400 0] (onB3 (fun g => { g with spad := memPut (memPut g.spad 0x1800 (leBytes 4 0x3F000000)) 0x1C00 (leBytes 4 7), sregs := put g.sregs 5 2 }) sailing)), 3, 7, 4, 4, 0, 0, 5, 2, 3, 3, ?_⟩,
    ⟨sees (.vjoin 3 0 1 5 1) (withDescs [tdesc 0 0xA 0 1 1 0x1000 0, tdesc 0 0x4A 1 1 1 0x1400 0, tdesc 0 0xA 0 2 1 0x1800 0, tdesc 0 0xA 0 2 1 0x1C00 0, tdesc 0 8 0 2 1 0x2000 0, tdesc 0 0xA 0 1 1 0x2400 0, tdesc 1 0xA 0 1 1 0x100 0, tdesc 0 0x4A 2 1 1 0x1400 0] (onB3 (fun g => { g with spad := memPut (memPut g.spad 0x1800 (leBytes 4 0x3F000000)) 0x1C00 (leBytes 4 7), sregs := put g.sregs 5 2 }) sailing)), 3, 0, 0, 1, 5, 1, by decide +kernel, by decide +kernel, by decide +kernel, by decide +kernel, by decide +kernel, ?_⟩,
    ⟨sees (.vjoin 3 6 1 5 1) (withDescs [tdesc 0 0xA 0 1 1 0x1000 0, tdesc 0 0x4A 1 1 1 0x1400 0, tdesc 0 0xA 0 2 1 0x1800 0, tdesc 0 0xA 0 2 1 0x1C00 0, tdesc 0 8 0 2 1 0x2000 0, tdesc 0 0xA 0 1 1 0x2400 0, tdesc 1 0xA 0 1 1 0x100 0, tdesc 0 0x4A 2 1 1 0x1400 0] (onB3 (fun g => { g with spad := memPut (memPut g.spad 0x1800 (leBytes 4 0x3F000000)) 0x1C00 (leBytes 4 7), sregs := put g.sregs 5 2 }) sailing)), 3, 0, 6, 1, 5, 1, by decide +kernel, by decide +kernel, by decide +kernel, by decide +kernel, by decide +kernel, ?_⟩,
    ⟨sees (.vsel 3 2 3 5 0 6 true) (withDescs [tdesc 0 0xA 0 1 1 0x1000 0, tdesc 0 0x4A 1 1 1 0x1400 0, tdesc 0 0xA 0 2 1 0x1800 0, tdesc 0 0xA 0 2 1 0x1C00 0, tdesc 0 8 0 2 1 0x2000 0, tdesc 0 0xA 0 1 1 0x2400 0, tdesc 1 0xA 0 1 1 0x100 0, tdesc 0 0x4A 2 1 1 0x1400 0] (onB3 (fun g => { g with spad := memPut (memPut g.spad 0x1800 (leBytes 4 0x3F000000)) 0x1C00 (leBytes 4 7), sregs := put g.sregs 5 2 }) sailing)), 3, 2, 3, 5, 6, 0, true, [0x3F000000, 0], [7, 0], 7, ?_⟩⟩
  all_goals first | decide +kernel | (dsimp only; decide +kernel)

theorem witness_Moves_1 :
    (∃ (s : State) (b : BargeId) (r : SvcId) (dst : DescId) (src : DescId) (tv : Bool) (cv : Bool) (tch : Fin 16) (cch : Fin 16), let g := s.barge[b]; let x := readDesc g src; let d := readDesc g dst; let planes := (rowsOf x).flatMap (rowPlanes x d); let tokens := if tv then upd g.tokens tch (· + 1) else g.tokens; let credits := if cv then upd g.credits cch (· - 1) else g.credits; svcOfBarge s.barge[b] = some r ∧
      issues s b (.mld b dst src tv tch cv cch) = true ∧
      moveOk x d = true ∧
      d.space = 0 ∧
      (x.space = 1 ∨ x.space = 2) ∧
      cv = true ∧
      g.credits[cch] = 0) ∧
    (∃ (s : State) (b : BargeId) (r : SvcId) (dst : DescId) (src : DescId) (tv : Bool) (cv : Bool) (tch : Fin 16) (cch : Fin 16), let g := s.barge[b]; let x := readDesc g src; let d := readDesc g dst; let planes := (rowsOf x).flatMap (rowPlanes x d); let tokens := if tv then upd g.tokens tch (· + 1) else g.tokens; let credits := if cv then upd g.credits cch (· - 1) else g.credits; svcOfBarge s.barge[b] = some r ∧
      issues s b (.mld b dst src tv tch cv cch) = true ∧
      moveOk x d = true ∧
      d.space = 0 ∧
      (x.space = 1 ∨ x.space = 2) ∧
      (cv = true → g.credits[cch] ≠ 0) ∧
      inReach s b (.mld b dst src tv tch cv cch) = true ∧
      (x.space = 1 ∨ byteRows x d = false) ∧
      planes.Pairwise (fun y z => apart y.span z.span = true) ∧
      (tv = true → g.tokens[tch] < 4095)) ∧
    (∃ (s : State) (b : BargeId) (r : SvcId) (dst : DescId) (src : DescId) (tv : Bool) (cv : Bool) (tch : Fin 16) (cch : Fin 16), let g := s.barge[b]; let x := readDesc g src; let d := readDesc g dst; let planes := (rowsOf x).flatMap (rowPlanes x d); let tokens := if tv then upd g.tokens tch (· + 1) else g.tokens; let credits := if cv then upd g.credits cch (· - 1) else g.credits; svcOfBarge s.barge[b] = some r ∧
      issues s b (.mld b dst src tv tch cv cch) = true ∧
      moveOk x d = true ∧
      d.space = 0 ∧
      (x.space = 1 ∨ x.space = 2) ∧
      (cv = true → g.credits[cch] ≠ 0) ∧
      inReach s b (.mld b dst src tv tch cv cch) = true ∧
      (x.space = 1 ∨ byteRows x d = false) ∧
      planes.Pairwise (fun y z => apart y.span z.span = true) ∧
      (tv = true → g.tokens[tch] < 4095)) ∧
    (∃ (s : State) (b : BargeId) (r : SvcId) (dst : DescId) (src : DescId) (tv : Bool) (cv : Bool) (tch : Fin 16) (cch : Fin 16), let g := s.barge[b]; let x := readDesc g src; let d := readDesc g dst; let planes := (rowsOf x).flatMap (rowPlanes x d); let tokens := if tv then upd g.tokens tch (· + 1) else g.tokens; let credits := if cv then upd g.credits cch (· - 1) else g.credits; svcOfBarge s.barge[b] = some r ∧
      issues s b (.mld b dst src tv tch cv cch) = true ∧
      moveOk x d = true ∧
      d.space = 0 ∧
      (x.space = 1 ∨ x.space = 2) ∧
      (cv = true → g.credits[cch] ≠ 0) ∧
      inReach s b (.mld b dst src tv tch cv cch) = true ∧
      (x.space = 1 ∨ byteRows x d = false) ∧
      planes.Pairwise (fun y z => apart y.span z.span = true) ∧
      (tv = true → g.tokens[tch] < 4095)) ∧
    (∃ (s : State) (b : BargeId) (r : SvcId) (dst : DescId) (src : DescId) (tv : Bool) (cv : Bool) (tch : Fin 16) (cch : Fin 16) (rg : Region), let g := s.barge[b]; let x := readDesc g src; let d := readDesc g dst; let planes := (rowsOf x).flatMap (rowPlanes x d); let tokens := if tv then upd g.tokens tch (· + 1) else g.tokens; let credits := if cv then upd g.credits cch (· - 1) else g.credits; svcOfBarge s.barge[b] = some r ∧
      issues s b (.mld b dst src tv tch cv cch) = true ∧
      moveOk x d = true ∧
      d.space = 0 ∧
      (x.space = 1 ∨ x.space = 2) ∧
      (cv = true → g.credits[cch] ≠ 0) ∧
      inReach s b (.mld b dst src tv tch cv cch) = true ∧
      x.space = 2 ∧
      byteRows x d = true ∧
      regionOf s r x.region = some rg ∧
      tensorPieces x d ≠ [] ∧
      (∀ p ∈ tensorPieces x d, p.1 + p.2.1 ≤ rg.size)) ∧
    (∃ (s : State) (b : BargeId) (r : SvcId) (dst : DescId) (src : DescId) (tv : Bool) (cv : Bool) (tch : Fin 16) (cch : Fin 16), let g := s.barge[b]; let x := readDesc g src; let d := readDesc g dst; let planes := (rowsOf x).flatMap (rowPlanes x d); let tokens := if tv then upd g.tokens tch (· + 1) else g.tokens; let credits := if cv then upd g.credits cch (· - 1) else g.credits; svcOfBarge s.barge[b] = some r ∧
      issues s b (.mst b dst src tv tch cv cch) = true ∧
      moveOk x d = true ∧
      x.space = 0 ∧
      (cv = true → g.credits[cch] ≠ 0) ∧
      inReach s b (.mst b dst src tv tch cv cch) = true ∧
      d.space = 1 ∧
      (unitsOf s r).Nodup ∧
      planes.Pairwise (fun y z => apart y.span z.span = true) ∧
      (tv = true → g.tokens[tch] < 4095)) := by
  refine ⟨⟨sees (.mld 3 0 1 true 2 true 0) (withDescs [tdesc 0 0xA 0 16 2 0x1000 0, tdesc 1 0xA 0 16 2 0x1000 0, tdesc 2 0xA 0 16 2 0 0, tdesc 6 0xA 0 16 2 0 0, tdesc 0 0x1 0 196 1 0x4000 0, (tdesc 1 0x1 0 1 14 0 0).set 20 14, (tdesc 2 0x1 0 1 14 0 0).set 20 14, tdesc 2 2 0 3 2 0 0, tdesc 0 2 0 3 2 0x1000 0, tdesc 1 0x14 0 32 2 0x1000 0x2000, tdesc 0 0x14 0 32 2 0x1000 0x3000] (onB3 (fun g => { g with spad := memPut g.spad 0x1000 [1, 2, 3], credits := put g.credits 3 1 }) (sailing.onReach 0 fun x => { x with pkg := some package }))), 3, 0, 0, 1, true, true, 2, 0, ?_⟩,
    ⟨sees (.mld 3 0 1 true 2 true 3) (withDescs [tdesc 0 0xA 0 16 2 0x1000 0, tdesc 1 0xA 0 16 2 0x1000 0, tdesc 2 0xA 0 16 2 0 0, tdesc 6 0xA 0 16 2 0 0, tdesc 0 0x1 0 196 1 0x4000 0, (tdesc 1 0x1 0 1 14 0 0).set 20 14, (tdesc 2 0x1 0 1 14 0 0).set 20 14, tdesc 2 2 0 3 2 0 0, tdesc 0 2 0 3 2 0x1000 0, tdesc 1 0x14 0 32 2 0x1000 0x2000, tdesc 0 0x14 0 32 2 0x1000 0x3000] (onB3 (fun g => { g with spad := memPut g.spad 0x1000 [1, 2, 3], credits := put g.credits 3 1 }) (sailing.onReach 0 fun x => { x with pkg := some package }))), 3, 0, 0, 1, true, true, 2, 3, ?_⟩,
    ⟨sees (.mld 3 10 9 false 2 false 3) (withDescs [tdesc 0 0xA 0 16 2 0x1000 0, tdesc 1 0xA 0 16 2 0x1000 0, tdesc 2 0xA 0 16 2 0 0, tdesc 6 0xA 0 16 2 0 0, tdesc 0 0x1 0 196 1 0x4000 0, (tdesc 1 0x1 0 1 14 0 0).set 20 14, (tdesc 2 0x1 0 1 14 0 0).set 20 14, tdesc 2 2 0 3 2 0 0, tdesc 0 2 0 3 2 0x1000 0, tdesc 1 0x14 0 32 2 0x1000 0x2000, tdesc 0 0x14 0 32 2 0x1000 0x3000] (onB3 (fun g => { g with spad := memPut g.spad 0x1000 [1, 2, 3], credits := put g.credits 3 1 }) (sailing.onReach 0 fun x => { x with pkg := some package }))), 3, 0, 10, 9, false, false, 2, 3, ?_⟩,
    ⟨sees (.mld 3 8 7 true 2 false 3) (onB3 (fun g => { g with operandsIn := true, operands := memPut [] (operandKey 0 0) [7, 7, 7] }) (withDescs [tdesc 0 0xA 0 16 2 0x1000 0, tdesc 1 0xA 0 16 2 0x1000 0, tdesc 2 0xA 0 16 2 0 0, tdesc 6 0xA 0 16 2 0 0, tdesc 0 0x1 0 196 1 0x4000 0, (tdesc 1 0x1 0 1 14 0 0).set 20 14, (tdesc 2 0x1 0 1 14 0 0).set 20 14, tdesc 2 2 0 3 2 0 0, tdesc 0 2 0 3 2 0x1000 0, tdesc 1 0x14 0 32 2 0x1000 0x2000, tdesc 0 0x14 0 32 2 0x1000 0x3000] (onB3 (fun g => { g with spad := memPut g.spad 0x1000 [1, 2, 3], credits := put g.credits 3 1 }) (sailing.onReach 0 fun x => { x with pkg := some package })))), 3, 0, 8, 7, true, false, 2, 3, ?_⟩,
    ⟨sees (.mld 3 0 2 true 2 false 0) (withDescs [tdesc 0 0xA 0 16 2 0x1000 0, tdesc 1 0xA 0 16 2 0x1000 0, tdesc 2 0xA 0 16 2 0 0, tdesc 6 0xA 0 16 2 0 0, tdesc 0 0x1 0 196 1 0x4000 0, (tdesc 1 0x1 0 1 14 0 0).set 20 14, (tdesc 2 0x1 0 1 14 0 0).set 20 14, tdesc 2 2 0 3 2 0 0, tdesc 0 2 0 3 2 0x1000 0, tdesc 1 0x14 0 32 2 0x1000 0x2000, tdesc 0 0x14 0 32 2 0x1000 0x3000] (onB3 (fun g => { g with spad := memPut g.spad 0x1000 [1, 2, 3], credits := put g.credits 3 1 }) (sailing.onReach 0 fun x => { x with pkg := some package }))), 3, 0, 0, 2, true, false, 2, 0, { weight := true, base := 0, size := 4096, tagBase := 0 }, ?_⟩,
    ⟨sees (.mst 3 1 0 true 2 true 3) (withDescs [tdesc 0 0xA 0 16 2 0x1000 0, tdesc 1 0xA 0 16 2 0x1000 0, tdesc 2 0xA 0 16 2 0 0, tdesc 6 0xA 0 16 2 0 0, tdesc 0 0x1 0 196 1 0x4000 0, (tdesc 1 0x1 0 1 14 0 0).set 20 14, (tdesc 2 0x1 0 1 14 0 0).set 20 14, tdesc 2 2 0 3 2 0 0, tdesc 0 2 0 3 2 0x1000 0, tdesc 1 0x14 0 32 2 0x1000 0x2000, tdesc 0 0x14 0 32 2 0x1000 0x3000] (onB3 (fun g => { g with spad := memPut g.spad 0x1000 [1, 2, 3], credits := put g.credits 3 1 }) (sailing.onReach 0 fun x => { x with pkg := some package }))), 3, 0, 1, 0, true, true, 2, 3, ?_⟩⟩
  all_goals first | decide +kernel | (dsimp only; decide +kernel)

theorem witness_Moves_2 :
    (∃ (s : State) (b : BargeId) (r : SvcId) (dst : DescId) (src : DescId) (tv : Bool) (cv : Bool) (tch : Fin 16) (cch : Fin 16), let g := s.barge[b]; let x := readDesc g src; let d := readDesc g dst; let planes := (rowsOf x).flatMap (rowPlanes x d); let tokens := if tv then upd g.tokens tch (· + 1) else g.tokens; let credits := if cv then upd g.credits cch (· - 1) else g.credits; svcOfBarge s.barge[b] = some r ∧
      issues s b (.mst b dst src tv tch cv cch) = true ∧
      moveOk x d = true ∧
      x.space = 0 ∧
      (cv = true → g.credits[cch] ≠ 0) ∧
      inReach s b (.mst b dst src tv tch cv cch) = true ∧
      d.space = 1 ∧
      (unitsOf s r).Nodup ∧
      planes.Pairwise (fun y z => apart y.span z.span = true) ∧
      (tv = true → g.tokens[tch] < 4095)) ∧
    (∃ (s : State) (b : BargeId) (r : SvcId) (dst : DescId) (src : DescId) (tv : Bool) (cv : Bool) (tch : Fin 16) (cch : Fin 16), let g := s.barge[b]; let x := readDesc g src; let d := readDesc g dst; let planes := (rowsOf x).flatMap (rowPlanes x d); let tokens := if tv then upd g.tokens tch (· + 1) else g.tokens; let credits := if cv then upd g.credits cch (· - 1) else g.credits; svcOfBarge s.barge[b] = some r ∧
      issues s b (.mst b dst src tv tch cv cch) = true ∧
      moveOk x d = true ∧
      x.space = 0 ∧
      (cv = true → g.credits[cch] ≠ 0) ∧
      inReach s b (.mst b dst src tv tch cv cch) = true ∧
      d.space = 2 ∧
      planes ≠ [] ∧
      0 < x.dim0) ∧
    (∃ (s : State) (b : BargeId) (r : SvcId) (dst : DescId) (src : DescId) (tv : Bool) (cv : Bool) (tch : Fin 16) (cch : Fin 16) (lb : Fin 32) (dest : BargeId) (e : Desc), let g := s.barge[b]; let x := readDesc g src; let d := readDesc g dst; let planes := (rowsOf x).flatMap (rowPlanes x d); let tokens := if tv then upd g.tokens tch (· + 1) else g.tokens; let credits := if cv then upd g.credits cch (· - 1) else g.credits; let ps := (rowsOf x).flatMap (rowPlanes x e); svcOfBarge s.barge[b] = some r ∧
      issues s b (.mxfr b dst src lb tv tch cv cch) = true ∧
      target s b lb.val = some dest ∧
      x.space = 0 ∧
      (cv = true → g.credits[cch] ≠ 0) ∧
      inReach s b (.mxfr b dst src lb tv tch cv cch) = true ∧
      e = readDesc s.barge[dest] dst ∧
      e.space = 0 ∧
      moveOk x e = true ∧
      (tensorRanges e x).all (rangeOk s s.barge[dest] true) = true ∧
      s.barge[dest].weak = [] ∧
      s.barge[dest].bad = [] ∧
      receives s dest = true ∧
      s.flight = [] ∧
      ps.Pairwise (fun y z => apart y.span z.span = true)) ∧
    (∃ (s : State) (b : BargeId) (r : SvcId) (dst : DescId) (src : DescId) (tv : Bool) (cv : Bool) (tch : Fin 16) (cch : Fin 16) (lb : Fin 32) (dest : BargeId) (e : Desc), let g := s.barge[b]; let x := readDesc g src; let d := readDesc g dst; let planes := (rowsOf x).flatMap (rowPlanes x d); let tokens := if tv then upd g.tokens tch (· + 1) else g.tokens; let credits := if cv then upd g.credits cch (· - 1) else g.credits; let ps := (rowsOf x).flatMap (rowPlanes x e); svcOfBarge s.barge[b] = some r ∧
      issues s b (.mxfr b dst src lb tv tch cv cch) = true ∧
      target s b lb.val = some dest ∧
      x.space = 0 ∧
      (cv = true → g.credits[cch] ≠ 0) ∧
      inReach s b (.mxfr b dst src lb tv tch cv cch) = true ∧
      e = readDesc s.barge[dest] dst ∧
      e.space = 0 ∧
      moveOk x e = true ∧
      (tensorRanges e x).all (rangeOk s s.barge[dest] true) = true ∧
      s.barge[dest].weak = [] ∧
      s.barge[dest].bad = [] ∧
      receives s dest = true ∧
      s.flight = [] ∧
      ps.Pairwise (fun y z => apart y.span z.span = true)) ∧
    (∃ (s : State) (b : BargeId) (r : SvcId) (dst : DescId) (src : DescId) (tv : Bool) (cv : Bool) (tch : Fin 16) (cch : Fin 16) (lb : Fin 32) (dest : BargeId) (e : Desc), let g := s.barge[b]; let x := readDesc g src; let d := readDesc g dst; let planes := (rowsOf x).flatMap (rowPlanes x d); let tokens := if tv then upd g.tokens tch (· + 1) else g.tokens; let credits := if cv then upd g.credits cch (· - 1) else g.credits; let ps := (rowsOf x).flatMap (rowPlanes x e); svcOfBarge s.barge[b] = some r ∧
      issues s b (.mxfr b dst src lb tv tch cv cch) = true ∧
      target s b lb.val = some dest ∧
      x.space = 0 ∧
      (cv = true → g.credits[cch] ≠ 0) ∧
      inReach s b (.mxfr b dst src lb tv tch cv cch) = true ∧
      e = readDesc s.barge[dest] dst ∧
      e.space = 0 ∧
      moveOk x e = true ∧
      (tensorRanges e x).all (rangeOk s s.barge[dest] true) = true ∧
      s.barge[dest].weak = [] ∧
      s.barge[dest].bad = [] ∧
      receives s dest = false) ∧
    (∃ (s : State) (b : BargeId) (r : SvcId) (dst : DescId) (src : DescId) (tv : Bool) (cv : Bool) (tch : Fin 16) (cch : Fin 16) (p16 : Bool), let g := s.barge[b]; let x := readDesc g src; let d := readDesc g dst; let planes := (rowsOf x).flatMap (rowPlanes x d); let tokens := if tv then upd g.tokens tch (· + 1) else g.tokens; let credits := if cv then upd g.credits cch (· - 1) else g.credits; let ps := patchPieces x d (if p16 then 16 else 14); svcOfBarge s.barge[b] = some r ∧
      issues s b (.mgth b dst src p16 tv tch) = true ∧
      inReach s b (.mgth b dst src p16 tv tch) = true ∧
      d.space = 0 ∧
      movesAgree x d = true ∧
      x.fmt = 1 ∧
      x.bs = false ∧
      x.sp = false ∧
      x.space < 2 ∧
      (tv = true → g.tokens[tch] < 4095) ∧
      ps.Pairwise (fun p q => apart (p.2.2, p.2.1) (q.2.2, q.2.1) = true)) := by
  refine ⟨⟨sees (.mst 3 9 10 false 2 false 3) (withDescs [tdesc 0 0xA 0 16 2 0x1000 0, tdesc 1 0xA 0 16 2 0x1000 0, tdesc 2 0xA 0 16 2 0 0, tdesc 6 0xA 0 16 2 0 0, tdesc 0 0x1 0 196 1 0x4000 0, (tdesc 1 0x1 0 1 14 0 0).set 20 14, (tdesc 2 0x1 0 1 14 0 0).set 20 14, tdesc 2 2 0 3 2 0 0, tdesc 0 2 0 3 2 0x1000 0, tdesc 1 0x14 0 32 2 0x1000 0x2000, tdesc 0 0x14 0 32 2 0x1000 0x3000] (onB3 (fun g => { g with spad := memPut g.spad 0x1000 [1, 2, 3], credits := put g.credits 3 1 }) (sailing.onReach 0 fun x => { x with pkg := some package }))), 3, 0, 9, 10, false, false, 2, 3, ?_⟩,
    ⟨sees (.mst 3 3 0 true 2 false 0) (withDescs [tdesc 0 0xA 0 16 2 0x1000 0, tdesc 1 0xA 0 16 2 0x1000 0, tdesc 2 0xA 0 16 2 0 0, tdesc 6 0xA 0 16 2 0 0, tdesc 0 0x1 0 196 1 0x4000 0, (tdesc 1 0x1 0 1 14 0 0).set 20 14, (tdesc 2 0x1 0 1 14 0 0).set 20 14, tdesc 2 2 0 3 2 0 0, tdesc 0 2 0 3 2 0x1000 0, tdesc 1 0x14 0 32 2 0x1000 0x2000, tdesc 0 0x14 0 32 2 0x1000 0x3000] (onB3 (fun g => { g with spad := memPut g.spad 0x1000 [1, 2, 3], credits := put g.credits 3 1 }) (sailing.onReach 0 fun x => { x with pkg := some package }))), 3, 0, 3, 0, true, false, 2, 0, ?_⟩,
    ⟨sees (.mxfr 3 0 0 1 true 2 true 3) (((withDescs [tdesc 0 0xA 0 16 2 0x1000 0, tdesc 1 0xA 0 16 2 0x1000 0, tdesc 2 0xA 0 16 2 0 0, tdesc 6 0xA 0 16 2 0 0, tdesc 0 0x1 0 196 1 0x4000 0, (tdesc 1 0x1 0 1 14 0 0).set 20 14, (tdesc 2 0x1 0 1 14 0 0).set 20 14, tdesc 2 2 0 3 2 0 0, tdesc 0 2 0 3 2 0x1000 0, tdesc 1 0x14 0 32 2 0x1000 0x2000, tdesc 0 0x14 0 32 2 0x1000 0x3000] (onB3 (fun g => { g with spad := memPut g.spad 0x1000 [1, 2, 3], sregs := put g.sregs 3 2, credits := put g.credits 3 1 }) (sailing.onReach 0 fun x => { x with pkg := some package }))).onBarge 4 fun g => { g with role := .active, reach := 0, logical := 1, epoch := 5, mcodeLoaded := true, spad := memPut g.spad descBase (tdesc 0 0xA 0 16 2 0x5000 0) })), 3, 0, 0, 0, true, true, 2, 3, 1, 4, descOf (tdesc 0 0xA 0 16 2 0x5000 0), ?_⟩,
    ⟨sees (.mxfr 3 0 0 0 true 2 true 3) (((withDescs [tdesc 0 0xA 0 16 2 0x1000 0, tdesc 1 0xA 0 16 2 0x1000 0, tdesc 2 0xA 0 16 2 0 0, tdesc 6 0xA 0 16 2 0 0, tdesc 0 0x1 0 196 1 0x4000 0, (tdesc 1 0x1 0 1 14 0 0).set 20 14, (tdesc 2 0x1 0 1 14 0 0).set 20 14, tdesc 2 2 0 3 2 0 0, tdesc 0 2 0 3 2 0x1000 0, tdesc 1 0x14 0 32 2 0x1000 0x2000, tdesc 0 0x14 0 32 2 0x1000 0x3000] (onB3 (fun g => { g with spad := memPut g.spad 0x1000 [1, 2, 3], sregs := put g.sregs 3 2, credits := put g.credits 3 1 }) (sailing.onReach 0 fun x => { x with pkg := some package }))).onBarge 4 fun g => { g with role := .active, reach := 0, logical := 1, epoch := 5, mcodeLoaded := true, spad := memPut g.spad descBase (tdesc 0 0xA 0 16 2 0x5000 0) })), 3, 0, 0, 0, true, true, 2, 3, 0, 3, descOf (tdesc 0 0xA 0 16 2 0x1000 0), ?_⟩,
    ⟨sees (.mxfr 3 0 0 1 true 2 true 3) (((withDescs [tdesc 0 0xA 0 16 2 0x1000 0, tdesc 1 0xA 0 16 2 0x1000 0, tdesc 2 0xA 0 16 2 0 0, tdesc 6 0xA 0 16 2 0 0, tdesc 0 0x1 0 196 1 0x4000 0, (tdesc 1 0x1 0 1 14 0 0).set 20 14, (tdesc 2 0x1 0 1 14 0 0).set 20 14, tdesc 2 2 0 3 2 0 0, tdesc 0 2 0 3 2 0x1000 0, tdesc 1 0x14 0 32 2 0x1000 0x2000, tdesc 0 0x14 0 32 2 0x1000 0x3000] (onB3 (fun g => { g with spad := memPut g.spad 0x1000 [1, 2, 3], sregs := put g.sregs 3 2, credits := put g.credits 3 1 }) (sailing.onReach 0 fun x => { x with pkg := some package }))).onBarge 4 fun g => { g with role := .active, reach := 0, logical := 1, epoch := 5, mcodeLoaded := true, dredging := true, spad := memPut g.spad descBase (tdesc 0 0xA 0 16 2 0x5000 0) })), 3, 0, 0, 0, true, true, 2, 3, 1, 4, descOf (tdesc 0 0xA 0 16 2 0x5000 0), ?_⟩,
    ⟨sees (.mgth 3 4 5 false true 2) (withDescs [tdesc 0 0xA 0 16 2 0x1000 0, tdesc 1 0xA 0 16 2 0x1000 0, tdesc 2 0xA 0 16 2 0 0, tdesc 6 0xA 0 16 2 0 0, tdesc 0 0x1 0 196 1 0x4000 0, (tdesc 1 0x1 0 1 14 0 0).set 20 14, (tdesc 2 0x1 0 1 14 0 0).set 20 14, tdesc 2 2 0 3 2 0 0, tdesc 0 2 0 3 2 0x1000 0, tdesc 1 0x14 0 32 2 0x1000 0x2000, tdesc 0 0x14 0 32 2 0x1000 0x3000] (onB3 (fun g => { g with spad := memPut g.spad 0x1000 [1, 2, 3], credits := put g.credits 3 1 }) (sailing.onReach 0 fun x => { x with pkg := some package }))), 3, 0, 4, 5, true, true, 2, 3, false, ?_⟩⟩
  all_goals first | decide +kernel | (dsimp only; decide +kernel)

theorem witness_Moves_3 :
    ∃ (s : State) (b : BargeId) (r : SvcId) (dst : DescId) (src : DescId) (tv : Bool) (cv : Bool) (tch : Fin 16) (cch : Fin 16) (p16 : Bool) (rg : Region), let g := s.barge[b]; let x := readDesc g src; let d := readDesc g dst; let planes := (rowsOf x).flatMap (rowPlanes x d); let tokens := if tv then upd g.tokens tch (· + 1) else g.tokens; let credits := if cv then upd g.credits cch (· - 1) else g.credits; let ps := patchPieces x d (if p16 then 16 else 14); svcOfBarge s.barge[b] = some r ∧
      issues s b (.mgth b dst src p16 tv tch) = true ∧
      inReach s b (.mgth b dst src p16 tv tch) = true ∧
      d.space = 0 ∧
      movesAgree x d = true ∧
      x.fmt = 1 ∧
      x.bs = false ∧
      x.sp = false ∧
      x.space = 2 ∧
      regionOf s r x.region = some rg ∧
      ps ≠ [] ∧
      (∀ p ∈ ps, p.1 + p.2.1 ≤ rg.size) := by
  refine ⟨sees (.mgth 3 4 6 false true 2) (withDescs [tdesc 0 0xA 0 16 2 0x1000 0, tdesc 1 0xA 0 16 2 0x1000 0, tdesc 2 0xA 0 16 2 0 0, tdesc 6 0xA 0 16 2 0 0, tdesc 0 0x1 0 196 1 0x4000 0, (tdesc 1 0x1 0 1 14 0 0).set 20 14, (tdesc 2 0x1 0 1 14 0 0).set 20 14, tdesc 2 2 0 3 2 0 0, tdesc 0 2 0 3 2 0x1000 0, tdesc 1 0x14 0 32 2 0x1000 0x2000, tdesc 0 0x14 0 32 2 0x1000 0x3000] (onB3 (fun g => { g with spad := memPut g.spad 0x1000 [1, 2, 3], credits := put g.credits 3 1 }) (sailing.onReach 0 fun x => { x with pkg := some package }))), 3, 0, 4, 6, true, true, 2, 3, false, { weight := true, base := 0, size := 4096, tagBase := 0 }, ?_⟩
  all_goals first | decide +kernel | (dsimp only; decide +kernel)

theorem witness_BargeFaultsAndMigration_1 :
    (∃ (s : State) (b : BargeId) (c : BargeCause) (i : Instr), (i = .bargeFault b c ∧
      c ≠ .sliceSignature ∨ i = .bargeWatchdog b ∧
      c = .watchdog ∧
      s.barge[b].run = .step ∧
      bargeRuns s b = true) ∧
      s.col.deferred = false ∧
      s.slu.keepPending = false ∧
      s.col.barge ≠ some b ∧
      (s.barge[b].role = .spare ∨ s.barge[b].role = .underTest)) ∧
    (∃ (s : State) (b : BargeId) (c : BargeCause) (i : Instr), (i = .bargeFault b c ∧
      c ≠ .sliceSignature ∨ i = .bargeWatchdog b ∧
      c = .watchdog ∧
      s.barge[b].run = .step ∧
      bargeRuns s b = true) ∧
      s.col.deferred = false ∧
      s.slu.keepPending = false ∧
      s.col.barge ≠ some b ∧
      (s.barge[b].role = .spare ∨ s.barge[b].role = .underTest)) ∧
    (∃ (s : State) (b : BargeId) (c : BargeCause) (i : Instr), (i = .bargeFault b c ∧
      c ≠ .sliceSignature ∨ i = .bargeWatchdog b ∧
      c = .watchdog ∧
      s.barge[b].run = .step ∧
      bargeRuns s b = true) ∧
      s.col.deferred = false ∧
      s.slu.keepPending = false ∧
      s.col.barge ≠ some b ∧
      (s.barge[b].role = .spare ∨ s.barge[b].role = .underTest)) ∧
    (∃ (s : State) (b : BargeId) (c : BargeCause) (i : Instr) (n : ReachId) (d : BargeId), (i = .bargeFault b c ∧
      c ≠ .sliceSignature ∨ i = .bargeWatchdog b ∧
      c = .watchdog ∧
      s.barge[b].run = .step ∧
      bargeRuns s b = true) ∧
      s.col.deferred = false ∧
      s.slu.keepPending = false ∧
      s.col.barge ≠ some b ∧
      s.barge[b].role = .active ∧
      s.barge[b].reach = n.val ∧
      s.barge[b].migrating = false ∧
      s.barge[b].migDest = false ∧
      s.reach[n].dredge = .none ∧
      s.reach[n].initPending = false ∧
      s.reach[n].restage = false ∧
      stepRunning s (svcOf n) = false ∧
      stepEnding s (svcOf n) = false ∧
      s.keeper[svcOf n].lost = [] ∧
      liveCount s (svcOf n) = s.keeper[svcOf n].liveSched ∧
      chooseSpare s = some d ∧
      s.slu.state ≠ .keep ∧
      s.slu.state ≠ .off ∧
      s.slu.reach[n].dozing = false) ∧
    (∃ (s : State) (b : BargeId) (c : BargeCause) (i : Instr) (n : ReachId) (d : BargeId), (i = .bargeFault b c ∧
      c ≠ .sliceSignature ∨ i = .bargeWatchdog b ∧
      c = .watchdog ∧
      s.barge[b].run = .step ∧
      bargeRuns s b = true) ∧
      s.col.deferred = false ∧
      s.slu.keepPending = false ∧
      s.col.barge ≠ some b ∧
      s.barge[b].role = .active ∧
      s.barge[b].reach = n.val ∧
      s.barge[b].migrating = false ∧
      s.barge[b].migDest = false ∧
      s.reach[n].dredge = .none ∧
      s.reach[n].initPending = false ∧
      s.reach[n].restage = false ∧
      stepRunning s (svcOf n) = false ∧
      stepEnding s (svcOf n) = false ∧
      s.keeper[svcOf n].lost = [] ∧
      liveCount s (svcOf n) = s.keeper[svcOf n].liveSched ∧
      chooseSpare s = some d ∧
      s.slu.state ≠ .keep ∧
      s.slu.state ≠ .off ∧
      s.slu.reach[n].dozing = false) ∧
    (∃ (s : State) (b : BargeId) (c : BargeCause) (i : Instr) (n : ReachId), (i = .bargeFault b c ∧
      c ≠ .sliceSignature ∨ i = .bargeWatchdog b ∧
      c = .watchdog ∧
      s.barge[b].run = .step ∧
      bargeRuns s b = true) ∧
      s.col.deferred = false ∧
      s.slu.keepPending = false ∧
      s.col.barge ≠ some b ∧
      s.barge[b].role = .active ∧
      s.barge[b].reach = n.val ∧
      s.barge[b].migrating = false ∧
      s.reach[n].dredge = .none ∧
      s.reach[n].initPending = false ∧
      stepRunning s (svcOf n) = false ∧
      stepEnding s (svcOf n) = false ∧
      s.keeper[svcOf n].lost = [] ∧
      chooseSpare s = none) := by
  refine ⟨⟨fleet, 0, .scratchEcc, .bargeFault 0 .scratchEcc, .inl ⟨rfl, by decide⟩, ?_⟩,
    ⟨fleet.onBarge 0 fun g => { g with run := .step }, 0, .watchdog, .bargeWatchdog 0, .inr ⟨rfl, rfl, by decide, by decide +kernel⟩, ?_⟩,
    ⟨fleet.onBarge 7 fun g => { g with role := .underTest }, 7, .watchdog, .bargeFault 7 .watchdog, .inl ⟨rfl, by decide⟩, ?_⟩,
    ⟨(working {}).onBarge 4 fun g => { g with role := .spare }, 3, .seqParity, .bargeFault 3 .seqParity, 0, 4, .inl ⟨rfl, by decide⟩, ?_⟩,
    ⟨((working {}).onBarge 4 fun g => { g with role := .spare }).onBarge 3 fun g => { g with run := .step }, 3, .watchdog, .bargeWatchdog 3, 0, 4, .inr ⟨rfl, rfl, by decide +kernel, by decide +kernel⟩, ?_⟩,
    ⟨(working {}).onBarge 4 fun g => { g with role := .active, reach := 0, logical := 1, epoch := 5 }, 3, .addressRange, .bargeFault 3 .addressRange, 0, .inl ⟨rfl, by decide⟩, ?_⟩⟩
  all_goals first | decide +kernel | (dsimp only; decide +kernel)

theorem witness_BargeFaultsAndMigration_2 :
    (∃ (s : State) (b : BargeId) (c : BargeCause) (i : Instr) (n : ReachId), (i = .bargeFault b c ∧
      c ≠ .sliceSignature ∨ i = .bargeWatchdog b ∧
      c = .watchdog ∧
      s.barge[b].run = .step ∧
      bargeRuns s b = true) ∧
      s.col.deferred = false ∧
      s.slu.keepPending = false ∧
      s.col.barge ≠ some b ∧
      s.barge[b].role = .active ∧
      s.barge[b].reach = n.val ∧
      s.barge[b].migrating = false ∧
      s.reach[n].dredge = .none ∧
      s.reach[n].initPending = false ∧
      stepRunning s (svcOf n) = false ∧
      stepEnding s (svcOf n) = false ∧
      s.keeper[svcOf n].lost = [] ∧
      chooseSpare s = none) ∧
    (∃ (s : State) (b : BargeId) (c : BargeCause) (i : Instr) (n : ReachId) (k : LockCycle) (d : BargeId), (i = .bargeFault b c ∧
      c ≠ .sliceSignature ∨ i = .bargeWatchdog b ∧
      c = .watchdog ∧
      s.barge[b].run = .step ∧
      bargeRuns s b = true) ∧
      s.col.deferred = false ∧
      s.slu.keepPending = false ∧
      s.col.barge ≠ some b ∧
      s.barge[b].role = .active ∧
      s.barge[b].reach = n.val ∧
      s.barge[b].migrating = false ∧
      s.reach[n].state = .sealed ∧
      s.reach[n].initPending = false ∧
      s.keeper[svcOf n].form = some k ∧
      k.started = true ∧
      s.keeper[svcOf n].lost = [] ∧
      chooseSpare s = some d) ∧
    (∃ (s : State) (b : BargeId) (c : BargeCause) (i : Instr), (i = .bargeFault b c ∧
      c ≠ .sliceSignature ∨ i = .bargeWatchdog b ∧
      c = .watchdog ∧
      s.barge[b].run = .step ∧
      bargeRuns s b = true) ∧
      s.col.deferred = false ∧
      s.slu.keepPending = false ∧
      s.col.barge ≠ some b ∧
      s.barge[b].role = .twilight ∧
      liveBarges s twilightSvc = [b]) ∧
    (∃ (s : State) (b : BargeId) (d : BargeId), canMigrate s b = true ∧ ownerDozes s b = false ∧ chooseSpare s = some d ∧ s.slu.state ≠ .keep ∧ s.slu.state ≠ .off) ∧
    (∃ (s : State) (b : BargeId), canMigrate s b = true ∧ ownerDozes s b = false ∧ chooseSpare s = none) ∧
    (∃ (s : State) (b : BargeId), canMigrate s b = true ∧ ownerDozes s b = true ∧ s.slu.state ≠ .keep ∧ s.slu.state ≠ .off) := by
  refine ⟨⟨working {}, 3, .tokenOverflow, .bargeFault 3 .tokenOverflow, 0, .inl ⟨rfl, by decide⟩, ?_⟩,
    ⟨((working { reqs := [request], form := some { number := 1, started := true, entries := [entry], waiting := [3] } }).onBarge 4 fun g => { g with role := .spare }), 3, .creditOverflow, .bargeFault 3 .creditOverflow, 0, { number := 1, started := true, entries := [entry], waiting := [3] }, 4, .inl ⟨rfl, by decide⟩, ?_⟩,
    ⟨(working {}).onBarge 5 fun g => { g with role := .twilight, reach := 8, logical := 0, epoch := 9 }, 5, .mcodeParity, .bargeFault 5 .mcodeParity, .inl ⟨rfl, by decide⟩, ?_⟩,
    ⟨((working {}).onBarge 4 fun g => { g with role := .spare }).onCol fun c => { c with asked := some 3 }, 3, 4, ?_⟩,
    ⟨(working {}).onCol fun c => { c with asked := some 3 }, 3, ?_⟩,
    ⟨((working {}).onSlu fun x => { x with reach := upd x.reach 0 fun y => { y with dozing := true } }).onCol fun c => { c with asked := some 3 }, 3, ?_⟩⟩
  all_goals first | decide +kernel | (dsimp only; decide +kernel)

theorem witness_BargeFaultsAndMigration_3 :
    (∃ (s : State) (b : BargeId) (d : BargeId), (∀ r : SvcId, s.barge[b].reach = r.val → b ∉ s.keeper[r].resuming) ∧
      s.barge[b].partner = some d ∧
      s.barge[b].migrating = true ∧
      s.barge[b].migDest = false ∧
      s.barge[d].migDest = true ∧
      (s.flight.any (Msg.touches b)) = false ∧
      s.barge[b].weak = [] ∧
      s.barge[b].bad = []) ∧
    (∃ (s : State) (b : BargeId) (d : BargeId) (n : ReachId), s.barge[b].partner = some d ∧
      s.barge[b].migrating = true ∧
      s.barge[b].migDest = false ∧
      s.barge[d].migDest = true ∧
      (s.flight.any (Msg.touches b)) = false ∧
      s.barge[b].weak = [] ∧
      s.barge[b].bad = [] ∧
      s.barge[b].reach = n.val ∧
      b ∈ s.keeper[svcOf n].resuming ∧
      s.reach[n].pkg.isSome = true ∧
      s.slu.reach[n].dozing = false) ∧
    (∃ (s : State) (b : BargeId) (d : BargeId), s.barge[b].partner = some d ∧
      s.barge[b].migrating = true ∧
      s.barge[b].migDest = false ∧
      s.barge[d].migDest = true ∧
      (s.flight.any (Msg.touches b)) = false ∧
      hits s.barge[b].bad 0 spadBytes ≠ [] ∧
      s.barge[b].role = .active ∧
      s.barge[b].reach < 8 ∧
      s.col.deferred = false) ∧
    (∃ (s : State) (b : BargeId) (d : BargeId), s.barge[b].partner = some d ∧
      s.barge[b].migrating = true ∧
      s.barge[b].migDest = false ∧
      s.barge[d].migDest = true ∧
      (s.flight.any (Msg.touches b)) = false ∧
      hits s.barge[b].bad 0 spadBytes ≠ [] ∧
      s.barge[b].role = .active ∧
      s.barge[b].reach < 8 ∧
      s.col.deferred = false) := by
  refine ⟨⟨((working {}).onBarge 3 fun g => { g with migrating := true, partner := some 4, spad := [(7, 9)] }).onBarge 4 fun g => { g with role := .active, migDest := true, migrating := true, partner := some 3, reach := 0, epoch := 5, logical := 0 }, 3, 4, by decide +kernel, ?_⟩,
    ⟨((working { resuming := [3] }).onBarge 3 fun g => { g with migrating := true, partner := some 4 }).onBarge 4 fun g => { g with role := .active, migDest := true, migrating := true, partner := some 3, reach := 0, epoch := 5, logical := 0 }, 3, 4, 0, ?_⟩,
    ⟨((working {}).onBarge 3 fun g => { g with migrating := true, partner := some 4, bad := [0] }).onBarge 4 fun g => { g with role := .active, migDest := true, migrating := true, partner := some 3, reach := 0, epoch := 5, logical := 0 }, 3, 4, ?_⟩,
    ⟨((working {}).onBarge 3 fun g => { g with migrating := true, partner := some 4, bad := [spadBytes / 8 - 1] }).onBarge 4 fun g => { g with role := .active, migDest := true, migrating := true, partner := some 3, reach := 0, epoch := 5, logical := 0 }, 3, 4, ?_⟩⟩
  all_goals first | decide +kernel | (dsimp only; decide +kernel)

theorem witness_Dredges_1 :
    (∃ (s : State) (b : BargeId), s.barge[b].dredging = true ∧
      s.col.barge ≠ some b ∧
      s.col.deferred = false ∧
      s.flight = [] ∧
      (∀ n : ReachId, s.keeper[svcOf n].lost = []) ∧
      (s.barge[b].afterDredge = .stay ∨ s.barge[b].afterDredge = .resume)) ∧
    (∃ (s : State) (b : BargeId), s.barge[b].dredging = true ∧
      s.col.barge ≠ some b ∧
      s.col.deferred = false ∧
      s.flight = [] ∧
      (∀ n : ReachId, s.keeper[svcOf n].lost = []) ∧
      (s.barge[b].afterDredge = .stay ∨ s.barge[b].afterDredge = .resume)) ∧
    (∃ (s : State) (b : BargeId), s.barge[b].dredging = true ∧
      s.col.barge ≠ some b ∧
      s.col.deferred = false ∧
      s.flight = [] ∧
      (∀ n : ReachId, s.keeper[svcOf n].lost = []) ∧
      (s.barge[b].afterDredge = .stay ∨ s.barge[b].afterDredge = .resume)) ∧
    (∃ (s : State) (b : BargeId), s.barge[b].dredging = true ∧
      s.col.barge ≠ some b ∧
      s.col.deferred = false ∧
      s.flight = [] ∧
      (∀ n : ReachId, s.keeper[svcOf n].lost = []) ∧
      s.barge[b].afterDredge = .spare ∧
      s.barge[b].role = .underTest ∧
      (∀ n : ReachId, keepsBarges s.reach[n] = true → s.reach[n].dredge = .none → 4 * s.reach[n].flights ≤ liveCount s (svcOf n))) ∧
    (∃ (s : State) (n : ReachId), s.reach[n].dredge ≠ .none ∧ (∀ u ∈ s.reach[n].units, u < 8)) ∧
    (∃ (s : State) (n : ReachId), s.reach[n].dredge = .none ∧ s.reach[n].restage = true) := by
  refine ⟨⟨sailing.onBarge 3 fun g => { g with dredging := true, afterDredge := .stay }, 3, ?_⟩,
    ⟨sailing.onBarge 3 fun g => { g with dredging := true, afterDredge := .resume }, 3, ?_⟩,
    ⟨(working {}).onBarge 3 fun g => { g with dredging := true, afterDredge := .resume, spad := [(0, 1)] }, 3, ?_⟩,
    ⟨up.onBarge 33 fun g => { g with role := .underTest, dredging := true, afterDredge := .spare }, 33, ?_⟩,
    ⟨tenant.onReach 0 fun x => { x with dredge := .full, state := .dredging }, 0, ?_⟩,
    ⟨(tenant).onReach 0 fun x => { x with restage := true }, 0, ?_⟩⟩
  all_goals first | decide +kernel | (dsimp only; decide +kernel)

theorem witness_Dredges_2 :
    (∃ (s : State) (n : ReachId), s.reach[n].dredge = .none ∧ s.reach[n].restage = true) ∧
    (∃ (s : State) (n : ReachId), s.mer.halted = false ∧
      s.col.deferred = false ∧
      s.slu.keepPending = false ∧
      s.flight = [] ∧
      (s.reach[n].dredge = .full ∨ s.reach[n].dredge = .tamper)) ∧
    (∃ (s : State) (n : ReachId), s.mer.halted = false ∧
      s.col.deferred = false ∧
      s.slu.keepPending = false ∧
      s.flight = [] ∧
      (s.reach[n].dredge = .full ∨ s.reach[n].dredge = .tamper)) ∧
    (∃ (s : State) (n : ReachId), s.mer.halted = false ∧
      s.col.deferred = false ∧
      s.slu.keepPending = false ∧
      s.flight = [] ∧
      (s.reach[n].dredge = .full ∨ s.reach[n].dredge = .tamper)) ∧
    (∃ (s : State) (n : ReachId), s.mer.halted = false ∧
      s.col.deferred = false ∧
      s.slu.keepPending = false ∧
      s.flight = [] ∧
      s.keeper[svcOf n].lost = [] ∧
      s.slu.state ≠ .keep ∧
      s.slu.state ≠ .off ∧
      s.slu.reach[n].dozing = false ∧
      (s.reach[n].dredge = .failedLoad ∨ s.reach[n].dredge = .forOpen)) ∧
    (∃ (s : State) (n : ReachId), s.mer.halted = false ∧
      s.col.deferred = false ∧
      s.slu.keepPending = false ∧
      s.flight = [] ∧
      s.keeper[svcOf n].lost = [] ∧
      s.slu.state ≠ .keep ∧
      s.slu.state ≠ .off ∧
      s.slu.reach[n].dozing = false ∧
      (s.reach[n].dredge = .failedLoad ∨ s.reach[n].dredge = .forOpen)) := by
  refine ⟨⟨(working {}).onReach 0 fun x => { x with restage := true }, 0, ?_⟩,
    ⟨tenant.onReach 0 fun x => { x with dredge := .full, state := .dredging }, 0, ?_⟩,
    ⟨(working {}).onReach 0 fun x => { x with dredge := .full, state := .dredging }, 0, ?_⟩,
    ⟨(working {}).onReach 0 fun x => { x with dredge := .tamper, state := .dredging }, 0, ?_⟩,
    ⟨(working {}).onReach 0 fun x => { x with dredge := .failedLoad, state := .loading, loadRec := some (3, 0, 5) }, 0, ?_⟩,
    ⟨(working {}).onReach 0 fun x => { x with dredge := .forOpen, state := .dredging }, 0, ?_⟩⟩
  all_goals first | decide +kernel | (dsimp only; decide +kernel)

theorem witness_Dredges_3 :
    (∃ (s : State) (u : Fin 8) (n : ReachId), s.basin.units[u].owner = n.val ∧ s.reach[n].state ≠ .sealed ∧ s.reach[n].state ≠ .draining) ∧
    (∃ (s : State) (u : Fin 8) (n : ReachId), s.basin.units[u].owner = n.val ∧ s.reach[n].state = .sealed ∧ s.reach[n].dredge = .none) ∧
    (∃ (s : State) (u : Fin 8) (n : ReachId), s.basin.units[u].owner = n.val ∧ s.reach[n].state = .sealed ∧ s.reach[n].dredge = .none) := by
  refine ⟨⟨tenant.onReach 0 fun x => { x with state := .loading }, 0, 0, ?_⟩,
    ⟨tenant.onKeeper 0 fun k => { k with reqs := [request] }, 0, 0, ?_⟩,
    ⟨working { reqs := [request], form := some { number := 1, started := true, entries := [entry], waiting := [3] } }, 0, 0, ?_⟩⟩
  all_goals first | decide +kernel | (dsimp only; decide +kernel)

theorem witness_LoadChunks :
    (∃ (s : State) (j : LoadJob), let d := memBytes j.staged 0 j.fetchLen; s.loader.job = some j ∧
      j.fetchLeft = 0 ∧
      j.fetchLen ≠ 0 ∧
      j.complete = false ∧
      s.loader.queue = [] ∧
      chunkForm j (d.take 32) = none) ∧
    (∃ (s : State) (j : LoadJob) (n : Nat) (last : Bool) (k : Nat), let d := memBytes j.staged 0 j.fetchLen; s.loader.job = some j ∧
      j.fetchLeft = 0 ∧
      j.fetchLen ≠ 0 ∧
      j.complete = false ∧
      s.loader.queue = [] ∧
      chunkForm j (d.take 32) = some (n, last) ∧
      judgeUse s.eph.slots[keySlot s j.reach 3] .loadGcm j.reach.val = k ∧
      k ≠ Code.done) ∧
    (∃ (s : State) (j : LoadJob) (n : Nat) (last : Bool) (k : Nat), let d := memBytes j.staged 0 j.fetchLen; s.loader.job = some j ∧
      j.fetchLeft = 0 ∧
      j.fetchLen ≠ 0 ∧
      j.complete = false ∧
      s.loader.queue = [] ∧
      chunkForm j (d.take 32) = some (n, last) ∧
      judgeUse s.eph.slots[keySlot s j.reach 3] .loadGcm j.reach.val = k ∧
      k ≠ Code.done) ∧
    (∃ (s : State) (j : LoadJob) (n : Nat) (last : Bool), let d := memBytes j.staged 0 j.fetchLen; s.loader.job = some j ∧
      j.fetchLeft = 0 ∧
      j.fetchLen ≠ 0 ∧
      j.complete = false ∧
      s.loader.queue = [] ∧
      chunkForm j (d.take 32) = some (n, last) ∧
      judgeUse s.eph.slots[keySlot s j.reach 3] .loadGcm j.reach.val = Code.done) ∧
    (∃ (s : State) (j : LoadJob) (n : Nat) (last : Bool), let d := memBytes j.staged 0 j.fetchLen; s.loader.job = some j ∧
      j.fetchLeft = 0 ∧
      j.fetchLen ≠ 0 ∧
      j.complete = false ∧
      s.loader.queue = [] ∧
      chunkForm j (d.take 32) = some (n, last) ∧
      judgeUse s.eph.slots[keySlot s j.reach 3] .loadGcm j.reach.val = Code.done) := by
  refine ⟨⟨{ (working {}) with loader := { state := .running, job := some ({ reach := 0, tag := 0, sq := 0, imageAddr := 0, imageBytes := 100, staged := [(0, 1)], fetchLen := 100 }) } }, { reach := 0, tag := 0, sq := 0, imageAddr := 0, imageBytes := 100, staged := [(0, 1)], fetchLen := 100 }, ?_⟩,
    ⟨{ (onSlot 35 (slotFor 0 .kdf) (tenant.onReach 0 fun x => { x with state := .loading })) with loader := { state := .running, job := some ({ reach := 0, tag := 0, sq := 0, imageAddr := 0, imageBytes := 49, staged := memPut [] 0 ([0x44, 0x43, 0x48, 0x4B] ++ zeros 12 ++ leBytes 4 1 ++ [1] ++ zeros 11 ++ zeros 17), fetchLen := 49 }) } }, { reach := 0, tag := 0, sq := 0, imageAddr := 0, imageBytes := 49, staged := memPut [] 0 ([0x44, 0x43, 0x48, 0x4B] ++ zeros 12 ++ leBytes 4 1 ++ [1] ++ zeros 11 ++ zeros 17), fetchLen := 49 }, 1, true, judgeUse (slotFor 0 .kdf) .loadGcm 0, ?_⟩,
    ⟨{ (onSlot 35 ({ slotFor 0 .loadGcm with state := .exhausted }) (tenant.onReach 0 fun x => { x with state := .loading })) with loader := { state := .running, job := some ({ reach := 0, tag := 0, sq := 0, imageAddr := 0, imageBytes := 49, staged := memPut [] 0 ([0x44, 0x43, 0x48, 0x4B] ++ zeros 12 ++ leBytes 4 1 ++ [1] ++ zeros 11 ++ zeros 17), fetchLen := 49 }) } }, { reach := 0, tag := 0, sq := 0, imageAddr := 0, imageBytes := 49, staged := memPut [] 0 ([0x44, 0x43, 0x48, 0x4B] ++ zeros 12 ++ leBytes 4 1 ++ [1] ++ zeros 11 ++ zeros 17), fetchLen := 49 }, 1, true, Code.keyExhausted, ?_⟩,
    ⟨{ (onSlot 35 (slotFor 0 .loadGcm) (tenant.onReach 0 fun x => { x with state := .loading })) with loader := { state := .running, job := some ({ reach := 0, tag := 0, sq := 0, imageAddr := 0, imageBytes := 49, staged := memPut [] 0 ([0x44, 0x43, 0x48, 0x4B] ++ zeros 12 ++ leBytes 4 1 ++ [1] ++ zeros 11 ++ zeros 17), fetchLen := 49 }) } }, { reach := 0, tag := 0, sq := 0, imageAddr := 0, imageBytes := 49, staged := memPut [] 0 ([0x44, 0x43, 0x48, 0x4B] ++ zeros 12 ++ leBytes 4 1 ++ [1] ++ zeros 11 ++ zeros 17), fetchLen := 49 }, 1, true, ?_⟩,
    ⟨{ (onSlot 35 (slotFor 0 .loadGcm) (tenant.onReach 0 fun x => { x with state := .loading })) with loader := { state := .running, job := some ({ reach := 0, tag := 0, sq := 0, imageAddr := 0, imageBytes := 65633, staged := memPut [] 0 ([0x44, 0x43, 0x48, 0x4B] ++ zeros 12 ++ leBytes 4 65536), fetchLen := 65584 }) } }, { reach := 0, tag := 0, sq := 0, imageAddr := 0, imageBytes := 65633, staged := memPut [] 0 ([0x44, 0x43, 0x48, 0x4B] ++ zeros 12 ++ leBytes 4 65536), fetchLen := 65584 }, 65536, false, ?_⟩⟩
  all_goals first | decide +kernel | (dsimp only; decide +kernel)

theorem witness_SpdmRequests_1 :
    (∃ (s : State), let v : Mctp := { binding := s.params.mgmtBinding, type := 5 }; servesMgmt s = true ∧ (s.mer.phase = .full → spdmRefusal s = none)) ∧
    (∃ (s : State), let v : Mctp := { binding := s.params.mgmtBinding, type := 5 }; servesMgmt s = true ∧ (s.mer.phase = .full → spdmRefusal s = none)) ∧
    (∃ (s : State) (n : Nat), let v : Mctp := { binding := s.params.mgmtBinding, type := 5 }; servesMgmt s = true ∧
      (s.mer.phase = .full → spdmRefusal s = none) ∧
      0x11 ≤ n ∧
      n ≤ 0x13) ∧
    (∃ (s : State) (n : Nat), let v : Mctp := { binding := s.params.mgmtBinding, type := 5 }; servesMgmt s = true ∧
      (s.mer.phase = .full → spdmRefusal s = none) ∧
      0x11 ≤ n ∧
      n ≤ 0x13) ∧
    (∃ (s : State) (n : Nat), let v : Mctp := { binding := s.params.mgmtBinding, type := 5 }; servesMgmt s = true ∧
      (s.mer.phase = .full → spdmRefusal s = none) ∧
      0x11 ≤ n ∧
      n ≤ 0x13) ∧
    (∃ (s : State) (n : Nat), let v : Mctp := { binding := s.params.mgmtBinding, type := 5 }; servesMgmt s = true ∧
      (s.mer.phase = .full → spdmRefusal s = none) ∧
      (n < 0x11 ∨ 0x13 < n)) := by
  refine ⟨⟨blank, ?_⟩,
    ⟨up, ?_⟩,
    ⟨blank, 17, ?_⟩,
    ⟨blank, 18, ?_⟩,
    ⟨blank, 19, ?_⟩,
    ⟨blank, 16, ?_⟩⟩
  all_goals first | decide +kernel | (dsimp only; decide +kernel)

theorem witness_SpdmRequests_2 :
    (∃ (s : State) (n : Nat), let v : Mctp := { binding := s.params.mgmtBinding, type := 5 }; servesMgmt s = true ∧
      (s.mer.phase = .full → spdmRefusal s = none) ∧
      (n < 0x11 ∨ 0x13 < n)) ∧
    (∃ (s : State), let v : Mctp := { binding := s.params.mgmtBinding, type := 5 }; servesMgmt s = true ∧ spdmRefusal s = none) ∧
    (∃ (s : State) (off : Nat) (n : Nat) (d : Bytes) (r : Bytes), let v : Mctp := { binding := s.params.mgmtBinding, type := 5 }; d = ((spdmChain s).drop off).take n ∧
      r = leBytes 2 d.length ++ leBytes 2 ((spdmChain s).length - off - d.length) ++ d ∧
      servesMgmt s = true ∧
      spdmRefusal s = none ∧
      off < (spdmChain s).length) ∧
    (∃ (s : State) (off : Nat) (n : Nat) (d : Bytes) (r : Bytes), let v : Mctp := { binding := s.params.mgmtBinding, type := 5 }; d = ((spdmChain s).drop off).take n ∧
      r = leBytes 2 d.length ++ leBytes 2 ((spdmChain s).length - off - d.length) ++ d ∧
      servesMgmt s = true ∧
      spdmRefusal s = none ∧
      off < (spdmChain s).length) ∧
    (∃ (s : State) (off : Nat) (n : Nat) (d : Bytes) (r : Bytes), let v : Mctp := { binding := s.params.mgmtBinding, type := 5 }; d = ((spdmChain s).drop off).take n ∧
      r = leBytes 2 d.length ++ leBytes 2 ((spdmChain s).length - off - d.length) ++ d ∧
      servesMgmt s = true ∧
      spdmRefusal s = none ∧
      off < (spdmChain s).length) ∧
    (∃ (s : State) (slot : Nat) (off : Nat), let v : Mctp := { binding := s.params.mgmtBinding, type := 5 }; servesMgmt s = true ∧
      spdmRefusal s = none ∧
      (slot ≠ 0 ∨ (spdmChain s).length ≤ off)) := by
  refine ⟨⟨up, 20, ?_⟩,
    ⟨up, ?_⟩,
    ⟨up.onMer fun m => { m with aliasCert := zeros 6000 }, 0, 4092, ((spdmChain (up.onMer fun m => { m with aliasCert := zeros 6000 })).drop 0).take 4092, leBytes 2 (((spdmChain (up.onMer fun m => { m with aliasCert := zeros 6000 })).drop 0).take 4092).length ++ leBytes 2 ((spdmChain (up.onMer fun m => { m with aliasCert := zeros 6000 })).length - 0 - (((spdmChain (up.onMer fun m => { m with aliasCert := zeros 6000 })).drop 0).take 4092).length) ++ (((spdmChain (up.onMer fun m => { m with aliasCert := zeros 6000 })).drop 0).take 4092), rfl, rfl, ?_⟩,
    ⟨up.onMer fun m => { m with aliasCert := zeros 6000 }, 0, 4093, ((spdmChain (up.onMer fun m => { m with aliasCert := zeros 6000 })).drop 0).take 4093, leBytes 2 (((spdmChain (up.onMer fun m => { m with aliasCert := zeros 6000 })).drop 0).take 4093).length ++ leBytes 2 ((spdmChain (up.onMer fun m => { m with aliasCert := zeros 6000 })).length - 0 - (((spdmChain (up.onMer fun m => { m with aliasCert := zeros 6000 })).drop 0).take 4093).length) ++ (((spdmChain (up.onMer fun m => { m with aliasCert := zeros 6000 })).drop 0).take 4093), rfl, rfl, ?_⟩,
    ⟨up.onMer fun m => { m with aliasCert := zeros 6000 }, 5000, 65535, ((spdmChain (up.onMer fun m => { m with aliasCert := zeros 6000 })).drop 5000).take 65535, leBytes 2 (((spdmChain (up.onMer fun m => { m with aliasCert := zeros 6000 })).drop 5000).take 65535).length ++ leBytes 2 ((spdmChain (up.onMer fun m => { m with aliasCert := zeros 6000 })).length - 5000 - (((spdmChain (up.onMer fun m => { m with aliasCert := zeros 6000 })).drop 5000).take 65535).length) ++ (((spdmChain (up.onMer fun m => { m with aliasCert := zeros 6000 })).drop 5000).take 65535), rfl, rfl, ?_⟩,
    ⟨up, 1, 0, ?_⟩⟩
  all_goals first | decide +kernel | (dsimp only; decide +kernel)

theorem witness_SpdmRequests_3 :
    (∃ (s : State) (slot : Nat) (off : Nat), let v : Mctp := { binding := s.params.mgmtBinding, type := 5 }; servesMgmt s = true ∧
      spdmRefusal s = none ∧
      (slot ≠ 0 ∨ (spdmChain s).length ≤ off)) ∧
    (∃ (s : State), let v : Mctp := { binding := s.params.mgmtBinding, type := 5 }; servesMgmt s = true ∧
      spdmRefusal s = none ∧
      astHeld 0xE s = false ∧
      s.ast.progLoaded = true ∧
      judgeUse s.eph.slots[(4 : SlotId)] .astrolabe 0xE = Code.done) ∧
    (∃ (s : State) (k : Nat) (b : Bytes), let v : Mctp := { binding := s.params.mgmtBinding, type := 5 }; servesMgmt s = true ∧
      spdmRefusal s = none ∧
      measurementBlock s k = some b ∧
      astHeld 0xE s = false ∧
      s.ast.progLoaded = true ∧
      judgeUse s.eph.slots[(4 : SlotId)] .astrolabe 0xE = Code.done) ∧
    (∃ (s : State) (k : Nat) (b : Bytes), let v : Mctp := { binding := s.params.mgmtBinding, type := 5 }; servesMgmt s = true ∧
      spdmRefusal s = none ∧
      measurementBlock s k = some b ∧
      astHeld 0xE s = false ∧
      s.ast.progLoaded = true ∧
      judgeUse s.eph.slots[(4 : SlotId)] .astrolabe 0xE = Code.done) ∧
    (∃ (s : State) (k : Nat) (b : Bytes), let v : Mctp := { binding := s.params.mgmtBinding, type := 5 }; servesMgmt s = true ∧
      spdmRefusal s = none ∧
      measurementBlock s k = some b ∧
      astHeld 0xE s = false ∧
      s.ast.progLoaded = true ∧
      judgeUse s.eph.slots[(4 : SlotId)] .astrolabe 0xE = Code.done) ∧
    (∃ (s : State) (k : Nat) (b : Bytes), let v : Mctp := { binding := s.params.mgmtBinding, type := 5 }; servesMgmt s = true ∧
      spdmRefusal s = none ∧
      measurementBlock s k = some b ∧
      astHeld 0xE s = false ∧
      s.ast.progLoaded = true ∧
      judgeUse s.eph.slots[(4 : SlotId)] .astrolabe 0xE = Code.done) := by
  refine ⟨⟨up, 0, 100000, ?_⟩,
    ⟨onSlot 4 (slotFor 0xE .astrolabe) up, ?_⟩,
    ⟨onSlot 4 (slotFor 0xE .astrolabe) up, 0, (measurementBlock (onSlot 4 (slotFor 0xE .astrolabe) up) 0).getD [], ?_⟩,
    ⟨onSlot 4 (slotFor 0xE .astrolabe) up, 1, (measurementBlock (onSlot 4 (slotFor 0xE .astrolabe) up) 1).getD [], ?_⟩,
    ⟨onSlot 4 (slotFor 0xE .astrolabe) up, 10, (measurementBlock (onSlot 4 (slotFor 0xE .astrolabe) up) 10).getD [], ?_⟩,
    ⟨onSlot 4 (slotFor 0xE .astrolabe) up, 255, (measurementBlock (onSlot 4 (slotFor 0xE .astrolabe) up) 255).getD [], ?_⟩⟩
  all_goals first | decide +kernel | (dsimp only; decide +kernel)

theorem witness_SpdmRequests_4 :
    (∃ (s : State) (k : Nat), let v : Mctp := { binding := s.params.mgmtBinding, type := 5 }; servesMgmt s = true ∧ spdmRefusal s = none ∧ 10 < k ∧ k ≠ 0xFF) ∧
    (∃ (s : State) (k : Nat), let v : Mctp := { binding := s.params.mgmtBinding, type := 5 }; servesMgmt s = true ∧ spdmRefusal s = none ∧ 10 < k ∧ k ≠ 0xFF) ∧
    (∃ (s : State), let v : Mctp := { binding := s.params.mgmtBinding, type := 5 }; servesMgmt s = true ∧ spdmRefusal s = none ∧ astHeld 0xE s = true) ∧
    (∃ (s : State) (ep : Nat) (tok : Nat) (nonce : Vector Byte 32) (l : List (Nat × Nat × Instr)), let v : Mctp := { binding := s.params.mgmtBinding, type := 5 }; servesMgmt s = true ∧
      spdmRefusal s = none ∧
      s.spdm.deferred = (ep, tok, .challenge ep 0 nonce) :: l ∧
      (∀ d ∈ l, ¬(d.1 = ep ∧
      d.2.1 = tok)) ∧
      astHeld 0xE s = false ∧
      s.ast.progLoaded = true ∧
      judgeUse s.eph.slots[(4 : SlotId)] .astrolabe 0xE = Code.done) ∧
    (∃ (s : State) (ep : Nat), let v : Mctp := { binding := s.params.mgmtBinding, type := 5 }; servesMgmt s = true ∧ spdmRefusal s = none ∧ 0x12 ≤ versionOf s ep) ∧
    (∃ (s : State) (ep : Nat) (d : Bytes), let v : Mctp := { binding := s.params.mgmtBinding, type := 5 }; servesMgmt s = true ∧
      spdmRefusal s = none ∧
      0x12 ≤ versionOf s ep ∧
      strayRequest d = none) := by
  refine ⟨⟨up, 11, ?_⟩,
    ⟨up, 256, ?_⟩,
    ⟨up.onSpdm fun x => { x with hold := some (0, 0) }, ?_⟩,
    ⟨(onSlot 4 (slotFor 0xE .astrolabe) up).onSpdm fun x => { x with deferred := [(0, 1, .challenge 0 0 (Vector.replicate 32 0))] }, 0, 1, Vector.replicate 32 0, [], ?_⟩,
    ⟨up.onSpdm fun x => { x with versions := [(0, 0x12)] }, 0, ?_⟩,
    ⟨up.onSpdm fun x => { x with versions := [(0, 0x12)], chunks := [(0, 1, [2])] }, 0, [0x12, 0x84], ?_⟩⟩
  all_goals first | decide +kernel | (dsimp only; decide +kernel)

theorem witness_SpdmRequests_5 :
    (∃ (s : State) (ep : Nat) (b : Bytes) (l : List (Nat × Bytes)), let v : Mctp := { binding := s.params.mgmtBinding, type := 5 }; servesMgmt s = true ∧
      spdmRefusal s = none ∧
      0x12 ≤ versionOf s ep ∧
      s.spdm.large = (ep, b) :: l ∧
      b ≠ []) ∧
    (∃ (s : State) (ep : Nat) (b : Bytes) (l : List (Nat × Bytes)), let v : Mctp := { binding := s.params.mgmtBinding, type := 5 }; s.spdm.large = (ep, b) :: l ∧
      b ≠ [] ∧
      servesMgmt s = true ∧
      spdmRefusal s = none ∧
      0x12 ≤ versionOf s ep) ∧
    (∃ (s : State) (ep : Nat) (k : Nat) (last : Bool) (d : Bytes) (i : Instr), let v : Mctp := { binding := s.params.mgmtBinding, type := 5 }; (i = .chunkSend ep k last d ∨ i = .chunkGet ep k) ∧
      servesMgmt s = true ∧
      spdmRefusal s = none ∧
      versionOf s ep < 0x12) ∧
    (∃ (s : State) (ep : Nat) (k : Nat) (last : Bool) (d : Bytes) (i : Instr), let v : Mctp := { binding := s.params.mgmtBinding, type := 5 }; (i = .chunkSend ep k last d ∨ i = .chunkGet ep k) ∧
      servesMgmt s = true ∧
      spdmRefusal s = none ∧
      versionOf s ep < 0x12) := by
  refine ⟨⟨up.onSpdm fun x => { x with versions := [(0, 0x12)], large := [(0, [1])] }, 0, [1], [], ?_⟩,
    ⟨up.onSpdm fun x => { x with versions := [(0, 0x12)], large := [(0, zeros 4097)] }, 0, zeros 4097, [], rfl, by simp [zeros], ?_⟩,
    ⟨up, 0, 0, true, [], .chunkSend 0 0 true [], .inl rfl, ?_⟩,
    ⟨up.onSpdm fun x => { x with versions := [(0, 0x11)] }, 0, 0, false, [], .chunkGet 0 0, .inr rfl, ?_⟩⟩
  all_goals first | decide +kernel | (dsimp only; decide +kernel)

theorem witness_Sessions :
    (∃ (s : State) (target : Nat) (i : Fin 8), let v : Mctp := { binding := s.params.mgmtBinding, type := 5 }; spdmReady s = true ∧
      exchangeJudge s target = .inr i ∧
      astHeld 0xE s = false ∧
      s.ast.progLoaded = true ∧
      judgeUse s.eph.slots[(4 : SlotId)] .astrolabe 0xE = Code.done) ∧
    (∃ (s : State) (i : Fin 8) (y : Session), let v : Mctp := { binding := s.params.mgmtBinding, type := 6 }; spdmRefusal s = none ∧
      sessionServed s i y .exchanged = true ∧
      astHeld 0xE s = false ∧
      s.ast.upset = false) ∧
    (∃ (s : State) (i : Fin 8) (y : Session), let v : Mctp := { binding := s.params.mgmtBinding, type := 6 }; spdmRefusal s = none ∧
      sessionServed s i y .established = true) ∧
    (∃ (s : State) (i : Fin 8) (y : Session), s.spdm.sessions[i] = some y ∧ s.mer.halted = false ∧ waited (secPs s) y.lastAt (120 * secondPs) = true) ∧
    (∃ (s : State) (i : Fin 8) (y : Session), s.spdm.sessions[i] = some y ∧ s.mer.halted = false ∧ waited (secPs s) y.lastAt (120 * secondPs) = true) ∧
    (∃ (s : State), s.spdm.hold.isSome = true ∧ s.mer.halted = false ∧ waited (secPs s) s.spdm.holdAt (secondPs / 10) = true) := by
  refine ⟨⟨onSlot 4 (slotFor 0xE .astrolabe) tenant, 0, 0, ?_⟩,
    ⟨(onSlot 8 (slotFor 0 .meridianGcm) (onSlot 9 (slotFor 0 .meridianGcm) (tenant))).onSpdm fun x => { x with sessions := put x.sessions 0 (some { target := 0, ep := 0, phase := .exchanged, th2 := [], offer := some 0 }) }, 0, { target := 0, ep := 0, phase := .exchanged, th2 := [], offer := some 0 }, ?_⟩,
    ⟨(onSlot 8 (slotFor 0 .meridianGcm) (onSlot 9 (slotFor 0 .meridianGcm) (tenant))).onSpdm fun x => { x with sessions := put x.sessions 0 (some { target := 0, ep := 0, phase := .established, th2 := [], offer := some 0 }) }, 0, { target := 0, ep := 0, phase := .established, th2 := [], offer := some 0 }, ?_⟩,
    ⟨secs 121 ((onSlot 8 (slotFor 0 .meridianGcm) (onSlot 9 (slotFor 0 .meridianGcm) (tenant))).onSpdm fun x => { x with sessions := put x.sessions 0 (some { target := 0, ep := 0, phase := .established, th2 := [], offer := some 0 }) }), 0, { target := 0, ep := 0, phase := .established, th2 := [], offer := some 0 }, ?_⟩,
    ⟨((onSlot 8 (slotFor 0 .meridianGcm) (onSlot 9 (slotFor 0 .meridianGcm) (tenant))).onSpdm fun x => { x with sessions := put x.sessions 0 (some { target := 0, ep := 0, phase := .established, th2 := [], offer := some 0 }) }).onIsl 60 fun i => { i with timePs := 120 * secondPs + windowPs }, 0, { target := 0, ep := 0, phase := .established, th2 := [], offer := some 0 }, ?_⟩,
    ⟨(up.onSpdm fun x => { x with hold := some (0, 0) }).onIsl 60 fun i => { i with timePs := secondPs / 10 + windowPs }, ?_⟩⟩
  all_goals first | decide +kernel | (dsimp only; decide +kernel)

theorem witness_GxRequests_1 :
    (∃ (s : State) (reach : Nat) (fmt : Nat), (reach = 0xFF ∨ ∃ n : ReachId, reach = n.val ∧
      s.reach[n].state ≠ .empty ∧
      s.reach[n].state ≠ .dredging) ∧
      gxReady s = true ∧
      astHeld 0xE s = false ∧
      fmt ≤ 1) ∧
    (∃ (s : State) (reach : Nat) (fmt : Nat), (reach = 0xFF ∨ ∃ n : ReachId, reach = n.val ∧
      s.reach[n].state ≠ .empty ∧
      s.reach[n].state ≠ .dredging) ∧
      gxReady s = true ∧
      astHeld 0xE s = false ∧
      fmt ≤ 1) ∧
    (∃ (s : State) (reach : Nat) (fmt : Nat), (reach = 0xFF ∨ ∃ n : ReachId, reach = n.val ∧
      s.reach[n].state ≠ .empty ∧
      s.reach[n].state ≠ .dredging) ∧
      gxReady s = true ∧
      astHeld 0xE s = false ∧
      fmt ≤ 1) ∧
    (∃ (s : State) (ep : Nat) (nonce : Vector Byte 32) (off : Nat) (b : Bytes) (l : List Report), gxReady s = true ∧
      0 < off ∧
      s.spdm.reports = { ep, nonce := nonce.toList, bytes := b } :: l) ∧
    (∃ (s : State), gxReady s = true) ∧
    (∃ (s : State) (i : Fin 8) (y : Session), gxReady s = true ∧ sessionServed s i y .established = true) := by
  refine ⟨⟨onSlot 4 (slotFor 0xE .astrolabe) up, 255, 0, .inl rfl, ?_⟩,
    ⟨onSlot 4 (slotFor 0xE .astrolabe) tenant, 0, 1, .inr ⟨0, rfl, by decide, by decide⟩, ?_⟩,
    ⟨onSlot 4 (slotFor 0xE .astrolabe) tenant, 0, 0, .inr ⟨0, rfl, by decide, by decide⟩, ?_⟩,
    ⟨up.onSpdm fun x => { x with reports := [{ ep := 0, nonce := zeros 32, bytes := [1] }] }, 0, Vector.replicate 32 0, 1, [1], [], ?_⟩,
    ⟨up, ?_⟩,
    ⟨(onSlot 8 (slotFor 0 .meridianGcm) (onSlot 9 (slotFor 0 .meridianGcm) (tenant))).onSpdm fun x => { x with sessions := put x.sessions 0 (some { target := 0, ep := 0, phase := .established, th2 := [], offer := some 0 }) }, 0, { target := 0, ep := 0, phase := .established, th2 := [], offer := some 0 }, ?_⟩⟩
  all_goals first | decide +kernel | (dsimp only; decide +kernel)

theorem witness_GxRequests_2 :
    (∃ (s : State) (ep : Nat) (nonce : Vector Byte 32) (off : Nat) (i : Fin 8) (y : Session) (b : Bytes) (l : List Report), gxReady s = true ∧
      sessionServed s i y .established = true ∧
      0 < off ∧
      s.spdm.reports = { ep := y.ep, nonce := nonce.toList, bytes := b } :: l) ∧
    (∃ (s : State), servesMgmt s = true) ∧
    (∃ (s : State), servesMgmt s = true) ∧
    (∃ (s : State) (i : Fin 8) (y : Session) (n : ReachId), sessionServed s i y .established = true ∧
      y.target = n.val ∧
      gxReady s = true ∧
      offerBad s n = none ∧
      astHeld n.val s = false ∧
      s.ast.progLoaded = true) ∧
    (∃ (s : State) (i : Fin 8) (y : Session) (n : ReachId) (line : Nat) (c : Bytes) (iv : Bytes) (w : Bytes) (tag : Bytes), sessionServed s i y .established = true ∧
      y.target = n.val ∧
      gxReady s = true ∧
      deliverBad s y n = none ∧
      astHeld n.val s = false ∧
      c.length = 1568 ∧
      iv.length = 12 ∧
      w.length = 44 ∧
      tag.length = 16 ∧
      y.offer = some line ∧
      s.ast.progLoaded = true ∧
      s.ast.owner = n.val ∧
      hasEntry s.ast line .mlkem = true ∧
      32 ≤ s.reach[n].keyFirst ∧
      s.reach[n].keyFirst + 4 ≤ 256 ∧
      s.eph.slots[(sessSlots i).1].parent = none ∧
      s.eph.slots[(sessSlots i).2].parent = none) ∧
    (∃ (s : State) (i : Fin 8) (y : Session) (n : ReachId) (m : Nat), sessionServed s i y .established = true ∧
      y.target = n.val ∧
      gxReady s = true ∧
      s.reach[n].state = .sealed ∧
      m ≤ 1) := by
  refine ⟨⟨((onSlot 8 (slotFor 0 .meridianGcm) (onSlot 9 (slotFor 0 .meridianGcm) (tenant))).onSpdm fun x => { x with sessions := put x.sessions 0 (some { target := 0, ep := 0, phase := .established, th2 := [], offer := some 0 }) }).onSpdm fun x => { x with reports := [{ ep := 0, nonce := zeros 32, bytes := [1] }] }, 7, Vector.replicate 32 0, 1, 0, { target := 0, ep := 0, phase := .established, th2 := [], offer := some 0 }, [1], [], ?_⟩,
    ⟨blank, ?_⟩,
    ⟨up, ?_⟩,
    ⟨(onSlot 8 (slotFor 0 .meridianGcm) (onSlot 9 (slotFor 0 .meridianGcm) (onSlot 1 (slotFor 0xE .kdf) ((tenant.onReach 0 fun x => { x with state := .loading }).onAst fun a => { a with owner := 0, entries := [{ line := 0, lines := 50, cls := .mlkem }] })))).onSpdm fun x => { x with sessions := put x.sessions 0 (some { target := 0, ep := 0, phase := .established, th2 := [], offer := none }) }, 0, { target := 0, ep := 0, phase := .established, th2 := [], offer := none }, 0, ?_⟩,
    ⟨(onSlot 8 (slotFor 0 .meridianGcm) (onSlot 9 (slotFor 0 .meridianGcm) (onSlot 1 (slotFor 0xE .kdf) ((tenant.onReach 0 fun x => { x with state := .loading }).onAst fun a => { a with owner := 0, entries := [{ line := 0, lines := 50, cls := .mlkem }] })))).onSpdm fun x => { x with sessions := put x.sessions 0 (some { target := 0, ep := 0, phase := .established, th2 := [], offer := some 0 }) }, 0, { target := 0, ep := 0, phase := .established, th2 := [], offer := some 0 }, 0, 0, zeros 1568, zeros 12, zeros 44, zeros 16, ?_⟩,
    ⟨(onSlot 8 (slotFor 0 .meridianGcm) (onSlot 9 (slotFor 0 .meridianGcm) (tenant))).onSpdm fun x => { x with sessions := put x.sessions 0 (some { target := 0, ep := 0, phase := .established, th2 := [], offer := some 0 }) }, 0, { target := 0, ep := 0, phase := .established, th2 := [], offer := some 0 }, 0, 1, ?_⟩⟩
  all_goals first | decide +kernel | (dsimp only; decide +kernel)

theorem witness_GxRequests_3 :
    (∃ (s : State) (i : Fin 8) (y : Session) (n : ReachId) (m : Nat), sessionServed s i y .established = true ∧
      y.target = n.val ∧
      gxReady s = true ∧
      s.reach[n].state = .sealed ∧
      m ≤ 1) ∧
    (∃ (s : State) (i : Fin 8), servesMgmt s = true ∧ s.spdm.sessions[i] = none ∧ s.spdm.drained[i] = true) := by
  refine ⟨⟨(onSlot 8 (slotFor 0 .meridianGcm) (onSlot 9 (slotFor 0 .meridianGcm) (tenant))).onSpdm fun x => { x with sessions := put x.sessions 0 (some { target := 0, ep := 0, phase := .established, th2 := [], offer := some 0 }) }, 0, { target := 0, ep := 0, phase := .established, th2 := [], offer := some 0 }, 0, 0, ?_⟩,
    ⟨up.onSpdm fun x => { x with drained := put x.drained 6 true }, 6, ?_⟩⟩
  all_goals first | decide +kernel | (dsimp only; decide +kernel)

theorem witness_Counters_1 :
    (∃ (s : State) (m : Nat) (u : Fin 71) (k : Fin 8) (d : Word), sysUp s = true ∧
      k.val < progCount u.val ∧
      (readerClass m).isSome = true ∧
      bits d.toNat 8 6 ≤ lastEvent (unitKind u.val) ∧
      (hasReach u.val = false ∨ bits d.toNat 16 4 < 8 ∨ bits d.toNat 16 4 = 0xF)) ∧
    (∃ (s : State) (m : Nat) (u : Fin 71) (k : Fin 8) (d : Word), sysUp s = true ∧
      k.val < progCount u.val ∧
      (readerClass m).isSome = true ∧
      bits d.toNat 8 6 ≤ lastEvent (unitKind u.val) ∧
      (hasReach u.val = false ∨ bits d.toNat 16 4 < 8 ∨ bits d.toNat 16 4 = 0xF)) ∧
    (∃ (s : State) (m : Nat) (u : Fin 71) (k : Fin 8) (d : Word), sysUp s = true ∧
      k.val < progCount u.val ∧
      (readerClass m).isSome = true ∧
      bits d.toNat 8 6 ≤ lastEvent (unitKind u.val) ∧
      (hasReach u.val = false ∨ bits d.toNat 16 4 < 8 ∨ bits d.toNat 16 4 = 0xF)) ∧
    (∃ (s : State) (m : Nat) (u : Fin 71) (k : Fin 8) (d : Word), sysUp s = true ∧
      k.val < progCount u.val ∧
      (readerClass m).isSome = true ∧
      bits d.toNat 8 6 ≤ lastEvent (unitKind u.val) ∧
      (hasReach u.val = false ∨ bits d.toNat 16 4 < 8 ∨ bits d.toNat 16 4 = 0xF)) ∧
    (∃ (s : State) (m : Nat) (u : Fin 71) (k : Fin 8) (d : Word), sysUp s = true ∧
      k.val < progCount u.val ∧
      (readerClass m).isSome = true ∧
      lastEvent (unitKind u.val) < bits d.toNat 8 6) ∧
    (∃ (s : State) (m : Nat) (u : Fin 71) (k : Fin 8) (d : Word), sysUp s = true ∧
      k.val < progCount u.val ∧
      (readerClass m).isSome = true ∧
      hasReach u.val = true ∧
      8 ≤ bits d.toNat 16 4 ∧
      bits d.toNat 16 4 ≠ 0xF) := by
  refine ⟨⟨up, 2, 70, 3, 0x01000201, ?_⟩,
    ⟨up, 13, 38, 0, 0x00070101, ?_⟩,
    ⟨up, 0, 34, 7, 0x000F0501, ?_⟩,
    ⟨{ up with chr := { up.chr with unit := upd up.chr.unit 0 fun x => { x with prog := upd x.prog 3 fun (c : ProgCtr) => { c with en := true, event := 2, value := 7, ovf := true } } } }, 1, 0, 3, 0x06000801, ?_⟩,
    ⟨up, 2, 34, 7, 0x0601, ?_⟩,
    ⟨up, 0, 38, 0, 0x00080001, ?_⟩⟩
  all_goals first | decide +kernel | (dsimp only; decide +kernel)

theorem witness_Counters_2 :
    (∃ (s : State) (m : Nat) (u : Fin 71) (k : Fin 8) (d : Word), sysUp s = true ∧
      k.val < progCount u.val ∧
      (readerClass m).isSome = true ∧
      hasReach u.val = true ∧
      8 ≤ bits d.toNat 16 4 ∧
      bits d.toNat 16 4 ≠ 0xF) ∧
    (∃ (s : State) (m : Nat) (u : Fin 71) (k : Fin 8), sysUp s = true ∧ k.val < progCount u.val ∧ readerClass m = none) ∧
    (∃ (s : State) (mid : Nat) (m : Fin 4) (d : Word) (x : Snap), x = { s.chr.snap[m] with reachView := bit d.toNat 0, reach := bits d.toNat 1 3, unit := bits d.toNat 4 7, cls := bits d.toNat 11 3, ctr := bits d.toNat 14 7, busy := true } ∧
      sysUp s = true ∧
      readerClass mid = some m ∧
      s.chr.snap[m].busy = false ∧
      (bit d.toNat 0 = false ∨ bits d.toNat 11 3 ≤ 5) ∧
      bits d.toNat 4 7 ≤ unitTop (bit d.toNat 0) (bits d.toNat 11 3) ∧
      namesCounter x = true) ∧
    (∃ (s : State) (mid : Nat) (m : Fin 4) (d : Word) (x : Snap), x = { s.chr.snap[m] with reachView := bit d.toNat 0, reach := bits d.toNat 1 3, unit := bits d.toNat 4 7, cls := bits d.toNat 11 3, ctr := bits d.toNat 14 7, busy := true } ∧
      sysUp s = true ∧
      readerClass mid = some m ∧
      s.chr.snap[m].busy = false ∧
      (bit d.toNat 0 = false ∨ bits d.toNat 11 3 ≤ 5) ∧
      bits d.toNat 4 7 ≤ unitTop (bit d.toNat 0) (bits d.toNat 11 3) ∧
      namesCounter x = true) ∧
    (∃ (s : State) (mid : Nat) (m : Fin 4) (d : Word) (x : Snap), x = { s.chr.snap[m] with reachView := bit d.toNat 0, reach := bits d.toNat 1 3, unit := bits d.toNat 4 7, cls := bits d.toNat 11 3, ctr := bits d.toNat 14 7, busy := true } ∧
      sysUp s = true ∧
      readerClass mid = some m ∧
      s.chr.snap[m].busy = false ∧
      (bit d.toNat 0 = false ∨ bits d.toNat 11 3 ≤ 5) ∧
      bits d.toNat 4 7 ≤ unitTop (bit d.toNat 0) (bits d.toNat 11 3) ∧
      namesCounter x = true) ∧
    (∃ (s : State) (mid : Nat) (m : Fin 4) (d : Word) (x : Snap), x = { s.chr.snap[m] with reachView := bit d.toNat 0, reach := bits d.toNat 1 3, unit := bits d.toNat 4 7, cls := bits d.toNat 11 3, ctr := bits d.toNat 14 7, busy := true } ∧
      sysUp s = true ∧
      readerClass mid = some m ∧
      s.chr.snap[m].busy = false ∧
      (bit d.toNat 0 = false ∨ bits d.toNat 11 3 ≤ 5) ∧
      bits d.toNat 4 7 ≤ unitTop (bit d.toNat 0) (bits d.toNat 11 3) ∧
      namesCounter x = true) := by
  refine ⟨⟨up, 2, 58, 3, 0x000E0701, ?_⟩,
    ⟨up, 3, 0, 3, ?_⟩,
    ⟨up, 13, 3, 0x4220, { (up).chr.snap[(3 : Fin 4)] with reachView := bit 0x4220 0, reach := bits 0x4220 1 3, unit := bits 0x4220 4 7, cls := bits 0x4220 11 3, ctr := bits 0x4220 14 7, busy := true }, rfl, ?_⟩,
    ⟨up, 0, 0, 0x2801, { (up).chr.snap[(0 : Fin 4)] with reachView := bit 0x2801 0, reach := bits 0x2801 1 3, unit := bits 0x2801 4 7, cls := bits 0x2801 11 3, ctr := bits 0x2801 14 7, busy := true }, rfl, ?_⟩,
    ⟨up, 2, 2, 0x460, { (up).chr.snap[(2 : Fin 4)] with reachView := bit 0x460 0, reach := bits 0x460 1 3, unit := bits 0x460 4 7, cls := bits 0x460 11 3, ctr := bits 0x460 14 7, busy := true }, rfl, ?_⟩,
    ⟨up, 1, 1, 1049648, { (up).chr.snap[(1 : Fin 4)] with reachView := bit 1049648 0, reach := bits 1049648 1 3, unit := bits 1049648 4 7, cls := bits 1049648 11 3, ctr := bits 1049648 14 7, busy := true }, rfl, ?_⟩⟩
  all_goals first | decide +kernel | (dsimp only; decide +kernel)

theorem witness_Counters_3 :
    (∃ (s : State) (mid : Nat) (m : Fin 4) (d : Word) (x : Snap), x = { s.chr.snap[m] with reachView := bit d.toNat 0, reach := bits d.toNat 1 3, unit := bits d.toNat 4 7, cls := bits d.toNat 11 3, ctr := bits d.toNat 14 7, busy := true } ∧
      sysUp s = true ∧
      readerClass mid = some m ∧
      s.chr.snap[m].busy = true) ∧
    (∃ (s : State) (mid : Nat) (m : Fin 4) (d : Word) (x : Snap), x = { s.chr.snap[m] with reachView := bit d.toNat 0, reach := bits d.toNat 1 3, unit := bits d.toNat 4 7, cls := bits d.toNat 11 3, ctr := bits d.toNat 14 7, busy := true } ∧
      sysUp s = true ∧
      readerClass mid = some m ∧
      (bit d.toNat 0 = false ∨ bits d.toNat 11 3 ≤ 5) ∧
      bits d.toNat 4 7 ≤ unitTop (bit d.toNat 0) (bits d.toNat 11 3) ∧
      ctrCodeOk (bits d.toNat 14 7) = true ∧
      namesCounter x = false) ∧
    (∃ (s : State) (mid : Nat) (m : Fin 4) (d : Word) (x : Snap), x = { s.chr.snap[m] with reachView := bit d.toNat 0, reach := bits d.toNat 1 3, unit := bits d.toNat 4 7, cls := bits d.toNat 11 3, ctr := bits d.toNat 14 7, busy := true } ∧
      sysUp s = true ∧
      readerClass mid ≠ some m) ∧
    (∃ (s : State) (m : Fin 4), s.chr.snap[m].busy = true) := by
  refine ⟨⟨{ up with chr := { up.chr with snap := upd up.chr.snap 2 fun x => { x with busy := true } } }, 2, 2, 1, { ({ up with chr := { up.chr with snap := upd up.chr.snap 2 fun x => { x with busy := true } } }).chr.snap[(2 : Fin 4)] with reachView := bit 1 0, reach := bits 1 1 3, unit := bits 1 4 7, cls := bits 1 11 3, ctr := bits 1 14 7, busy := true }, rfl, ?_⟩,
    ⟨up, 2, 2, 81920, { (up).chr.snap[(2 : Fin 4)] with reachView := bit 81920 0, reach := bits 81920 1 3, unit := bits 81920 4 7, cls := bits 81920 11 3, ctr := bits 81920 14 7, busy := true }, rfl, ?_⟩,
    ⟨up, 2, 1, 0, { (up).chr.snap[(1 : Fin 4)] with reachView := bit 0 0, reach := bits 0 1 3, unit := bits 0 4 7, cls := bits 0 11 3, ctr := bits 0 14 7, busy := true }, rfl, ?_⟩,
    ⟨{ up with chr := { up.chr with snap := upd up.chr.snap 2 fun x => { x with busy := true } } }, 2, ?_⟩⟩
  all_goals first | decide +kernel | (dsimp only; decide +kernel)

theorem witness_EyepieceAccesses_1 :
    (∃ (s : State) (m : Nat) (n : ReachId) (b : BargeId), mgmtUp s = true ∧
      eyeReachable s m = true ∧
      s.eye.memReach = n.val ∧
      openNow s n = true ∧
      s.slu.state ≠ .keep ∧
      s.slu.state ≠ .off ∧
      s.eye.memTarget = 0 ∧
      eyeBarge s = some b ∧
      s.eye.memAddr + 4 ≤ 0x180000 ∧
      s.barge[b].weak = [] ∧
      s.barge[b].bad = []) ∧
    (∃ (s : State) (m : Nat) (n : ReachId), mgmtUp s = true ∧
      eyeReachable s m = true ∧
      s.eye.memReach = n.val ∧
      openNow s n = true ∧
      s.slu.state ≠ .keep ∧
      s.slu.state ≠ .off ∧
      s.eye.memTarget = 1 ∧
      s.eye.memAddr + 4 ≤ shareSize s (svcOf n) ∧
      s.eye.memAddr + 4 < 2 ^ 24 ∧
      refusingUnits s (svcOf n) s.eye.memAddr 4 = [] ∧
      s.basin.weak = [] ∧
      s.basin.bad = []) ∧
    (∃ (s : State) (m : Nat) (n : ReachId), mgmtUp s = true ∧
      eyeReachable s m = true ∧
      s.eye.memReach = n.val ∧
      openNow s n = true ∧
      s.slu.state ≠ .keep ∧
      s.slu.state ≠ .off ∧
      s.eye.memTarget = 2 ∧
      s.eye.memAddr + 4 ≤ 65536) ∧
    (∃ (s : State) (m : Nat) (n : ReachId), mgmtUp s = true ∧ eyeReachable s m = true ∧ s.eye.memReach = n.val ∧ s.reach[n].debug ≠ .opened) ∧
    (∃ (s : State) (m : Nat) (n : ReachId), mgmtUp s = true ∧ eyeReachable s m = true ∧ coreVisible s n.val = true) ∧
    (∃ (s : State) (m : Nat) (n : ReachId), mgmtUp s = true ∧ eyeReachable s m = true ∧ coreVisible s n.val = true) := by
  refine ⟨⟨(sailing.onReach 0 fun x => { x with debug := .opened }).onEye fun e => { e with memAddr := 0x17FFFC }, 2, 0, 3, ?_⟩,
    ⟨(sailing.onReach 0 fun x => { x with debug := .opened }).onEye fun e => { e with memAddr := 1572860, memTarget := 1 }, 2, 0, ?_⟩,
    ⟨(sailing.onReach 0 fun x => { x with debug := .opened }).onEye fun e => { e with memAddr := 65532, memTarget := 2, tapUnlocked := true }, 13, 0, ?_⟩,
    ⟨tenant.onEye fun e => { e with memAddr := 0xFFFFFC }, 2, 0, ?_⟩,
    ⟨(sailing.onReach 0 fun x => { x with debug := .opened }).onEye fun e => { e with memAddr := 0x17FFFC }, 2, 0, ?_⟩,
    ⟨(sailing.onReach 0 fun x => { x with debug := .opened }).onEye fun e => { e with memAddr := 0x17FFFC, tapUnlocked := true }, 13, 0, ?_⟩⟩
  all_goals first | decide +kernel | (dsimp only; decide +kernel)

theorem witness_EyepieceAccesses_2 :
    (∃ (s : State) (m : Nat), mgmtUp s = true ∧ eyeReachable s m = true ∧ coreVisible s 0xE = true) ∧
    (∃ (s : State) (m : Nat), mgmtUp s = true ∧ eyeReachable s m = true ∧ coreVisible s 0xE = true) ∧
    (∃ (s : State) (m : Nat) (n : ReachId), mgmtUp s = true ∧
      eyeReachable s m = true ∧
      coreVisible s n.val = true ∧
      s.keeper[svcOf n].dbgHalted = true ∧
      s.eye.haltBit = true) ∧
    (∃ (s : State), mgmtUp s = true ∧ s.eye.win = none ∧ s.eye.winDone = true) ∧
    (∃ (s : State), mgmtUp s = true ∧ (s.eye.win.isSome = true ∨ s.eye.winDone = false)) ∧
    (∃ (s : State), mgmtUp s = true ∧ s.eye.win.isSome = true) := by
  refine ⟨⟨up.onMer fun m => { m with lc := .test }, 2, ?_⟩,
    ⟨(blank.onMer fun m => { m with halted := true }).onEye fun e => { e with tapUnlocked := true }, 13, ?_⟩,
    ⟨((sailing.onReach 0 fun x => { x with debug := .opened }).onEye fun e => { e with memAddr := 0x17FFFC, haltBit := true }).onKeeper 0 fun k => { k with dbgHalted := true }, 2, 0, ?_⟩,
    ⟨up, ?_⟩,
    ⟨up.onEye fun e => { e with winDone := false }, ?_⟩,
    ⟨up.onEye fun e => { e with win := some { write := false, offset := 0x70000, data := 0 } }, ?_⟩⟩
  all_goals first | decide +kernel | (dsimp only; decide +kernel)

theorem witness_EyepieceAccesses_3 :
    (∃ (s : State), mgmtUp s = true ∧ s.eye.win = none) ∧
    (∃ (s : State) (a : WinAccess), mgmtUp s = true ∧ s.eye.win = some a ∧ s.eye.tapUnlocked = false) ∧
    (∃ (s : State) (a : WinAccess), mgmtUp s = true ∧ s.eye.win = some a ∧ s.eye.tapUnlocked = true ∧ a.write = false ∧ a.offset = 0x70000) := by
  refine ⟨⟨up, ?_⟩,
    ⟨up.onEye fun e => { e with win := some { write := false, offset := 0x70000, data := 0 } }, { write := false, offset := 0x70000, data := 0 }, ?_⟩,
    ⟨up.onEye fun e => { e with win := some { write := false, offset := 0x70000, data := 0 }, tapUnlocked := true }, { write := false, offset := 0x70000, data := 0 }, ?_⟩⟩
  all_goals first | decide +kernel | (dsimp only; decide +kernel)

theorem witness_DebugLowering :
    (∃ (s : State) (n : ReachId) (lv : Nat) (d : Debug), operatorReady s = true ∧
      debugOf lv = some d ∧
      (d = .closed ∧
      s.reach[n].debug ≠ .closed ∨ d = .observe ∧
      s.reach[n].debug = .opened) ∧
      (s.reach[n].state = .loading ∨ s.reach[n].state = .sealed) ∧
      (s.mer.lcMarginal = true → d = .closed)) ∧
    (∃ (s : State) (n : ReachId) (lv : Nat) (d : Debug), operatorReady s = true ∧
      debugOf lv = some d ∧
      (d = .closed ∧
      s.reach[n].debug ≠ .closed ∨ d = .observe ∧
      s.reach[n].debug = .opened) ∧
      (s.reach[n].state = .loading ∨ s.reach[n].state = .sealed) ∧
      (s.mer.lcMarginal = true → d = .closed)) := by
  refine ⟨⟨(tenant.onReach 0 fun x => { x with debug := .opened }).onKeeper 0 fun k => { k with dbgHalted := true }, 0, 1, .observe, ?_⟩,
    ⟨(tenant.onReach 0 fun x => { x with debug := .observe }).onMer fun m => { m with lcMarginal := true }, 0, 0, .closed, ?_⟩⟩
  all_goals first | decide +kernel | (dsimp only; decide +kernel)

theorem witness_NanScale :
    (∃ (s : State) (g : Barge) (d : Desc) (i1 : Nat) (i2 : Nat) (i3 : Nat) (k : Nat) (n : Nat) (ws : List Word) (xs : List Nat) (i : Nat), d.fmt ≠ 0xA ∧
      loadLanes s g d i1 i2 i3 k n = some ws ∧
      readScales s g d (rowIndex d i1 i2 i3) (k / 32) ((k + n + 31) / 32 - k / 32) = some xs ∧
      i < n ∧
      xs.getD ((k + i) / 32 - k / 32) 127 = 255) ∧
    (∃ (a : TileRow) (b : TileRow) (n : Nat) (j : Nat), j < n ∧ (a.scales.getD j 127 = 255 ∨ b.scales.getD j 127 = 255)) := by
  refine ⟨⟨withDescs [tdesc 0 0x14 0 32 1 0x1000 0x2000] (onB3 (fun g => { g with spad := memPut g.spad 0x2000 [0xFF] }) sailing), (withDescs [tdesc 0 0x14 0 32 1 0x1000 0x2000] (onB3 (fun g => { g with spad := memPut g.spad 0x2000 [0xFF] }) sailing)).barge[3], readDesc (withDescs [tdesc 0 0x14 0 32 1 0x1000 0x2000] (onB3 (fun g => { g with spad := memPut g.spad 0x2000 [0xFF] }) sailing)).barge[3] 0, 0, 0, 0, 0, 2, [canonNan, canonNan], [255], 1, ?_⟩,
    ⟨{ vals := [], scales := [255], sparse := none }, { vals := [], scales := [], sparse := none }, 1, 0, ?_⟩⟩
  all_goals first | decide +kernel | (dsimp only; decide +kernel)

theorem witness_WordsRoundTrip :
    (∃ (i : Instr) (b : BargeId) (w : Nat), encodeWord i = some w ∧ barge? i = some b) ∧
    (∃ (b : BargeId) (w : Nat) (i : Instr), decodeWord b w = some i) := by
  refine ⟨⟨.nop 0, 0, 0, ?_⟩,
    ⟨33, 0, .nop 33, ?_⟩⟩
  all_goals first | decide +kernel | (dsimp only; decide +kernel)

theorem witness_StepRunsFront :
    (∃ (s : State) (c : Instr) (l : List Instr), s.pending = c :: l) ∧
    (∃ (s : State), s.pending = []) := by
  refine ⟨⟨{ up with pending := [.pwrWake] }, .pwrWake, [], ?_⟩,
    ⟨up, ?_⟩⟩
  all_goals first | decide +kernel | (dsimp only; decide +kernel)

theorem witness_FusesNeverClear : ∃ (s t : State) (w j : Nat), step s = .next t ∧ s.fuse w j = true :=
  ⟨{ (up.onAlm fun a => { a with words := [(64, 1)] }) with pending := [.ackLog] }, _, 64, 0, rfl, by decide +kernel⟩

end Sys2Proof.Tests
end

section
/-! What a shared scale does to the elements of its block (R58): the lanes of a vector load and the leaves of a matrix product, each
by its index. -/

namespace Sys2Proof.Machine

@[simp] theorem unpackBits_length (w n pos num : Nat) : (unpackBits w n pos num).length = n := by
  simp [unpackBits]

theorem length_of_readCodes {s : State} {g : Barge} {d : Desc} {row k n : Nat} {cs : List Nat}
    (h : readCodes s g d row k n = some cs) : cs.length = n := by
  rw [readCodes, Option.ite_none_right_eq_some] at h
  obtain ⟨-, hcs⟩ := h
  rw [← Option.some.inj hcs, unpackBits_length]

/-- Lane `i` of a load is one stored element under the scale of the block it lies in, blocks counted from the first one read. -/
theorem loadLanes_getElem? {s : State} {g : Barge} {d : Desc} {i1 i2 i3 k n i : Nat} {ws : List Word} {xs : List Nat}
    (hf : d.fmt ≠ 0xA) (hl : loadLanes s g d i1 i2 i3 k n = some ws)
    (hx : readScales s g d (rowIndex d i1 i2 i3) (k / 32) ((k + n + 31) / 32 - k / 32) = some xs) (hi : i < n) :
    ∃ (c : Nat) (x : Int), x = (xs.getD ((k + i) / 32 - k / 32) 127 : Nat) ∧
      ws[i]? = some (if x = 255 then canonNan else fenc ((elemVal d.fmt d.bs c).scale (x - 127))) := by
  obtain ⟨cs, hcs, hl⟩ := Option.bind_eq_some_iff.mp hl
  rw [if_neg hf, hx, Option.map_some] at hl
  have hic : i < cs.length := length_of_readCodes hcs ▸ hi
  refine ⟨cs[i], _, rfl, ?_⟩
  rw [← Option.some.inj hl, List.getElem?_mapIdx, List.getElem?_eq_getElem hic, Option.map_some]

@[simp] theorem leafNarrow_bad (prods : List Val) (scale : Int) : leafNarrow prods scale true = canonNan := by
  simp [leafNarrow]

theorem narrowLeaves_getElem? (a b : TileRow) {n j : Nat} (hj : j < n) :
    (narrowLeaves a b n)[j]? = some (leafNarrow (blockProds a b j)
      ((a.scales.getD j 127 : Int) + (b.scales.getD j 127 : Int) - 254)
      (a.scales.getD j 127 == 255 || b.scales.getD j 127 == 255)) := by
  rw [narrowLeaves, List.getElem?_map, List.getElem?_range hj, Option.map_some]

/-- Settles O56: the load's lane and the product's leaf, read at one index, both branch on a scale of 0xFF first. -/
theorem nanScale : Obligations.NanScale := by
  unfold Obligations.NanScale
  constructor
  · intro s g d i1 i2 i3 k n ws xs i hf hl hx hi h255
    obtain ⟨c, x, hxs, hw⟩ := loadLanes_getElem? hf hl hx hi
    have hx255 : x = 255 := by omega
    rw [hw, if_pos hx255]
  · intro a b n j hj h255
    have hbad : (a.scales.getD j 127 == 255 || b.scales.getD j 127 == 255) = true := by simpa using h255
    rw [narrowLeaves_getElem? a b hj, hbad, leafNarrow_bad]

end Sys2Proof.Machine
end

section
/-! Towpath's bindings and the two ends of a channel (R346, R347, R349, R350, R354): what Meridian's writes do, and that a command of
anybody else leaves every channel and endpoint alone. -/

namespace Sys2Proof.Machine

/-! ### Operations of the state -/

/-- The newest record is kept, whatever the buffer of 64 drops (R215). -/
theorem audit_getLast? (a : Audit) (s : State) : (audit a s).sys.audit.getLast? = some a := by
  change ((s.sys.audit ++ [a]).drop ((s.sys.audit ++ [a]).length - 64)).getLast? = some a
  have hkept : ¬ (s.sys.audit ++ [a]).length ≤ (s.sys.audit ++ [a]).length - 64 := by
    rw [List.length_append, List.length_singleton]
    omega
  rw [List.getLast?_drop, if_neg hkept, List.getLast?_concat]

theorem audit_auditCount (a : Audit) (s : State) : (audit a s).sys.auditCount = s.sys.auditCount + 1 := rfl

theorem onTwpChan_get_self (c : ChanId) (f : TwpChan → TwpChan) (s : State) :
    (onTwpChan c f s).twp.chan[c] = f s.twp.chan[c] := upd_get_self ..

theorem onTwpChan_get_of_ne {c x : ChanId} (f : TwpChan → TwpChan) (s : State) (h : x ≠ c) :
    (onTwpChan c f s).twp.chan[x] = s.twp.chan[x] := upd_get_other _ _ _ _ _ (Fin.val_ne_of_ne h.symm)

theorem onTwpChan_ep (c : ChanId) (f : TwpChan → TwpChan) (s : State) : (onTwpChan c f s).twp.ep = s.twp.ep := rfl

/-- Leaving KEEP touches no channel and no endpoint (R372). -/
@[simp] theorem twpWake_twp (m : Nat) (s : State) : (twpWake m s).twp = s.twp := (twpWake_changes m s).twp (by decide)

/-- Outside KEEP a write wakes nothing: it only withdraws an entry to KEEP that waits. That a write of the System Port alone does so
(identities 0x00 and 0x01) is the model's choice, entry 65 of its log. -/
theorem twpWake_of_ne_keep {s : State} (m : Nat) (hk : s.slu.state ≠ .keep) :
    twpWake m s = s.onSlu fun u => if m ≤ 1 then { u with keepPending := false } else u := by
  by_cases hm : m ≤ 1
  · simp only [twpWake, keepWake, if_pos hm, if_neg hk]
  · simp only [twpWake, if_neg hm, State.onSlu]

theorem twpMaster_iff (mid : Nat) : twpMaster mid = true ↔ mid = 0 ∨ mid = 1 ∨ 3 ≤ mid ∧ mid ≤ 0x0C := by
  simp [twpMaster, or_assoc]

/-! ### Bindings (R346, R347, R354) -/

/-- A channel as Meridian binds it: one that was UNBOUND becomes EMPTY, any other keeps its state. -/
def TwpChan.bindTo (sender receiver : Nat) (y : TwpChan) : TwpChan :=
  { y with sender, receiver, valid := true, state := if y.state = .unbound then .empty else y.state }

theorem TwpChan.bindTo_state_ne_unbound (a b : Nat) (y : TwpChan) : (y.bindTo a b).state ≠ .unbound := by
  unfold TwpChan.bindTo
  split
  · exact TwpState.noConfusion
  · assumption

theorem execTwpBindWrite_binds {s : State} (c : ChanId) {d : Word} (hl : s.twp.lock = false) (hv : bit d.toNat 16 = true)
    (ha : twpMaster (bits d.toNat 0 8) = true) (hb : twpMaster (bits d.toNat 8 8) = true) (hab : bits d.toNat 0 8 ≠ bits d.toNat 8 8) :
    execTwpBindWrite 3 c d s = .next (onTwpChan c (TwpChan.bindTo (bits d.toNat 0 8) (bits d.toNat 8 8)) s) := by
  have hopen : ¬ ((3 : Nat) ≠ 3 ∨ s.twp.lock = true) := by simp [hl]
  have hgood : ¬ (bit d.toNat 16 && !(twpMaster (bits d.toNat 0 8) && twpMaster (bits d.toNat 8 8) &&
      bits d.toNat 0 8 != bits d.toNat 8 8)) = true := by simp [ha, hb, hab]
  exact (if_neg hopen).trans ((if_neg hgood).trans (if_pos hv))

theorem execTwpBindWrite_wrong_identity {s : State} (c : ChanId) {d : Word} (hl : s.twp.lock = false) (hv : bit d.toNat 16 = true)
    (h : twpMaster (bits d.toNat 0 8) = false ∨ twpMaster (bits d.toNat 8 8) = false ∨ bits d.toNat 0 8 = bits d.toNat 8 8) :
    ∃ a, execTwpBindWrite 3 c d s = .next (audit a s) ∧ a.rule = AuditRule.encoding := by
  have hopen : ¬ ((3 : Nat) ≠ 3 ∨ s.twp.lock = true) := by simp [hl]
  have hbad : (bit d.toNat 16 && !(twpMaster (bits d.toNat 0 8) && twpMaster (bits d.toNat 8 8) &&
      bits d.toNat 0 8 != bits d.toNat 8 8)) = true := by
    rcases h with h | h | h <;> simp [hv, h]
  exact ⟨_, (if_neg hopen).trans (if_pos hbad), rfl⟩

theorem execTwpBindWrite_not_allowed {s : State} {m : Nat} (c : ChanId) (d : Word) (h : m ≠ 3 ∨ s.twp.lock = true) :
    execTwpBindWrite m c d s = .next (twpWake m s) := if_pos h

theorem execTwpLock_of_ne {m : Nat} (s : State) (h : m ≠ 3) : execTwpLock m s = .next (twpWake m s) := if_neg h

/-! ### The two ends of a channel (R349, R350) -/

/-- Towpath does not obey the command of `m` that answers `o`: it leaves KEEP, and at most a record is added. -/
def NotObeyed (m : Nat) (s : State) (o : Out) : Prop :=
  ∃ t, o = .next t ∧ (t = twpWake m s ∨ ∃ a, t = audit a (twpWake m s))

/-- Outside KEEP such a command changes nothing but Sluice's waiting entry to KEEP and what the System Port records. -/
theorem NotObeyed.frame {m : Nat} {s : State} {o : Out} (h : NotObeyed m s o) (hk : s.slu.state ≠ .keep) :
    ∃ t, o = .next t ∧ t = { s with slu := t.slu, sys := t.sys } := by
  rcases h with ⟨t, ho, rfl | ⟨a, rfl⟩⟩ <;>
    exact ⟨_, ho, by rw [twpWake_of_ne_keep m hk]; rfl⟩

section
variable {s : State} {c : ChanId} {m : Nat}

theorem execTwpMsgWrite_not_sender (w : Fin 16) (d : Word) (h : s.twp.chan[c].state = .unbound ∨ m ≠ s.twp.chan[c].sender) :
    NotObeyed m s (execTwpMsgWrite m c w d s) := by
  simp only [execTwpMsgWrite, twpWake_twp]
  cases hs : s.twp.chan[c].state with
  | unbound => exact ⟨_, rfl, .inr ⟨_, rfl⟩⟩
  | empty | full => exact ⟨_, if_neg (h.resolve_left (by rw [hs]; exact TwpState.noConfusion)), .inl rfl⟩

theorem execSend_not_sender (h : s.twp.chan[c].state = .unbound ∨ m ≠ s.twp.chan[c].sender) : NotObeyed m s (execSend m c s) := by
  simp only [execSend, twpWake_twp]
  cases hs : s.twp.chan[c].state with
  | unbound => exact ⟨_, rfl, .inr ⟨_, rfl⟩⟩
  | empty | full => exact ⟨_, if_neg (h.resolve_left (by rw [hs]; exact TwpState.noConfusion)), .inl rfl⟩

theorem execTaken_not_receiver (h : s.twp.chan[c].state = .unbound ∨ m ≠ s.twp.chan[c].receiver) : NotObeyed m s (execTaken m c s) := by
  simp only [execTaken, twpWake_twp]
  cases hs : s.twp.chan[c].state with
  | unbound => exact ⟨_, rfl, .inr ⟨_, rfl⟩⟩
  | empty | full => exact ⟨_, if_neg (h.resolve_left (by rw [hs]; exact TwpState.noConfusion)), .inl rfl⟩

end

/-- Settles O24: each write takes one known branch of its command, and a command that is not obeyed differs from its state by the wake
and a record. -/
theorem towpathBindings : Obligations.TowpathBindings := by
  unfold Obligations.TowpathBindings
  intro s c
  refine ⟨?binds, ?wrongIdentity, ?notAllowed, ?lock, ?lockOfOthers, ?ends, twpMaster_iff⟩
  case binds =>
    intro d hl hv ha hb hab
    have hc := onTwpChan_get_self c (TwpChan.bindTo (bits d.toNat 0 8) (bits d.toNat 8 8)) s
    exact ⟨_, execTwpBindWrite_binds c hl hv ha hb hab, rfl, congrArg TwpChan.sender hc, congrArg TwpChan.receiver hc,
      congrArg TwpChan.valid hc, hc ▸ TwpChan.bindTo_state_ne_unbound _ _ _, onTwpChan_ep .., fun _ hx => onTwpChan_get_of_ne _ s hx⟩
  case wrongIdentity =>
    intro d hl hv h
    obtain ⟨a, ht, ha⟩ := execTwpBindWrite_wrong_identity c hl hv h
    exact ⟨audit a s, ht, rfl, audit_auditCount a s, by rw [audit_getLast?, Option.map_some, ha]⟩
  case notAllowed => exact fun m d h => execTwpBindWrite_not_allowed c d h
  case lock => exact ⟨_, rfl, rfl⟩
  case lockOfOthers => exact fun m h => execTwpLock_of_ne s h
  case ends =>
    intro hk m w d
    exact ⟨fun h => ⟨(execTwpMsgWrite_not_sender w d h).frame hk, (execSend_not_sender h).frame hk⟩,
      fun h => (execTaken_not_receiver h).frame hk⟩

end Sys2Proof.Machine
end

section
/-! The operator's commands in service (R292, R295, R372, R390), and a lowering of a debug level (R384). A command in service runs in a
state that differs from the one before it only in what its message touches, and little changes after it. -/

namespace Sys2Proof.Machine

/-! ### One message of a session that serves (R256, R257, R292) -/

/-- The state with a key slot written. -/
def State.putSlot (s : State) (i : SlotId) (x : Slot) : State := s.onEph fun k => { k with slots := put k.slots i x }

theorem State.putSlot_self (s : State) (i : SlotId) : s.putSlot i s.eph.slots[i] = s := by
  have hput : put s.eph.slots i s.eph.slots[i] = s.eph.slots := Vector.set_getElem_self _
  rw [putSlot, onEph, hput]

theorem State.putSlot_changes (s : State) (i : SlotId) (x : Slot) : Changes [.eph] s (s.putSlot i x) := onEph_changes _ _

theorem keyReady_putSlot_of_ne {i j : SlotId} (hij : i.val ≠ j.val) (s : State) (x : Slot) (e : Engine) (o : Nat) :
    keyReady (s.putSlot i x) j e o = keyReady s j e o := by
  simp [keyReady, State.putSlot, hij]

theorem keyReady_iff {s : State} {i : SlotId} {e : Engine} {o : Nat} : keyReady s i e o = true ↔
    judgeUse s.eph.slots[i] e o = Code.done ∧ (s.eph.slots[i].lifetime = .counted → 2 ≤ s.eph.slots[i].uses) := by
  simp only [keyReady, Bool.and_eq_true, beq_iff_eq, Bool.or_eq_true, bne_iff_ne, decide_eq_true_eq, ne_eq, Decidable.imp_iff_not_or]

/-- A use of a key that is ready is granted, and writes its own slot alone. -/
theorem useKey_of_ready {s : State} {i : SlotId} {e : Engine} {o : Nat} (h : keyReady s i e o = true) :
    ∃ x, useKey i e o s = (Code.done, s.eph.slots[i].key, s.putSlot i x) := by
  obtain ⟨hjudged, huses⟩ := keyReady_iff.mp h
  by_cases hcounted : s.eph.slots[i].lifetime = .counted
  · have hnotLast : ¬ s.eph.slots[i].uses ≤ 1 := Nat.not_le.mpr (huses hcounted)
    refine ⟨{ s.eph.slots[i] with uses := s.eph.slots[i].uses - 1 }, ?_⟩
    simp only [useKey, hjudged, if_pos hcounted, if_neg hnotLast, if_true, State.putSlot]
  · refine ⟨s.eph.slots[i], ?_⟩
    simp only [useKey, hjudged, if_neg hcounted, if_true, State.putSlot_self]

theorem sessSlots_ne (i : Fin 8) : (sessSlots i).1.val ≠ (sessSlots i).2.val := by
  simp only [sessSlots]
  omega

/-- In a ready session both records are granted: the command runs, and after it the session may end. -/
theorem inSession_of_ready (what : String) {i : Fin 8} {y : Session} (f : State → State) {s : State} (h : sessionReady s i y = true) :
    ∃ u, Changes [.eph, .spdm] s u ∧ Changes [.port, .eph, .spdm, .chr] (f u) (inSession what i y f s) := by
  obtain ⟨hreq, hresp⟩ := (Bool.and_eq_true _ _).mp h
  obtain ⟨x, hx⟩ := useKey_of_ready (s := asType 0x06 s) hreq
  obtain ⟨z, hz⟩ := useKey_of_ready ((keyReady_putSlot_of_ne (sessSlots_ne i) (asType 0x06 s) x .meridianGcm y.target).trans hresp)
  have hend : ∀ (t : State) (c : Bool), Changes [.port, .eph, .spdm, .chr] t (if c then endSession i t else t) := by
    intro t c
    cases c with
    | false => exact Changes.refl _ t
    | true => exact endSession_changes i t
  simp only [inSession, hx, hz, ne_eq, not_true_eq_false, or_self, if_false]
  refine ⟨_, ?_, hend _ _⟩
  exact (State.onSpdm_changes _ _).after (by decide) <| (State.putSlot_changes _ _ _).after (by decide) <|
    (State.putSlot_changes _ _ _).after (by decide) <| (asType_changes _ _).mono (by decide)

/-! ### Operator commands in service (R295, R372) -/

theorem keepWake_of_ne_keep {s : State} (h : s.slu.state ≠ .keep) :
    keepWake s = s.onSlu fun u => { u with keepPending := false } := if_neg h

theorem gxRefusal_congr {s t : State} (hm : t.mer = s.mer) (he : t.eph = s.eph) (ha : t.ast = s.ast) : gxRefusal t = gxRefusal s := by
  rw [gxRefusal, gxRefusal, hm, he, ha]

theorem sessionOf_congr {s t : State} (h : t.spdm.sessions = s.spdm.sessions) (target : Nat) :
    sessionOf t target = sessionOf s target := by
  rw [sessionOf, sessionOf, h]

theorem sessionReady_congr {s t : State} (h : t.eph = s.eph) (i : Fin 8) (y : Session) : sessionReady t i y = sessionReady s i y := by
  rw [sessionReady, sessionReady, keyReady, keyReady, keyReady, keyReady, h]

/-- Outside KEEP a message touches the type of the one in service, a waiting entry to KEEP and Chronograph's counters. -/
theorem mctpMessage_keepWake_changes {s : State} (h : s.slu.state ≠ .keep) : Changes [.slu, .spdm, .chr] s (mctpMessage (keepWake s)) := by
  rw [keepWake_of_ne_keep h]
  exact (mctpMessage_changes _).after (by decide) <| (State.onSlu_changes _ _).mono (by decide)

theorem mctpMessage_sessions (s : State) : (mctpMessage s).spdm.sessions = s.spdm.sessions := by
  rw [mctpMessage, asType, State.onSpdm_spdm, (chrEvent_changes _ _ _ _ s).spdm (by decide)]

/-- In service Meridian takes the message and hands it to the operator's session. -/
theorem operator_eq_inSession (what : String) (f : State → State) {s : State} (h : operatorReady s = true) :
    ∃ i y t, Changes [.slu, .spdm, .chr] s t ∧ sessionReady t i y = true ∧ operator what f s = inSession what i y f t := by
  simp only [operatorReady, servesMgmt, Bool.and_eq_true, bne_iff_ne, Bool.not_eq_true', Option.isNone_iff_eq_none] at h
  obtain ⟨⟨⟨⟨hup, hkeep⟩, hrun⟩, hgx⟩, hsess⟩ := h
  split at hsess
  case h_2 => exact absurd hsess Bool.false_ne_true
  case h_1 i y hop =>
    have hmsg := mctpMessage_keepWake_changes hkeep
    have ht := (handled_changes (mctpMessage (keepWake s))).after (by decide) hmsg
    have hsessions : (handled (mctpMessage (keepWake s))).spdm.sessions = s.spdm.sessions := by
      rw [(handled_changes _).spdm (by decide), mctpMessage_sessions, keepWake_of_ne_keep hkeep, State.onSlu_spdm]
    have hrun' : (mctpMessage (keepWake s)).mer.halted = false := hmsg.mer (by decide) ▸ hrun
    have hgx' := (gxRefusal_congr (ht.mer (by decide)) (ht.eph (by decide)) (ht.ast (by decide))).trans hgx
    have hop' := (sessionOf_congr hsessions operatorTarget).trans hop
    refine ⟨i, y, _, ht, (sessionReady_congr (ht.eph (by decide)) i y).trans hsess, ?_⟩
    simp only [operator, hup, hrun', hgx', hop', Bool.not_true, Bool.false_eq_true, if_false]

/-- An operator command in service runs once: before it only the session, its keys, Chronograph's counters and a waiting entry to KEEP
are touched, after it only what the end of a session takes. -/
theorem operator_of_ready (what : String) (f : State → State) {s : State} (h : operatorReady s = true) :
    ∃ u, Changes [.eph, .slu, .spdm, .chr] s u ∧ Changes [.port, .eph, .spdm, .chr] (f u) (operator what f s) := by
  obtain ⟨i, y, t, hst, hready, hrun⟩ := operator_eq_inSession what f h
  obtain ⟨u, htu, hafter⟩ := inSession_of_ready what f hready
  exact ⟨u, htu.after (by decide) (hst.mono (by decide)), hrun ▸ hafter⟩

/-- A reach command in service that nothing refuses takes its effect on the reach it names. -/
theorem reachCommand_of_ready (what : String) (n : ReachId) {bad : State → ReachId → Option Nat} (f : ReachId → State → State) {s : State}
    (h : operatorReady s = true) (hbad : ∀ u, Changes [.eph, .slu, .spdm, .chr] s u → bad u n = none) :
    ∃ u, Changes [.eph, .slu, .spdm, .chr] s u ∧ Changes [.port, .eph, .spdm, .chr, .out] (f n u) (reachCommand what n.val bad f s) := by
  obtain ⟨u, hsu, hafter⟩ := operator_of_ready what _ h
  have hu : Changes [.eph, .slu, .spdm, .chr] s (reachHandled u) := (reachHandled_changes u).after (by decide) hsu
  refine ⟨reachHandled u, hu, hafter.after (by decide) ?_⟩
  simp only [fin?_some n.isLt, Fin.eta, hbad _ hu, judged]
  exact (answer_changes _ _ _).mono (by decide)

/-! ### Debug levels (R384) -/

theorem debugOf_eq_some {lv : Nat} {d : Debug} (h : debugOf lv = some d) : lv = debugCode d := by
  unfold debugOf at h
  split at h <;> cases h <;> rfl

theorem debugCode_le_two (d : Debug) : debugCode d ≤ 2 := by cases d <;> decide

/-- A level that the reach's state and the life-cycle word allow is not refused. -/
theorem debugBad_eq_none {s : State} {n : ReachId} {lv : Nat} (hlv : lv ≤ 2) (hlc : s.mer.lcMarginal = true → lv = 0)
    (hst : s.reach[n].state = .loading ∨ s.reach[n].state = .sealed) : debugBad s n lv = none := by
  have hmarginal : ¬ (s.mer.lcMarginal = true ∧ lv ≠ 0) := fun ⟨hm, h0⟩ => h0 (hlc hm)
  have hserved : ¬ (s.reach[n].state = .draining ∨ s.reach[n].state = .dredging) := by
    rcases hst with hst | hst <;> rw [hst] <;> decide
  rw [debugBad, if_neg (Nat.not_lt.mpr hlv), if_neg hmarginal, if_neg hserved]

/-- The debug level of a reach that is not EMPTY goes below OPEN: nothing but the level, and the halt of its keeper core. -/
theorem setDebug_of_ne_opened {s : State} {n : ReachId} {d : Debug} (hst : s.reach[n].state ≠ .empty) (hd : d ≠ .opened) :
    setDebug n d s = (s.onReach n fun x => { x with debug := d }).onKeeper (svcOf n)
      fun k => { k with dbgHalted := k.dbgHalted && !(s.reach[n].debug == .opened) } := by
  unfold setDebug
  split
  · contradiction
  · rw [if_neg hd]

theorem exec_debugSet (reach level : Nat) (s : State) : exec (.debugSet reach level) s = execDebugSet reach level s := rfl

/-- DEBUG_SET to a level below OPEN, in service and not refused: of all reaches and keeper cores it writes the level, and ends the halt of
the core of a reach that was at OPEN. -/
theorem execDebugSet_of_ne_opened {s : State} {n : ReachId} {lv : Nat} {d : Debug} (hready : operatorReady s = true)
    (hlv : debugOf lv = some d) (hd : d ≠ .opened) (hlc : s.mer.lcMarginal = true → lv = 0)
    (hst : s.reach[n].state = .loading ∨ s.reach[n].state = .sealed) :
    ∃ t, execDebugSet n.val lv s = .next t ∧ t.reach = upd s.reach n (fun x => { x with debug := d }) ∧
      t.keeper = upd s.keeper (svcOf n) (fun k => { k with dbgHalted := k.dbgHalted && !(s.reach[n].debug == .opened) }) := by
  have hbad : ∀ u, Changes [.eph, .slu, .spdm, .chr] s u → debugBad u n lv = none := fun u hu =>
    debugBad_eq_none (debugOf_eq_some hlv ▸ debugCode_le_two d) (hu.mer (by decide) ▸ hlc) (hu.reach (by decide) ▸ hst)
  obtain ⟨u, hsu, hafter⟩ := reachCommand_of_ready "DEBUG_SET" n (bad := fun s n => debugBad s n lv)
    (fun n => setDebug n ((debugOf lv).getD .closed)) hready hbad
  have hreach : u.reach = s.reach := hsu.reach (by decide)
  have hne : u.reach[n].state ≠ .empty := by
    rw [hreach]
    rcases hst with hst | hst <;> rw [hst] <;> decide
  rw [hlv, Option.getD_some, setDebug_of_ne_opened hne hd] at hafter
  refine ⟨_, rfl, ?_, ?_⟩
  · rw [hlv, Option.getD_some, hafter.reach (by decide), State.onKeeper_reach, State.onReach_reach, hreach]
  · rw [hlv, Option.getD_some, hafter.keeper (by decide), State.onKeeper_keeper, State.onReach_keeper, hreach, hsu.keeper (by decide)]

/-- Settles O55: below OPEN the command writes the level of the one reach and, of its keeper core, the halt alone. -/
theorem debugLowering : Obligations.DebugLowering := by
  unfold Obligations.DebugLowering
  intro s n lv d hready hd hlower hst hlc
  have hbelow : d ≠ .opened := by rcases hlower with ⟨rfl, -⟩ | ⟨rfl, -⟩ <;> decide
  have hzero : s.mer.lcMarginal = true → lv = 0 := fun hm => debugOf_eq_some (hlc hm ▸ hd)
  obtain ⟨t, ht, hreach, hkeeper⟩ := execDebugSet_of_ne_opened hready hd hbelow hzero hst
  refine ⟨t, (exec_debugSet ..).trans ht, by simp [hreach], by simp [hreach], by simp [hreach], fun hopen => ?_⟩
  rw [hopen] at hkeeper
  simp [hkeeper]

end Sys2Proof.Machine
end
